-- ==== Sys2Proof/Word.lean ====
section
/-! DEFINITION. The words of the KF208: the byte of every frame, and the few fixed-width values the manual treats as
bits (check values, model codes, digests). -/

namespace Sys2Proof

/-- One byte of a frame, a key or a serial. -/
abbrev Byte := BitVec 8

/-- A key check value, 3 bytes (R4). -/
abbrev Kcv := BitVec 24

/-- A terminal model code, 4 bytes (R91). -/
abbrev ModelCode := BitVec 32

/-- A block check or a stream check, a CRC-32 (R78, R81). -/
abbrev Check32 := BitVec 32

/-- A credential digest (R25). DESIGN CHOICE, safe, log entry 6: the manual says "fixed-length value" and gives no length. -/
abbrev Digest := BitVec 256

/-- A key in the clear; its length is part of it (R138). -/
abbrev KeyBytes := List Byte

/-- A terminal serial, 1-16 bytes when valid (R111). -/
abbrev Serial := List Byte

/-- A bench port, 0-7. -/
abbrev Port := Fin 8

/-- A custodian link: 0 stands for link 1, 1 for link 2. -/
abbrev ConsoleLink := Fin 2

/-- A place of the custodian table: `c` stands for custodian number `c + 1` (R24). -/
abbrev Cust := Fin 8

/-- A slot number, 0-63 (R1). -/
abbrev SlotIx := Fin 64

/-- A registry position, 0-255 (R109). -/
abbrev RegIx := Fin 256

end Sys2Proof
end

