-- ==== Sys2Proof/Config.lean ====
section
/-! DEFINITION. What the manual leaves open: the computations of the block cipher, which it treats as opaque and of
which it gives the properties of R138 only, the digest of a credential (R25), and the order of two timers that expire in
the same second. Each is a constant with no body, so that nothing can be proved of its values but what
its type states: wrapping has an inverse, and an authenticator tells the changes that `Authenticator` names. -/

namespace Sys2Proof.Config

/-- The check value of a key: a fixed function of the key, its length included (R4, R138). Log entry 5. -/
opaque kcv : KeyBytes → Kcv

/-- Byte `i` of the key derived from a base key, a key set number and a counter (R138). Log entry 5. -/
opaque derivedByte : KeyBytes → Nat → Nat → Nat → Byte

/-- Byte `i` of the key combined from a set of components, handed over as the list of its members in one order, none of them
twice (R138, R142). Log entry 5. -/
opaque combinedByte : List KeyBytes → Nat → Byte

/-- What wrapping makes of `n` bytes under a wrapping key, with the bytes of the envelope before them. It is one to one, so
that a holder of the wrapping key recovers what was wrapped (R138). Log entry 5. -/
opaque wrapPermutation : KeyBytes → List Byte → (n : Nat) → Equiv.Perm (Fin n → Byte)

/-- Byte `i` of the wrapping overhead that follows a key before it is wrapped, by wrapping key, bytes of the envelope before
it and key (R138, R144). Log entry 5. -/
opaque overheadByte : KeyBytes → List Byte → KeyBytes → Nat → Byte

/-- Eight bytes, with zeros before those of a shorter list. -/
def eightBytes (b : List Byte) : List Byte := List.replicate (8 - b.length) 0 ++ b

/-- A way to compute an authenticator of 8 bytes (R212) under a key over bytes, by which a change of those bytes fails the check
(R68, R138): a change of up to 8 bytes that stand together, and at the front of an envelope also one by which an optional field
comes or goes. No way to compute 8 bytes tells every other change too: log entry 37. -/
structure Authenticator where
  code : KeyBytes → List Byte → Fin 8 → Byte
  detects : ∀ (key : KeyBytes) (before part changed after : List Byte), part.length ≤ 8 → changed.length ≤ 8 →
    (before = [] ∨ part.length = changed.length) → eightBytes part ≠ eightBytes changed →
    code key (before ++ part ++ after) ≠ code key (before ++ changed ++ after)

/-! That there is such a way: bytes folded by exclusive or into eight places. It only witnesses that `Authenticator` has a member;
nothing of it can be proved of the constant `authenticator` below. -/

/-- The places turn by one, and the byte joins the last. -/
def foldByte (acc : Fin 8 → Byte) (b : Byte) : Fin 8 → Byte := fun i => if i = 7 then acc 0 ^^^ b else acc (i + 1)

theorem foldByte_injective {f g : Fin 8 → Byte} {b : Byte} (h : foldByte f b = foldByte g b) : f = g := by
  funext i
  have at_last : f 0 ^^^ b = g 0 ^^^ b := by simpa [foldByte] using congrFun h 7
  have at_others (j : Fin 8) (hj : j ≠ 7) : f (j + 1) = g (j + 1) := by simpa [foldByte, hj] using congrFun h j
  rcases eq_or_ne i 0 with rfl | hi
  · exact (BitVec.xor_left_inj b).1 at_last
  · simpa using at_others (i - 1) (by omega)

theorem foldl_foldByte_injective (after : List Byte) {f g : Fin 8 → Byte}
    (h : after.foldl foldByte f = after.foldl foldByte g) : f = g := by
  induction after generalizing f g with
  | nil => exact h
  | cons b t ih => exact foldByte_injective (ih h)

theorem foldl_foldByte_eight (f : Fin 8 → Byte) (b : List Byte) (hb : b.length = 8) :
    b.foldl foldByte f = fun i => f i ^^^ b[i] := by
  match b, hb with
  | [_, _, _, _, _, _, _, _], _ =>
    funext i
    fin_cases i <;> simp [foldByte]

theorem eq_of_foldl_eight {f : Fin 8 → Byte} {b c : List Byte} (hb : b.length = 8) (hc : c.length = 8)
    (h : b.foldl foldByte f = c.foldl foldByte f) : b = c := by
  rw [foldl_foldByte_eight f b hb, foldl_foldByte_eight f c hc] at h
  refine List.ext_getElem (hb.trans hc.symm) fun i h1 _ => ?_
  simpa using congrFun h ⟨i, by omega⟩

theorem foldl_foldByte_eightBytes (b : List Byte) :
    (eightBytes b).foldl foldByte (fun _ => 0) = b.foldl foldByte fun _ => 0 := by
  have zeros (n : Nat) : (List.replicate n (0 : Byte)).foldl foldByte (fun _ => 0) = fun _ => 0 := by
    induction n with
    | zero => rfl
    | succ n ih =>
      rw [List.replicate_succ, List.foldl_cons, show foldByte (fun _ => 0) 0 = fun _ => 0 by funext i; simp [foldByte], ih]
  rw [eightBytes, List.foldl_append, zeros]

/-- The witness. -/
def foldedBytes : Authenticator where
  code := fun _ b => b.foldl foldByte fun _ => 0
  detects := by
    intro _ before part changed after hp hc hb hne he
    simp only [List.foldl_append] at he
    have h := foldl_foldByte_injective after he
    rcases hb with rfl | hl
    · refine hne (eq_of_foldl_eight (f := fun _ => 0) (by simp [eightBytes]; omega) (by simp [eightBytes]; omega) ?_)
      rw [foldl_foldByte_eightBytes, foldl_foldByte_eightBytes]
      exact h
    · have := eq_of_foldl_eight (f := before.foldl foldByte fun _ => 0)
        (b := part ++ List.replicate (8 - part.length) 0) (c := changed ++ List.replicate (8 - part.length) 0)
        (by simp; omega) (by simp; omega) (by rw [List.foldl_append, List.foldl_append, h])
      exact hne (by rw [List.append_cancel_right this])

/-- The authenticator computed under a wrapping key over the bytes of an envelope before it (R68, R138): some member of
`Authenticator`, and no more can be proved of it. The argument only shows that there is a member. Log entries 5 and 37. -/
opaque authenticator (witness : Inhabited Authenticator) : Authenticator

/-- The digest of a credential: a fixed function of the credential (R25). Log entry 6. -/
opaque digest : List Byte → Digest

/-- Free value: a byte the part shifts out while a transaction of another type than 01h and 02h goes on. The manual gives the
bytes of a request write and of a response fetch only (R194). Log entry 38. -/
opaque strayByte : Nat → Byte

/-- Free value: which place a timer takes among those that expire in the same second. The manual says either may be
taken first (R57, R116, R171). Log entry 3. -/
opaque expiryPlace : Nat → Nat

end Sys2Proof.Config
end

