-- ==== Sys2Proof/Syntax.lean ====
section
/-! DEFINITION. The commands the KF208 takes: one constructor for each row of spec/opcode_table.json, with the operands
the row's rule and layout give it (R210, R211). A typed row stands for a frame that reads as its kind; what does not read
comes as REQUEST_WRITE_DISCARD, CONSOLE_BAD_MESSAGE or BENCH_BAD_MESSAGE (log entry 7). -/

namespace Sys2Proof

/-- One of the ten serial links (R199). -/
inductive LinkId where
  | console (link : ConsoleLink)
  | bench (port : Port)
  deriving DecidableEq, Repr

/-- A command of the part. Numbers that travel as bytes are `Nat` here, within the width `WellFormed` states. -/
inductive Instr where
  -- control requests (R210), each with the tag the line controller chose
  | profileBegin (tag : Byte)
  /-- `body` is the request body: block kind, block check, block body (R210). -/
  | profileBlock (tag : Byte) (body : List Byte)
  | profileCommit (tag : Byte) (streamCheck : Check32)
  | profileAbandon (tag : Byte)
  | linePause (tag : Byte)
  | lineResume (tag : Byte)
  | lineClose (tag : Byte)
  | lineReset (tag : Byte)
  /-- `body` is the request body: target slot, transport slot, bank envelope (R210, R212). -/
  | importKey (tag : Byte) (body : List Byte)
  | slotQuery (tag : Byte) (slot : Nat)
  | regAdd (tag : Byte) (serial : Serial) (recipe : Option Nat)
  | regQuery (tag : Byte) (serial : Serial)
  /-- `expected` and `new` are state codes of R209. -/
  | regSetState (tag : Byte) (serial : Serial) (expected new : Nat)
  | regRemove (tag : Byte) (serial : Serial) (expected : Nat)
  | regScan (tag : Byte) (position count : Nat)
  | counterRead (tag : Byte) (slot : Nat)
  | counterAdvance (tag : Byte) (slot value : Nat)
  | journalRead (tag : Byte) (count : Nat)
  | journalRelease (tag : Byte) (sequence : Nat)
  | status (tag : Byte) (clearSet : BitVec 12) (clearCounts : Bool)
  | setMask (tag : Byte) (mask : BitVec 12)
  -- SPI transactions
  /-- `clocks`: whole bytes clocked after the type byte 02h (R198). -/
  | responseFetch (clocks : Nat)
  /-- `bytes`: every byte the master sent in the transaction, the type byte first (R194, R196). -/
  | requestWriteDiscard (bytes : List Byte)
  -- console messages (R211)
  | logon (link : ConsoleLink) (number : Nat) (credential : List Byte)
  | logoff (link : ConsoleLink)
  /-- `group` is a group code of R209. -/
  | enrolFirst (link : ConsoleLink) (number group : Nat) (credential : List Byte)
  | zeroise (link : ConsoleLink)
  | query (link : ConsoleLink)
  /-- `cls` is a class code of R209. -/
  | openAssemble (link : ConsoleLink) (slot cls length count : Nat) (keySet : Option Nat)
  | openErase (link : ConsoleLink) (slot : Nat)
  | openOpenLine (link : ConsoleLink)
  | openEnrol (link : ConsoleLink) (number group : Nat) (credential : List Byte)
  | openRevoke (link : ConsoleLink) (number : Nat)
  | openUnlock (link : ConsoleLink) (number : Nat)
  | component (link : ConsoleLink) (value : List Byte) (check : Kcv)
  | accept (link : ConsoleLink)
  | reject (link : ConsoleLink)
  | cancel (link : ConsoleLink)
  /-- `kind` is the kind byte of the message that does not read. -/
  | consoleBadMessage (link : ConsoleLink) (kind : Byte)
  -- bench messages (R211)
  | hello (port : Port) (serial : Serial) (model : ModelCode)
  | fetch (port : Port) (index : Nat)
  | confirm (port : Port) (index : Nat) (kcv : Kcv)
  | bye (port : Port)
  | benchBadMessage (port : Port)
  -- events of the serial links
  | linkBadFrame (link : LinkId)
  | receiverTimeout (link : LinkId)
  | transmitDone (link : LinkId)
  -- input lines
  | consolePresentAsserted (link : ConsoleLink)
  | consolePresentDeasserted (link : ConsoleLink)
  | terminalPresentAsserted (port : Port)
  | terminalPresentDeasserted (port : Port)
  | tamperLineAsserted
  | tamperLineDeasserted
  | tamperLatchSet
  | powerOn
  | powerOff
  | resetPinAsserted
  | resetPinReleased
  -- timer expiries
  | custodianIdleExpiry (link : ConsoleLink)
  | windowExpiry
  | sessionIdleExpiry (port : Port)
  | entryAged (position : RegIx)
  -- completions of the running cipher job
  | prepareSharedDone
  | prepareDerivedDone
  | checkComponentDone
  | combineDone
  | unwrapDone
  -- late rows of the table
  | linkByteReceived (link : LinkId) (byte : Byte)
  | batteryLoss
  deriving DecidableEq, Repr

end Sys2Proof
end

