-- ==== Sys2Proof/WellFormed.lean ====
section
/-! DEFINITION. Which commands a frame of the layouts of R209 to R211 can spell: every number within the width of its
field, every byte string within what its length byte or its frame can hold. A value out of its field's RANGE is well
formed; the owning rule answers it. -/

namespace Sys2Proof

/-- A number that fits one byte (R209). -/
def fits1 (n : Nat) : Bool := n < 256

/-- A number that fits four bytes (R209). -/
def fits4 (n : Nat) : Bool := n < 4294967296

/-- A byte string that its length byte can give (R209). -/
def fitsString (b : List Byte) : Bool := b.length < 256

/-- An optional one-byte field (R209). -/
def fitsOption1 : Option Nat → Bool
  | none => true
  | some n => fits1 n

/-- An optional four-byte field (R209). -/
def fitsOption4 : Option Nat → Bool
  | none => true
  | some n => fits4 n

/-- A console or bench message body is at most 255 bytes, its length byte's range (R199). -/
def fitsLinkBody (n : Nat) : Bool := n < 256

namespace Instr

/-- The command can be spelled by a frame or an event of the part. -/
def wf : Instr → Bool
  | profileBegin _ | profileCommit _ _ | profileAbandon _ | linePause _ | lineResume _ | lineClose _ | lineReset _ => true
  | profileBlock _ body | importKey _ body => body.length ≤ 2048
  | slotQuery _ slot | counterRead _ slot => fits1 slot
  | regAdd _ serial recipe => fitsString serial && fitsOption1 recipe
  | regQuery _ serial => fitsString serial
  | regSetState _ serial expected new => fitsString serial && fits1 expected && fits1 new
  | regRemove _ serial expected => fitsString serial && fits1 expected
  | regScan _ position count => fits1 position && fits1 count
  | counterAdvance _ slot value => fits1 slot && fits4 value
  | journalRead _ count => fits1 count
  | journalRelease _ sequence => fits4 sequence
  | status _ _ _ | setMask _ _ | responseFetch _ | requestWriteDiscard _ => true
  | logon _ number credential => fits1 number && fitsLinkBody (credential.length + 2)
  | logoff _ | zeroise _ | query _ | openOpenLine _ | accept _ | reject _ | cancel _ | consoleBadMessage _ _ => true
  | enrolFirst _ number group credential => fits1 number && fits1 group && fitsLinkBody (credential.length + 3)
  | openAssemble _ slot cls length count keySet =>
      fits1 slot && fits1 cls && fits1 length && fits1 count && fitsOption4 keySet
  | openErase _ slot => fits1 slot
  | openEnrol _ number group credential => fits1 number && fits1 group && fitsLinkBody (credential.length + 4)
  | openRevoke _ number | openUnlock _ number => fits1 number
  | component _ value _ => fitsLinkBody (value.length + 4)
  | hello _ serial _ => fitsLinkBody (serial.length + 5)
  | fetch _ index | confirm _ index _ => fits1 index
  | bye _ | benchBadMessage _ => true
  | linkBadFrame _ | receiverTimeout _ | transmitDone _ | linkByteReceived _ _ => true
  | consolePresentAsserted _ | consolePresentDeasserted _ | terminalPresentAsserted _ | terminalPresentDeasserted _ => true
  | tamperLineAsserted | tamperLineDeasserted | tamperLatchSet => true
  | powerOn | powerOff | resetPinAsserted | resetPinReleased | batteryLoss => true
  | custodianIdleExpiry _ | windowExpiry | sessionIdleExpiry _ | entryAged _ => true
  | prepareSharedDone | prepareDerivedDone | checkComponentDone | combineDone | unwrapDone => true

end Instr

end Sys2Proof
end

