-- ==== Sys2Proof/Decode.lean ====
section
/-! DEFINITION. The words of spec/opcode_table.json. No row of the table gives bits ("fields" is empty in all 69 rows), so
no word spells a command (log entry 30). The bytes of the frames are read in Machine/Wire.lean. -/

namespace Sys2Proof

/-- The command a word of the table spells: none, since no row gives bits. -/
def decodeTableWord (_nbits _w : Nat) : Option Instr := none

end Sys2Proof
end

