-- ==== Sys2Proof/Machine/Table.lean ====
section
/-! DEFINITION. A fixed number of like things (the 64 slots, the 8 ports, the 256 registry places, ...) as plain data with
its length: total reads and writes by an index in range. -/

namespace Sys2Proof.Machine

/-- `n` things of one type, by index. -/
structure Tab (α : Type) (n : Nat) where
  data : List α
  size : data.length = n
  deriving DecidableEq, Repr

namespace Tab

/-- The same thing in every place. -/
def fill (n : Nat) {α : Type} (a : α) : Tab α n := ⟨List.replicate n a, List.length_replicate⟩

/-- The thing in place `i`. -/
def get {α : Type} {n : Nat} (t : Tab α n) (i : Fin n) : α := t.data[i.val]'(by rw [t.size]; exact i.isLt)

/-- Place `i` takes a new thing. -/
def set {α : Type} {n : Nat} (t : Tab α n) (i : Fin n) (a : α) : Tab α n :=
  ⟨t.data.set i.val a, by rw [List.length_set]; exact t.size⟩

/-- Every place is changed by one function. -/
def map {α β : Type} {n : Nat} (f : α → β) (t : Tab α n) : Tab β n :=
  ⟨t.data.map f, by rw [List.length_map]; exact t.size⟩

/-- One place is changed by a function. -/
def modify {α : Type} {n : Nat} (t : Tab α n) (i : Fin n) (f : α → α) : Tab α n := t.set i (f (t.get i))

end Tab

/-- Every index below `n`, in rising order. -/
def allBelow (n : Nat) : List (Fin n) := (List.range n).filterMap fun k => if h : k < n then some ⟨k, h⟩ else none

/-- The bench ports in port order, port 0 first (R162). -/
def allPorts : List Port := [0, 1, 2, 3, 4, 5, 6, 7]

/-- The custodian links, link 1 first. -/
def allConsoles : List ConsoleLink := [0, 1]

end Sys2Proof.Machine
end

