-- ==== Sys2Proof/Machine/Types.lean ====
section
/-! DEFINITION. The parts of the state: slots, custodians, profile, registry, journal, ceremony, engine, contexts, links,
and the messages that wait in their queues. Names are the manual's. -/

namespace Sys2Proof.Machine

/-! ### Status codes (00_scope.md, Status and reason codes) -/

inductive Status where
  | ok | busy | sequence | wrongState | range | notFound | notLive | paused
  | zeroised | unknownTerminal | duplicateSerial | alreadyComplete | rejectedTerminal | modelMismatch | recipeNotAllowed
  | recipeChanged
  | registryFull | noSuchStep | alreadyDelivered | slotUnavailable | notPermitted | wait | counterExhausted | kcvMismatch
  | sessionEnded | closed | occupied | wrongClass | generationSpent | journalFull | authFailed | badCheck
  | denied | locked | alreadyPresent | notLoggedOn | sameGroup | alreadyContributed | lastOfGroup | noStream
  | stagingFull | streamSpoilt | missingBlock | duplicateBlock | badRegion | badRecipe | badPort | badManifest
  deriving DecidableEq, Repr

/-! ### Key store (R1-R6) -/

inductive KeyClass where
  | transport | baseDerivation | working
  deriving DecidableEq, Repr

/-- Who holds an ASSEMBLING slot (R1). -/
inductive Holder where
  | ceremony | importUnit
  deriving DecidableEq, Repr

/-- The class of a held key, with the fields present for BASE_DERIVATION only (R1). -/
inductive KeyUse where
  | transport
  | baseDerivation (keySet nextCounter : Nat)
  | working
  deriving DecidableEq, Repr

/-- A key held by a slot in ACTIVE, EXHAUSTED or ERASING (R1). `material` is empty once the battery supply has destroyed
it (R105). -/
structure HeldKey where
  use : KeyUse
  length : Nat
  material : KeyBytes
  kcv : Kcv
  deriving DecidableEq, Repr

/-- The state of a slot with the fields present in it (R1, R3). -/
inductive SlotContent where
  | empty
  | assembling (holder : Holder)
  | active (key : HeldKey)
  | exhausted (key : HeldKey)
  | erasing (key : HeldKey)
  deriving DecidableEq, Repr

structure Slot where
  content : SlotContent
  generation : Nat
  inUse : Nat
  deriving DecidableEq, Repr

/-! ### Custodian table (R24) -/

inductive Group where
  | a | b
  deriving DecidableEq, Repr

inductive EntryLock where
  | enrolled | locked
  deriving DecidableEq, Repr

/-- A present entry of the custodian table. -/
structure CustEntry where
  group : Group
  digest : Digest
  lock : EntryLock
  fails : Nat
  deriving DecidableEq, Repr

/-- A custodian as the Custodian Unit hands one over: number and group (R26). -/
structure Person where
  cust : Cust
  group : Group
  deriving DecidableEq, Repr

/-- The two custodians a record names, group A first (R179). -/
structure Pair where
  a : Cust
  b : Cust
  deriving DecidableEq, Repr

/-! ### Committed profile (R84-R94) -/

inductive Policy where
  | manifestOnly | openPolicy
  deriving DecidableEq, Repr

structure LineParams where
  policy : Policy
  sessionIdle : Nat
  retry : Nat
  window : Nat
  custodianIdle : Nat
  ageLimit : Nat
  highMark : Nat
  lowMargin : Nat
  deriving DecidableEq, Repr

structure PortEntry where
  attach : Bool
  allowed : BitVec 16
  deriving DecidableEq, Repr

structure Region where
  number : Nat
  base : Nat
  size : Nat
  classes : BitVec 3
  ceremonyWritable : Bool
  importWritable : Bool
  ports : BitVec 8
  deriving DecidableEq, Repr

inductive StepType where
  | shared | derived
  deriving DecidableEq, Repr

structure RecipeStep where
  terminalSlot : Nat
  kind : StepType
  source : SlotIx
  usage : Nat
  deriving DecidableEq, Repr

structure Recipe where
  number : Fin 16
  version : Nat
  model : ModelCode
  cover : SlotIx
  steps : List RecipeStep
  deriving DecidableEq, Repr

structure Profile where
  params : LineParams
  ports : Tab PortEntry 8
  regions : List Region
  recipes : List Recipe
  deriving DecidableEq, Repr

/-! ### Registry (R111) -/

inductive Origin where
  | manifest | discovered
  deriving DecidableEq, Repr

inductive EntryState where
  | expected | loading | partialLoad | complete | rejected
  deriving DecidableEq, Repr

structure Entry where
  serial : Serial
  origin : Origin
  recipe : Option (Fin 16)
  version : Option Nat
  state : EntryState
  boundPort : Option Port
  delivered : BitVec 12
  mismatches : Nat
  unboundSince : Option Nat
  deriving DecidableEq, Repr

abbrev Registry := Tab (Option Entry) 256

/-! ### Journal (R177-R181) -/

/-- The void reasons, which are also the end reasons and the HALT reasons (R180, 00_scope.md). -/
inductive VoidReason where
  | kcvMismatch | abandoned | detached | idleTimeout | lineClosed | zeroised | reset | powerLost
  deriving DecidableEq, Repr

/-- What a DELIVERED or VOIDED record says of its step (R179). -/
structure StepFacts where
  port : Port
  serial : Serial
  recipe : Fin 16
  version : Nat
  index : Nat
  terminalSlot : Nat
  source : SlotIx
  sourceGen : Nat
  cover : SlotIx
  coverGen : Nat
  counter : Option Nat
  deriving DecidableEq, Repr

/-- A step in flight, kept as the port's pending-step record (R147, R149). Its type is DERIVED when it has a counter. -/
structure PendingStep where
  facts : StepFacts
  usage : Nat
  keySet : Option Nat
  expected : Option Kcv
  deriving DecidableEq, Repr

/-- The origin of an installed key (R179). -/
inductive KeyOrigin where
  | ceremony (by_ : Pair)
  | imported (transport : SlotIx) (generation : Nat)
  deriving DecidableEq, Repr

inductive CustodianAction where
  | enrol | revoke | unlock
  deriving DecidableEq, Repr

inductive TamperCause where
  | tamperLine
  | custodian (who : Cust)
  | resetWhileAsserted
  deriving DecidableEq, Repr

inductive RecordBody where
  | delivered (step : StepFacts) (kcv : Kcv)
  | voided (step : StepFacts) (kcv : Option Kcv) (reason : VoidReason)
  | keyInstalled (slot : SlotIx) (generation : Nat) (cls : KeyClass) (kcv : Kcv) (origin : KeyOrigin)
  | keyErased (slot : SlotIx) (generation : Nat) (by_ : Pair)
  | lineOpened (by_ : Pair)
  | custodianChanged (action : CustodianAction) (who : Cust) (by_ : Pair)
  | counterAdvanced (slot : SlotIx) (generation old new : Nat)
  | tamper (cause : TamperCause) (count : Nat)
  deriving DecidableEq, Repr

structure Record where
  sequence : Nat
  body : RecordBody
  deriving DecidableEq, Repr

/-- A holder of a journal reservation (R181). -/
inductive ResHolder where
  | bench (port : Port)
  | ceremony
  | importUnit
  | counterAdvance
  deriving DecidableEq, Repr

structure Journal where
  records : List Record
  nextSequence : Nat
  reservations : List ResHolder
  deriving DecidableEq, Repr

/-! ### Secure store (00_scope.md, R108) -/

/-- What the battery keeps while main power is off. -/
structure Store where
  slots : Tab Slot 64
  custodians : Tab (Option CustEntry) 8
  profile : Option Profile
  registry : Registry
  journal : Journal
  steps : Tab (Option PendingStep) 8
  tamperLatch : Bool
  deriving DecidableEq, Repr

/-! ### Line (R95) -/

/-- The line state; CLOSING holds the tag of the withheld LINE_CLOSE. -/
inductive LineState where
  | setup | live | paused
  | closing (withheld : Byte)
  | zeroised
  deriving DecidableEq, Repr

inductive ResetCause where
  | powerOn | lineReset | pin | storeLost
  deriving DecidableEq, Repr

/-! ### Ceremony (R39-R41) -/

inductive CeremonyKind where
  | assemble | erase | openLine | enrol | revoke | unlock
  deriving DecidableEq, Repr

/-- The parameters of a ceremony (R43-R48); an ENROL holds the digest in place of the credential (R46). -/
inductive CeremonyParams where
  | assemble (slot : SlotIx) (cls : KeyClass) (length count : Nat) (keySet : Option Nat)
  | erase (slot : SlotIx)
  | openLine
  | enrol (who : Cust) (group : Group) (digest : Digest)
  | revoke (who : Cust)
  | unlock (who : Cust)
  deriving DecidableEq, Repr

inductive Phase where
  | gathering | combining | verifying | draining
  deriving DecidableEq, Repr

structure Component where
  who : Person
  value : KeyBytes
  deriving DecidableEq, Repr

/-- The component under check, with the link whose COMPONENT awaits the answer. -/
structure UnderCheck where
  who : Person
  value : KeyBytes
  check : Kcv
  link : ConsoleLink
  deriving DecidableEq, Repr

structure CombinedKey where
  key : KeyBytes
  kcv : Kcv
  deriving DecidableEq, Repr

/-- A timer that runs: seconds counted, and the count at which it expires. -/
structure Timer where
  count : Nat
  limit : Nat
  deriving DecidableEq, Repr

/-- An open ceremony. Check pending is `underCheck.isSome`. -/
structure CeremonyWork where
  phase : Phase
  opener : Person
  params : CeremonyParams
  underCheck : Option UnderCheck
  held : List Component
  bound : List Cust
  badEntries : Nat
  combined : Option CombinedKey
  acceptA : Option Cust
  acceptB : Option Cust
  window : Option Timer
  deriving DecidableEq, Repr

inductive CeremonyRun where
  | idle
  | work (w : CeremonyWork)
  | settling (kind : CeremonyKind) (opener : Person)
  deriving DecidableEq, Repr

inductive AbortReason where
  | timeout | rejected | cancelled | custodianLeft | tooManyBad | zeroised
  deriving DecidableEq, Repr

/-- The slot or custodian a ceremony names (R41). -/
inductive Named where
  | nothing
  | slot (slot : SlotIx)
  | custodian (who : Cust)
  deriving DecidableEq, Repr

/-- `aborted` is absent when the ceremony COMPLETED. -/
structure LastOutcome where
  kind : CeremonyKind
  aborted : Option AbortReason
  named : Named
  deriving DecidableEq, Repr

structure Ceremony where
  run : CeremonyRun
  last : Option LastOutcome
  deriving DecidableEq, Repr

/-- The six states of the context by name (R40). -/
inductive CeremonyState where
  | idle | gathering | combining | verifying | draining | settling
  deriving DecidableEq, Repr

/-! ### Import context (R65); absent in IDLE -/

structure ImportWork where
  tag : Byte
  target : SlotIx
  transport : SlotIx
  transportGen : Nat
  zeroised : Bool
  deriving DecidableEq, Repr

/-! ### Profile stream (R76); absent in IDLE -/

structure StagedBlock where
  kind : Byte
  body : List Byte
  check : Check32
  deriving DecidableEq, Repr

structure Stream where
  spoilt : Bool
  staged : List StagedBlock
  deriving DecidableEq, Repr

/-! ### Cipher Engine (R132, 8.3) -/

/-- A bank envelope as its layout gives it (R212). -/
structure BankEnvelope where
  version : Byte
  cls : Byte
  length : Nat
  keySet : Option Nat
  wrapped : List Byte
  authenticator : List Byte
  deriving DecidableEq, Repr

inductive JobInputs where
  | prepareShared (source cover : KeyBytes) (terminalSlot usage : Nat)
  | prepareDerived (base : KeyBytes) (keySet counter : Nat) (cover : KeyBytes) (terminalSlot usage : Nat)
  | checkComponent (value : KeyBytes) (check : Kcv)
  | combine (components : List KeyBytes)
  | unwrap (transport : KeyBytes) (envelope : BankEnvelope)
  deriving DecidableEq, Repr

structure Job where
  requester : Fin 10
  inputs : JobInputs
  orphaned : Bool
  zeroised : Bool
  deriving DecidableEq, Repr

structure Engine where
  running : Option Job
  waiting : Tab (Option Job) 10
  lastGranted : Fin 10
  deriving DecidableEq, Repr

/-! ### Messages that leave the part (R209-R213) -/

/-- A terminal envelope (R144, R212). -/
structure TerminalEnvelope where
  terminalSlot : Nat
  usage : Nat
  length : Nat
  derivation : Option (Nat × Nat)
  wrapped : List Byte
  authenticator : List Byte
  deriving DecidableEq, Repr

inductive BenchOut where
  | welcome (recipe : Fin 16) (version count : Nat) (missing : List Nat)
  | key (index : Nat) (envelope : TerminalEnvelope)
  | verdict (status : Status) (complete ended : Bool)
  | halt (reason : VoidReason)
  deriving DecidableEq, Repr

inductive NoticeEvent where
  | opened | passed | failed | lastPassed | combined | acceptanceHeld | drainBegun | completed | aborted | orphanDone
  deriving DecidableEq, Repr

/-- The result of a ceremony as a notice or a QUERY carries it (R62). -/
inductive CeremonyResult where
  | completed
  | aborted (reason : AbortReason)
  deriving DecidableEq, Repr

/-- A CEREMONY_NOTICE (R62). -/
structure Notice where
  state : CeremonyState
  event : NoticeEvent
  kind : Option CeremonyKind
  opener : Option Person
  named : Named
  componentCount : Option Nat
  held : Option (List Person)
  badEntries : Option Nat
  acceptances : List Person
  kcv : Option Kcv
  result : Option CeremonyResult
  deriving DecidableEq, Repr

/-- The parameters a QUERY shows: those of the OPEN, without an ENROL's credential (R63). -/
inductive ShownParams where
  | assemble (slot : SlotIx) (cls : KeyClass) (length count : Nat) (keySet : Option Nat)
  | erase (slot : SlotIx)
  | openLine
  | enrol (who : Cust) (group : Group)
  | revoke (who : Cust)
  | unlock (who : Cust)
  deriving DecidableEq, Repr

/-- One entry of the custodian part (R36). -/
structure ShownEntry where
  group : Group
  lock : EntryLock
  fails : Nat
  deriving DecidableEq, Repr

/-- A QUERY answer (R36, R63). -/
structure QueryReport where
  link1 : Option Person
  link2 : Option Person
  table : List (Option ShownEntry)
  state : CeremonyState
  checkPending : Option Bool
  kind : Option CeremonyKind
  opener : Option Person
  params : Option ShownParams
  componentCount : Option Nat
  held : Option (List Person)
  underCheck : Option Cust
  badEntries : Option Nat
  acceptances : List Person
  kcv : Option Kcv
  windowLeft : Option Nat
  last : Option LastOutcome
  deriving DecidableEq, Repr

inductive AnswerBody where
  | nothing
  | person (who : Person)
  | component (held due : Nat)
  | query (report : QueryReport)
  deriving DecidableEq, Repr

inductive ConsoleOut where
  | answer (kind : Byte) (status : Status) (body : AnswerBody)
  | notice (notice : Notice)
  deriving DecidableEq, Repr

/-- A slot as SLOT_QUERY reports it (R21): every field but the key material. -/
structure SlotReport where
  slot : SlotIx
  content : SlotContent
  generation : Nat
  inUse : Nat
  region : Option Nat
  deriving DecidableEq, Repr

/-- The held state a COUNTER_READ reports (R19). -/
inductive HeldState where
  | active | exhausted | erasing
  deriving DecidableEq, Repr

/-- The eight states of a port context by name (R148). -/
inductive ContextState where
  | off | vacant | attached | identified | preparing | offered | finished | draining
  deriving DecidableEq, Repr

/-- What a STATUS reports (R205). -/
structure StatusReport where
  line : LineState
  resetCause : ResetCause
  flags : BitVec 12
  mask : BitVec 12
  frameErrors : Nat
  overruns : Nat
  occupancy : Nat
  records : Nat
  reservations : Nat
  ceremony : CeremonyState
  contexts : List ContextState
  deriving DecidableEq, Repr

/-- The body of a response: the fields the owning rule lists (R197). -/
inductive ResponseBody where
  | nothing
  | staging (position : Nat)
  | committed (recipes lines inserted evicted : Nat) (streamCheck : Check32)
  | imported (slot : SlotIx) (generation : Nat) (cls : KeyClass) (length : Nat) (kcv : Kcv)
  | slot (report : SlotReport)
  | counter (state : HeldState) (generation keySet nextCounter remaining : Nat)
  | advance (nextCounter : Nat)
  | regAdd (position : Nat) (before : Option Entry) (evicted : Option Serial)
  | regEntry (position : Nat) (entry : Entry)
  | regScan (found : List (Nat × Entry)) (next : Option Nat)
  | journalRead (records : List Record) (held reservations nextSequence : Nat)
  | journalRelease (removed remaining : Nat)
  | status (report : StatusReport)
  | oldMask (mask : BitVec 12)
  deriving DecidableEq, Repr

structure Response where
  tag : Byte
  kind : Byte
  status : Status
  changed : Bool
  body : ResponseBody
  deriving DecidableEq, Repr

/-- An outstanding record: WITHHELD or QUEUED (R195). -/
structure Outstanding where
  tag : Byte
  kind : Byte
  queued : Bool
  deriving DecidableEq, Repr

/-! ### Links and contexts (R26, R147, R199-R201) -/

inductive Receiver where
  | idle
  | assembling (bytes : List Byte) (gap : Nat)
  deriving DecidableEq, Repr

/-- The logon record while a custodian is logged on: the custodian and the idle timer with its limit in force. -/
structure Logon where
  who : Cust
  idle : Timer
  deriving DecidableEq, Repr

/-- A custodian link. `sent` is the model's own output field: the bytes of the last message sent whole (log entry 25). -/
structure Console where
  present : Bool
  logon : Option Logon
  unanswered : Bool
  rx : Receiver
  tx : List ConsoleOut
  sent : List Byte
  deriving DecidableEq, Repr

/-- The bound entry and the session recipe (R147). -/
structure Session where
  serial : Serial
  recipe : Fin 16
  version : Nat
  stepCount : Nat
  cover : SlotIx
  deriving DecidableEq, Repr

/-- A port context, with the fields present in each state (R147, R148). Its step in flight is the port's pending-step
record. -/
inductive PortContext where
  | off | vacant | attached
  | identified (session : Session) (idle : Timer)
  | preparing (session : Session)
  | offered (session : Session) (idle : Timer)
  | finished
  | draining (reason : VoidReason) (detachMark : Bool)
  deriving DecidableEq, Repr

/-- A bench link and its context. `sent` as for a console. -/
structure Bench where
  present : Bool
  ctx : PortContext
  rx : Receiver
  tx : List BenchOut
  sent : List Byte
  deriving DecidableEq, Repr

/-- The twelve events of the Attention Unit, member 0 first (R203, R209). -/
inductive Event where
  | responseReady | frameError | overrun | journalHigh | terminalDone | terminalFault | duplicateSerial | counterLow
  | counterExhausted | lineState | ceremonyEnd | tamper
  deriving DecidableEq, Repr

end Sys2Proof.Machine
end

