-- ==== Sys2Proof/Machine/State.lean ====
section
/-! DEFINITION. The state of the KF208 as plain data, the reasons a step can stop (none is used: the part has no stop),
and the state after reset. -/

namespace Sys2Proof.Machine

/-- The part. The first group is the secure store; the others are the blocks' own state, the input lines and supplies, and
the model's own fields. -/
structure State where
  store : Store
  line : LineState
  resetCause : ResetCause
  stream : Option Stream
  ceremony : Ceremony
  importWork : Option ImportWork
  engine : Engine
  consoles : Tab Console 2
  benches : Tab Bench 8
  outstanding : List Outstanding
  responses : List Response
  flags : BitVec 12
  mask : BitVec 12
  frameErrors : Nat
  overruns : Nat
  power : Bool
  resetPin : Bool
  tamperLine : Bool
  battery : Bool
  /-- main power came while the reset pin was asserted, and its reset is still to be made (R106) -/
  powerResetOwed : Bool
  /-- the secure store was lost, and the reset that reports it is still to be made (R108) -/
  storeLost : Bool
  /-- the model's own: the bytes the part shifted out in the last SPI transaction, from its type byte on (log entry 25) -/
  shiftedOut : List Byte
  /-- the model's own: how many free values have been taken (log entry 3) -/
  freeCount : Nat
  /-- the commands that wait, first in, first out -/
  pending : List Instr
  deriving DecidableEq, Repr

/-- A fault that stops the part. The KF208 has none, so this type has no constructor: each of its refusals is an answer
with a status code, and the part goes on (R26, R197). That no meaning can fault is safe: nothing is left out by it. -/
inductive Fault
  deriving DecidableEq, Repr

/-- Why a command has no outcome. -/
inductive Refusal where
  /-- Raised by an arm of `exec` whose command has no meaning yet; no arm does (safe). -/
  | notModelled (mnemonic : String)
  deriving DecidableEq, Repr

/-- An empty slot that has received no install (R23). -/
def Slot.initial : Slot := { content := .empty, generation := 0, inUse := 0 }

/-- The journal after a store loss (R193). -/
def Journal.initial : Journal := { records := [], nextSequence := 1, reservations := [] }

/-- Every stored item at its initial value, as after a store loss (R108). -/
def Store.initial : Store where
  slots := Tab.fill 64 Slot.initial
  custodians := Tab.fill 8 none
  profile := none
  registry := Tab.fill 256 none
  journal := Journal.initial
  steps := Tab.fill 8 none
  tamperLatch := false

/-- The engine after a reset (R146). -/
def Engine.initial : Engine := { running := none, waiting := Tab.fill 10 none, lastGranted := 9 }

/-- A custodian link with no console, after a reset (R38, R199, R201). -/
def Console.initial : Console :=
  { present := false, logon := none, unanswered := false, rx := .idle, tx := [], sent := [] }

/-- A bench link with no terminal and no profile, after a reset (R176, R199, R201). -/
def Bench.initial : Bench := { present := false, ctx := .off, rx := .idle, tx := [], sent := [] }

/-- The part right after its first power-on, the secure store lost (R108), every input line deasserted. Which reset this
is and the levels of the inputs: DESIGN CHOICE, unsafe, log entry 4. -/
def State.reset : State where
  store := Store.initial
  line := .setup
  resetCause := .storeLost
  stream := none
  ceremony := { run := .idle, last := none }
  importWork := none
  engine := Engine.initial
  consoles := Tab.fill 2 Console.initial
  benches := Tab.fill 8 Bench.initial
  outstanding := []
  responses := []
  flags := 0x200#12
  mask := 0xA01#12
  frameErrors := 0
  overruns := 0
  power := true
  resetPin := false
  tamperLine := false
  battery := true
  powerResetOwed := false
  storeLost := false
  shiftedOut := []
  freeCount := 0
  pending := []

end Sys2Proof.Machine
end

