-- ==== Sys2Proof/Machine/Flags.lean ====
section
/-! DEFINITION. The event flags, the mask and the attention line (R203-R207), and whether the part runs at all (R106). -/

namespace Sys2Proof.Machine

/-- Member number of an event in an event set (R209, in the order of the table of R203). -/
def Event.index : Event → Nat
  | .responseReady => 0
  | .frameError => 1
  | .overrun => 2
  | .journalHigh => 3
  | .terminalDone => 4
  | .terminalFault => 5
  | .duplicateSerial => 6
  | .counterLow => 7
  | .counterExhausted => 8
  | .lineState => 9
  | .ceremonyEnd => 10
  | .tamper => 11

/-- The event set that holds one event. -/
def Event.only (e : Event) : BitVec 12 := BitVec.twoPow 12 e.index

/-- An event set holds an event. -/
def Event.inSet (e : Event) (b : BitVec 12) : Bool := b.getLsbD e.index

namespace State

/-- A cause sets its flag, enabled or not; a flag that is set stays set (R203). -/
def setFlag (e : Event) (s : State) : State := { s with flags := s.flags ||| e.only }

/-- A flag is cleared. -/
def clearFlag (e : Event) (s : State) : State := { s with flags := s.flags &&& ~~~e.only }

/-- A flag is set when a condition holds. -/
def setFlagIf (c : Bool) (e : Event) (s : State) : State := if c then s.setFlag e else s

/-- The part takes arrivals: main power is present and the reset pin is released (R106). -/
def running (s : State) : Bool := s.power && !s.resetPin

/-- The flags both set and enabled, which STATUS reports (R205). -/
def reported (s : State) : BitVec 12 := s.flags &&& s.mask

/-- The attention line: asserted while a flag is both set and enabled (R204). That it is deasserted while the part does not
run, which sends nothing then (R106), is DESIGN CHOICE, unsafe, log entry 36. -/
def attentionLine (s : State) : Bool := s.running && s.reported != 0

end State

/-- An error count saturates at 255 (R196). -/
def saturating255 (n : Nat) : Nat := if n < 255 then n + 1 else n

/-- A control frame is discarded as a frame error (R194, R196). -/
def frameErrorEvent (s : State) : State :=
  State.setFlag .frameError { s with frameErrors := saturating255 s.frameErrors }

/-- A control request is discarded with 8 outstanding (R196). -/
def overrunEvent (s : State) : State :=
  State.setFlag .overrun { s with overruns := saturating255 s.overruns }

/-- Line state becomes `l`; a change sets LINE_STATE (R95). -/
def setLine (l : LineState) (s : State) : State :=
  if s.line = l then s else State.setFlag .lineState { s with line := l }

end Sys2Proof.Machine
end

