-- ==== Sys2Proof/Machine/Operands.lean ====
section
/-! DEFINITION. How operands are read: numbers that name slots and custodians, the codes of R209, fields out of the bytes
of a frame or block, and the two cyclic redundancy checks of R208. -/

namespace Sys2Proof.Machine

/-! ### Numbers that name things -/

/-- A slot number 0-63 (R1). -/
def slotIx? (n : Nat) : Option SlotIx := if h : n < 64 then some ⟨n, h⟩ else none

/-- A custodian number 1-8 (R24). -/
def cust? (n : Nat) : Option Cust := if h : n - 1 < 8 ∧ 0 < n then some ⟨n - 1, h.1⟩ else none

/-- The number of a custodian. -/
def custNumber (c : Cust) : Nat := c.val + 1

/-- A recipe number 0-15 (R91). -/
def recipeIx? (n : Nat) : Option (Fin 16) := if h : n < 16 then some ⟨n, h⟩ else none

/-- A serial is 1-16 bytes (R122, R154). -/
def serialValid (s : Serial) : Bool := 1 ≤ s.length && s.length ≤ 16

/-- A credential is 8-32 bytes (R25). -/
def credentialValid (c : List Byte) : Bool := 8 ≤ c.length && c.length ≤ 32

/-! ### Codes (R209) -/

def classOf? : Nat → Option KeyClass
  | 1 => some .transport
  | 2 => some .baseDerivation
  | 3 => some .working
  | _ => none

def groupOf? : Nat → Option Group
  | 1 => some .a
  | 2 => some .b
  | _ => none

def entryStateOf? : Nat → Option EntryState
  | 1 => some .expected
  | 2 => some .loading
  | 3 => some .partialLoad
  | 4 => some .complete
  | 5 => some .rejected
  | _ => none

def policyOf? : Nat → Option Policy
  | 1 => some .manifestOnly
  | 2 => some .openPolicy
  | _ => none

def stepTypeOf? : Nat → Option StepType
  | 1 => some .shared
  | 2 => some .derived
  | _ => none

/-! ### Fields out of bytes (R208, R209) -/

/-- A number from bytes, most significant byte first (R208). -/
def beNat (b : List Byte) : Nat := b.foldl (fun n x => n * 256 + x.toNat) 0

/-- `w` bytes of a number, most significant byte first (R208). -/
def beBytes : Nat → Nat → List Byte
  | 0, _ => []
  | w + 1, n => BitVec.ofNat 8 (n / 256 ^ w) :: beBytes w n

/-- The first `k` bytes and the rest, if there are as many. -/
def readBytes (k : Nat) (b : List Byte) : Option (List Byte × List Byte) :=
  if k ≤ b.length then some (b.take k, b.drop k) else none

/-- A number of `k` bytes. -/
def readNat (k : Nat) (b : List Byte) : Option (Nat × List Byte) :=
  (readBytes k b).map fun (x, rest) => (beNat x, rest)

/-- A string behind its length byte: serial, credential, component value. -/
def readString (b : List Byte) : Option (List Byte × List Byte) :=
  match readNat 1 b with
  | none => none
  | some (n, rest) => readBytes n rest

/-- A flag byte: 00h clear, 01h set (R209). That a flag byte of another value makes its body unreadable is DESIGN CHOICE,
unsafe, log entry 35; of a presence byte, which is read here too, R209 states it. -/
def readFlag (b : List Byte) : Option (Bool × List Byte) :=
  match b with
  | [] => none
  | x :: rest => if x = 0 then some (false, rest) else if x = 1 then some (true, rest) else none

/-- An optional number of `k` bytes behind its presence byte. -/
def readOptNat (k : Nat) (b : List Byte) : Option (Option Nat × List Byte) :=
  match readFlag b with
  | none => none
  | some (false, rest) => some (none, rest)
  | some (true, rest) => (readNat k rest).map fun (n, r) => (some n, r)

/-- `n` items, each read in turn. -/
def readMany {α : Type} (item : List Byte → Option (α × List Byte)) : Nat → List Byte → Option (List α × List Byte)
  | 0, b => some ([], b)
  | n + 1, b =>
    match item b with
    | none => none
    | some (a, rest) =>
      match readMany item n rest with
      | none => none
      | some (as, r) => some (a :: as, r)

/-- A list behind its count byte. -/
def readList {α : Type} (item : List Byte → Option (α × List Byte)) (b : List Byte) : Option (List α × List Byte) :=
  match readNat 1 b with
  | none => none
  | some (n, rest) => readMany item n rest

/-- A whole body: bytes left over after its last field make it unreadable (R210). -/
def readWhole {α : Type} (item : List Byte → Option (α × List Byte)) (b : List Byte) : Option α :=
  match item b with
  | some (a, []) => some a
  | _ => none

/-! ### Cyclic redundancy checks (R208) -/

/-- One bit of the CRC-16: polynomial 1021h, most significant bit first. -/
def crc16Bit (c : BitVec 16) : BitVec 16 := if c.msb then (c <<< 1) ^^^ 0x1021#16 else c <<< 1

def crc16Byte (c : BitVec 16) (x : Byte) : BitVec 16 :=
  let d := c ^^^ (x.setWidth 16 <<< 8)
  crc16Bit (crc16Bit (crc16Bit (crc16Bit (crc16Bit (crc16Bit (crc16Bit (crc16Bit d)))))))

/-- The CRC-16 of every frame: initial value FFFFh, no final inversion. -/
def crc16 (b : List Byte) : BitVec 16 := b.foldl crc16Byte 0xFFFF#16

/-- One bit of the CRC-32: polynomial 04C11DB7h in its reflected form, least significant bit first. -/
def crc32Bit (c : BitVec 32) : BitVec 32 := if c.getLsbD 0 then (c >>> 1) ^^^ 0xEDB88320#32 else c >>> 1

def crc32Byte (c : BitVec 32) (x : Byte) : BitVec 32 :=
  let d := c ^^^ x.setWidth 32
  crc32Bit (crc32Bit (crc32Bit (crc32Bit (crc32Bit (crc32Bit (crc32Bit (crc32Bit d)))))))

/-- The CRC-32 of block checks and the stream check: initial value FFFFFFFFh, inverted at the end. -/
def crc32 (b : List Byte) : Check32 := ~~~(b.foldl crc32Byte 0xFFFFFFFF#32)

/-! ### Envelopes (R212) -/

/-- The bytes of a bank envelope before its wrapped key. -/
def BankEnvelope.header (e : BankEnvelope) : List Byte :=
  e.version :: e.cls :: beBytes 1 e.length
    ++ (match e.keySet with | none => [0] | some k => 1 :: beBytes 4 k)
    ++ beBytes 1 e.wrapped.length

/-- The bytes of a bank envelope that its authenticator covers: every field before it (R138). -/
def BankEnvelope.covered (e : BankEnvelope) : List Byte := e.header ++ e.wrapped

/-- A bank envelope, which fills the rest of the IMPORT body. -/
def readBankEnvelope (b : List Byte) : Option BankEnvelope :=
  match b with
  | v :: c :: rest =>
    match readNat 1 rest with
    | none => none
    | some (len, r1) =>
      match readOptNat 4 r1 with
      | none => none
      | some (ks, r2) =>
        match readString r2 with
        | none => none
        | some (w, r3) =>
          if r3.length = 8 then
            some { version := v, cls := c, length := len, keySet := ks, wrapped := w, authenticator := r3 }
          else none
  | _ => none

end Sys2Proof.Machine
end

