-- ==== Sys2Proof/Machine/Layouts.lean ====
section
/-! DEFINITION. The bytes of everything the part sends: responses, answers, notices, bench messages, envelopes and
journal records (R208-R213). Where a rule lists fields but not their form, the choice is log entry 15. -/

namespace Sys2Proof.Machine

/-! ### Codes (R209)

Each code is sent and read as one byte, a width that R209 does not give where no layout does (DESIGN CHOICE, unsafe, log entry
39). -/

/-- Status codes by their place in the table of the introduction, counted from 0. -/
def Status.code : Status → Nat
  | .ok => 0 | .busy => 1 | .sequence => 2 | .wrongState => 3 | .range => 4 | .notFound => 5 | .notLive => 6 | .paused => 7
  | .zeroised => 8 | .unknownTerminal => 9 | .duplicateSerial => 10 | .alreadyComplete => 11 | .rejectedTerminal => 12
  | .modelMismatch => 13 | .recipeNotAllowed => 14 | .recipeChanged => 15 | .registryFull => 16 | .noSuchStep => 17
  | .alreadyDelivered => 18 | .slotUnavailable => 19 | .notPermitted => 20 | .wait => 21 | .counterExhausted => 22
  | .kcvMismatch => 23 | .sessionEnded => 24 | .closed => 25 | .occupied => 26 | .wrongClass => 27
  | .generationSpent => 28 | .journalFull => 29 | .authFailed => 30 | .badCheck => 31 | .denied => 32 | .locked => 33
  | .alreadyPresent => 34 | .notLoggedOn => 35 | .sameGroup => 36 | .alreadyContributed => 37 | .lastOfGroup => 38
  | .noStream => 39 | .stagingFull => 40 | .streamSpoilt => 41 | .missingBlock => 42 | .duplicateBlock => 43
  | .badRegion => 44 | .badRecipe => 45 | .badPort => 46 | .badManifest => 47

def KeyClass.code : KeyClass → Nat
  | .transport => 1 | .baseDerivation => 2 | .working => 3

/-- Member number of a class in a class set. -/
def KeyClass.member : KeyClass → Nat
  | .transport => 0 | .baseDerivation => 1 | .working => 2

def Group.code : Group → Nat
  | .a => 1 | .b => 2

def EntryLock.code : EntryLock → Nat
  | .enrolled => 1 | .locked => 2

def Holder.code : Holder → Nat
  | .ceremony => 1 | .importUnit => 2

def SlotContent.code : SlotContent → Nat
  | .empty => 0 | .assembling _ => 1 | .active _ => 2 | .exhausted _ => 3 | .erasing _ => 4

def HeldState.code : HeldState → Nat
  | .active => 2 | .exhausted => 3 | .erasing => 4

def LineState.code : LineState → Nat
  | .setup => 1 | .live => 2 | .paused => 3 | .closing _ => 4 | .zeroised => 5

def ResetCause.code : ResetCause → Nat
  | .powerOn => 1 | .lineReset => 2 | .pin => 3 | .storeLost => 4

def ContextState.code : ContextState → Nat
  | .off => 0 | .vacant => 1 | .attached => 2 | .identified => 3 | .preparing => 4 | .offered => 5 | .finished => 6
  | .draining => 7

def CeremonyState.code : CeremonyState → Nat
  | .idle => 0 | .gathering => 1 | .combining => 2 | .verifying => 3 | .draining => 4 | .settling => 5

def CeremonyKind.code : CeremonyKind → Nat
  | .assemble => 1 | .erase => 2 | .openLine => 3 | .enrol => 4 | .revoke => 5 | .unlock => 6

def AbortReason.code : AbortReason → Nat
  | .timeout => 1 | .rejected => 2 | .cancelled => 3 | .custodianLeft => 4 | .tooManyBad => 5 | .zeroised => 6

def NoticeEvent.code : NoticeEvent → Nat
  | .opened => 1 | .passed => 2 | .failed => 3 | .lastPassed => 4 | .combined => 5 | .acceptanceHeld => 6
  | .drainBegun => 7 | .completed => 8 | .aborted => 9 | .orphanDone => 10

def EntryState.code : EntryState → Nat
  | .expected => 1 | .loading => 2 | .partialLoad => 3 | .complete => 4 | .rejected => 5

def Origin.code : Origin → Nat
  | .manifest => 1 | .discovered => 2

def VoidReason.code : VoidReason → Nat
  | .kcvMismatch => 1 | .abandoned => 2 | .detached => 3 | .idleTimeout => 4 | .lineClosed => 5 | .zeroised => 6
  | .reset => 7 | .powerLost => 8

def CustodianAction.code : CustodianAction → Nat
  | .enrol => 1 | .revoke => 2 | .unlock => 3

/-! ### Field forms (R209) -/

/-- One byte. -/
def b1 (n : Nat) : List Byte := beBytes 1 n

/-- A flag byte. -/
def bFlag (c : Bool) : List Byte := if c then [1] else [0]

/-- An optional field behind its presence byte. -/
def bOpt {α : Type} (f : α → List Byte) : Option α → List Byte
  | none => [0]
  | some a => 1 :: f a

/-- A list behind its count byte. -/
def bList {α : Type} (f : α → List Byte) (l : List α) : List Byte := b1 l.length ++ l.flatMap f

/-- A string behind its length byte. -/
def bString (s : List Byte) : List Byte := b1 s.length ++ s

def bKcv (k : Kcv) : List Byte := beBytes 3 k.toNat

def bCust (c : Cust) : List Byte := b1 (custNumber c)

def bPerson (p : Person) : List Byte := bCust p.cust ++ b1 p.group.code

def bPair (p : Pair) : List Byte := bCust p.a ++ bCust p.b

/-! ### Envelope and bench messages (R211, R212) -/

/-- The bytes of a terminal envelope before its wrapped key. Its length is sent as one byte, a width that R212 gives for the bank
envelope only (DESIGN CHOICE, unsafe, log entry 39). -/
def terminalHeader (terminalSlot usage length : Nat) (derivation : Option (Nat × Nat)) : List Byte :=
  b1 1 ++ b1 terminalSlot ++ b1 usage ++ b1 length
    ++ bOpt (fun d => beBytes 4 d.1 ++ beBytes 4 d.2) derivation ++ b1 (length + 8)

def TerminalEnvelope.bytes (e : TerminalEnvelope) : List Byte :=
  terminalHeader e.terminalSlot e.usage e.length e.derivation ++ e.wrapped ++ e.authenticator

/-- A frame of a serial link: start byte, kind, length, body, CRC-16 over kind, length and body (R199). -/
def linkFrame (kind : Nat) (body : List Byte) : List Byte :=
  let covered := b1 kind ++ b1 body.length ++ body
  0xA5#8 :: covered ++ beBytes 2 (crc16 covered).toNat

def BenchOut.bytes : BenchOut → List Byte
  | .welcome recipe version count missing =>
      linkFrame 0x81 (b1 recipe.val ++ beBytes 2 version ++ b1 count ++ bList b1 missing)
  | .key index envelope => linkFrame 0x82 (b1 index ++ envelope.bytes)
  | .verdict status complete ended =>
      linkFrame 0x83 (b1 status.code ++ b1 ((if complete then 1 else 0) + (if ended then 2 else 0)))
  | .halt reason => linkFrame 0x84 (b1 reason.code)

/-! ### Console messages (R36, R62, R63, R211) -/

def Named.bytes : Named → List Byte
  | .nothing => [0]
  | .slot i => 1 :: b1 i.val
  | .custodian c => 1 :: bCust c

/-- The outcome by its code (R209). -/
def CeremonyResult.code : CeremonyResult → Nat
  | .completed => 1
  | .aborted _ => 2

/-- The reason, which an outcome COMPLETED has not (R41, R62). -/
def CeremonyResult.reason? : CeremonyResult → Option AbortReason
  | .completed => none
  | .aborted r => some r

/-- The result and the optional reason of a last outcome (R41). -/
def CeremonyResult.bytes (r : CeremonyResult) : List Byte := b1 r.code ++ bOpt (fun a => b1 a.code) r.reason?

def LastOutcome.bytes (o : LastOutcome) : List Byte :=
  b1 o.kind.code
    ++ (match o.aborted with | none => CeremonyResult.bytes .completed | some r => CeremonyResult.bytes (.aborted r))
    ++ o.named.bytes

/-- The fields of a notice in the order of R62, the outcome and the reason each an optional field of its own (R211). -/
def Notice.bytes (n : Notice) : List Byte :=
  b1 n.state.code ++ b1 n.event.code ++ bOpt (fun k => b1 k.code) n.kind ++ bOpt bPerson n.opener ++ n.named.bytes
    ++ bOpt b1 n.componentCount ++ bOpt (bList bPerson) n.held ++ bOpt b1 n.badEntries ++ bList bPerson n.acceptances
    ++ bOpt bKcv n.kcv ++ bOpt (fun r => b1 (CeremonyResult.code r)) n.result
    ++ bOpt (fun a => b1 a.code) (n.result.bind CeremonyResult.reason?)

def ShownParams.bytes : ShownParams → List Byte
  | .assemble slot cls length count keySet =>
      b1 slot.val ++ b1 cls.code ++ b1 length ++ b1 count ++ bOpt (beBytes 4) keySet
  | .erase slot => b1 slot.val
  | .openLine => []
  | .enrol who group => bCust who ++ b1 group.code
  | .revoke who => bCust who
  | .unlock who => bCust who

def ShownEntry.bytes (e : ShownEntry) : List Byte := b1 e.group.code ++ b1 e.lock.code ++ b1 e.fails

def QueryReport.bytes (q : QueryReport) : List Byte :=
  bOpt bPerson q.link1 ++ bOpt bPerson q.link2 ++ q.table.flatMap (bOpt ShownEntry.bytes)
    ++ b1 q.state.code ++ bOpt bFlag q.checkPending ++ bOpt (fun k => b1 k.code) q.kind ++ bOpt bPerson q.opener
    ++ bOpt ShownParams.bytes q.params ++ bOpt b1 q.componentCount ++ bOpt (bList bPerson) q.held
    ++ bOpt bCust q.underCheck ++ bOpt b1 q.badEntries ++ bList bPerson q.acceptances ++ bOpt bKcv q.kcv
    ++ bOpt (beBytes 2) q.windowLeft ++ bOpt LastOutcome.bytes q.last

def AnswerBody.bytes : AnswerBody → List Byte
  | .nothing => []
  | .person p => bPerson p
  | .component held due => b1 held ++ b1 due
  | .query r => r.bytes

def ConsoleOut.bytes : ConsoleOut → List Byte
  | .answer kind status body => linkFrame 0x81 (kind :: b1 status.code ++ body.bytes)
  | .notice n => linkFrame 0x82 n.bytes

/-! ### Registry entries and journal records (R111, R213) -/

/-- The fields of an entry in the order of R111. -/
def Entry.bytes (e : Entry) : List Byte :=
  bString e.serial ++ b1 e.origin.code ++ bOpt (fun r : Fin 16 => b1 r.val) e.recipe ++ bOpt (beBytes 2) e.version
    ++ b1 e.state.code ++ bOpt (fun p : Port => b1 p.val) e.boundPort ++ beBytes 2 e.delivered.toNat
    ++ b1 e.mismatches ++ bOpt (beBytes 2) e.unboundSince

def StepFacts.bytes (f : StepFacts) : List Byte :=
  b1 f.port.val ++ bString f.serial ++ b1 f.recipe.val ++ beBytes 2 f.version ++ b1 f.index ++ b1 f.terminalSlot
    ++ b1 f.source.val ++ beBytes 4 f.sourceGen ++ b1 f.cover.val ++ beBytes 4 f.coverGen ++ bOpt (beBytes 4) f.counter

def KeyOrigin.bytes : KeyOrigin → List Byte
  | .ceremony p => b1 1 ++ bPair p
  | .imported t g => b1 2 ++ b1 t.val ++ beBytes 4 g

def TamperCause.bytes : TamperCause → List Byte
  | .tamperLine => b1 1 ++ b1 0
  | .custodian who => b1 2 ++ bCust who
  | .resetWhileAsserted => b1 3 ++ b1 0

def RecordBody.code : RecordBody → Nat
  | .delivered .. => 1 | .voided .. => 2 | .keyInstalled .. => 3 | .keyErased .. => 4 | .lineOpened .. => 5
  | .custodianChanged .. => 6 | .counterAdvanced .. => 7 | .tamper .. => 8

def RecordBody.bytes : RecordBody → List Byte
  | .delivered f k => f.bytes ++ bKcv k
  | .voided f k r => f.bytes ++ bOpt bKcv k ++ b1 r.code
  | .keyInstalled slot gen cls k o => b1 slot.val ++ beBytes 4 gen ++ b1 cls.code ++ bKcv k ++ o.bytes
  | .keyErased slot gen p => b1 slot.val ++ beBytes 4 gen ++ bPair p
  | .lineOpened p => bPair p
  | .custodianChanged a who p => b1 a.code ++ bCust who ++ bPair p
  | .counterAdvanced slot gen old new => b1 slot.val ++ beBytes 4 gen ++ beBytes 4 old ++ beBytes 4 new
  | .tamper cause count => cause.bytes ++ b1 count

def Record.bytes (r : Record) : List Byte :=
  beBytes 4 r.sequence ++ b1 r.body.code ++ b1 r.body.bytes.length ++ r.body.bytes

/-! ### Responses (R197, R210) -/

/-- The class of a held key. -/
def KeyUse.cls : KeyUse → KeyClass
  | .transport => .transport
  | .baseDerivation _ _ => .baseDerivation
  | .working => .working

/-- The key a slot holds, in ACTIVE, EXHAUSTED and ERASING. -/
def SlotContent.key? : SlotContent → Option HeldKey
  | .empty => none
  | .assembling _ => none
  | .active k => some k
  | .exhausted k => some k
  | .erasing k => some k

def SlotContent.holder? : SlotContent → Option Holder
  | .assembling h => some h
  | _ => none

def KeyUse.keySet? : KeyUse → Option Nat
  | .baseDerivation ks _ => some ks
  | _ => none

def KeyUse.nextCounter? : KeyUse → Option Nat
  | .baseDerivation _ c => some c
  | _ => none

def SlotReport.bytes (r : SlotReport) : List Byte :=
  b1 r.slot.val ++ b1 r.content.code ++ bOpt (fun h => b1 h.code) r.content.holder?
    ++ bOpt (fun k => b1 (KeyClass.code k)) (r.content.key?.map fun k => k.use.cls)
    ++ bOpt b1 (r.content.key?.map HeldKey.length) ++ bOpt bKcv (r.content.key?.map HeldKey.kcv)
    ++ beBytes 4 r.generation ++ bOpt (beBytes 4) (r.content.key?.bind fun k => k.use.keySet?)
    ++ bOpt (beBytes 4) (r.content.key?.bind fun k => k.use.nextCounter?) ++ b1 r.inUse ++ bOpt b1 r.region

def StatusReport.bytes (r : StatusReport) : List Byte :=
  b1 r.line.code ++ b1 r.resetCause.code ++ beBytes 2 r.flags.toNat ++ beBytes 2 r.mask.toNat ++ b1 r.frameErrors
    ++ b1 r.overruns ++ beBytes 2 r.occupancy ++ beBytes 2 r.records ++ b1 r.reservations ++ b1 r.ceremony.code
    ++ r.contexts.flatMap fun c => b1 c.code

/-- The body of a response as bytes (R197, R210). Where it carries an entry of the registry, the position stands before the
entry, as R122 names them, also in a REG_QUERY, whose R124 names the entry first: DEDUCED, unsafe, log entry 15. -/
def ResponseBody.bytes : ResponseBody → List Byte
  | .nothing => []
  | .staging p => b1 p
  | .committed recipes lines inserted evicted check =>
      b1 recipes ++ beBytes 2 lines ++ beBytes 2 inserted ++ beBytes 2 evicted ++ beBytes 4 check.toNat
  | .imported i gen cls len k => b1 i.val ++ beBytes 4 gen ++ b1 cls.code ++ b1 len ++ bKcv k
  | .slot r => r.bytes
  | .counter st gen ks next remaining =>
      b1 st.code ++ beBytes 4 gen ++ beBytes 4 ks ++ beBytes 4 next ++ beBytes 4 remaining
  | .advance next => beBytes 4 next
  | .regAdd p before evicted => b1 p ++ bOpt Entry.bytes before ++ bOpt bString evicted
  | .regEntry p e => b1 p ++ e.bytes
  | .regScan found next => bList (fun f => b1 f.1 ++ Entry.bytes f.2) found ++ bOpt b1 next
  | .journalRead records held reservations next =>
      bList Record.bytes records ++ beBytes 2 held ++ b1 reservations ++ beBytes 4 next
  | .journalRelease removed remaining => beBytes 2 removed ++ beBytes 2 remaining
  | .status r => r.bytes
  | .oldMask m => beBytes 2 m.toNat

/-- The frame a fetch shifts out for a response. -/
def Response.frame (r : Response) : List Byte :=
  let covered := b1 1 ++ [r.tag] ++ [r.kind] ++ b1 r.status.code ++ bFlag r.changed
    ++ beBytes 2 r.body.bytes.length ++ r.body.bytes
  covered ++ beBytes 2 (crc16 covered).toNat

/-- The frame a fetch shifts out when no response waits. -/
def emptyMarker : List Byte :=
  let covered : List Byte := [0, 0, 0, 0, 0, 0, 0]
  covered ++ beBytes 2 (crc16 covered).toNat

end Sys2Proof.Machine
end

