-- ==== Sys2Proof/Machine/Ops.lean ====
section
/-! DEFINITION. The named operations the commands share: reading and writing the parts of the state, the transmit queues
(R201), the acceptance and completion of control requests (R196, R197), the journal's claims (R181-R187), regions (R6),
the Cipher Engine (R134-R143), and the notices and the end of a ceremony (R53, R62). -/

namespace Sys2Proof.Machine

/-! ### Parts of the state -/

namespace State

def console (l : ConsoleLink) (s : State) : Console := s.consoles.get l
def setConsole (l : ConsoleLink) (c : Console) (s : State) : State := { s with consoles := s.consoles.set l c }

def bench (p : Port) (s : State) : Bench := s.benches.get p
def setBench (p : Port) (b : Bench) (s : State) : State := { s with benches := s.benches.set p b }
def ctx (p : Port) (s : State) : PortContext := (s.bench p).ctx
def setCtx (p : Port) (c : PortContext) (s : State) : State := s.setBench p { s.bench p with ctx := c }

def slot (i : SlotIx) (s : State) : Slot := s.store.slots.get i
def setSlot (i : SlotIx) (x : Slot) (s : State) : State :=
  { s with store := { s.store with slots := s.store.slots.set i x } }

def journal (s : State) : Journal := s.store.journal
def setJournal (j : Journal) (s : State) : State := { s with store := { s.store with journal := j } }

def registry (s : State) : Registry := s.store.registry
def setRegistry (r : Registry) (s : State) : State := { s with store := { s.store with registry := r } }

def step (p : Port) (s : State) : Option PendingStep := s.store.steps.get p
def setStep (p : Port) (x : Option PendingStep) (s : State) : State :=
  { s with store := { s.store with steps := s.store.steps.set p x } }

def custodian (c : Cust) (s : State) : Option CustEntry := s.store.custodians.get c
def setCustodian (c : Cust) (x : Option CustEntry) (s : State) : State :=
  { s with store := { s.store with custodians := s.store.custodians.set c x } }

def profile (s : State) : Option Profile := s.store.profile

def setCeremony (c : CeremonyRun) (s : State) : State := { s with ceremony := { s.ceremony with run := c } }

end State

/-! ### Timers (00_scope.md, Conventions: Time) -/

/-- A timer has counted its limit. -/
def Timer.due (t : Timer) : Bool := t.limit ≤ t.count

/-- Two seconds without a byte (R199). -/
def Receiver.due : Receiver → Bool
  | .idle => false
  | .assembling _ gap => 2 ≤ gap

/-! ### Transmit queues (R201) -/

def ConsoleOut.isAnswer : ConsoleOut → Bool
  | .answer .. => true
  | .notice _ => false

/-- The queue without its oldest notice. -/
def dropNotice : List ConsoleOut → List ConsoleOut
  | [] => []
  | m :: rest => if m.isAnswer then m :: dropNotice rest else rest

/-- A message joins a custodian link's queue of at most 8. A full queue loses its oldest notice that has not begun to be
sent; the oldest message of the queue is the one being sent (DEDUCED, unsafe, log entry 13). -/
def joinConsoleQueue (q : List ConsoleOut) (m : ConsoleOut) : List ConsoleOut :=
  if q.length < 8 then q ++ [m]
  else match q with
    | [] => [m]
    | head :: rest => head :: dropNotice rest ++ [m]

/-- A message is produced on a custodian link; with the console absent it does not join the queue. -/
def pushConsole (l : ConsoleLink) (m : ConsoleOut) (s : State) : State :=
  let c := s.console l
  if c.present then s.setConsole l { c with tx := joinConsoleQueue c.tx m } else s

/-- The ANSWER to a console message (R26). -/
def answer (l : ConsoleLink) (kind : Byte) (st : Status) (body : AnswerBody) (s : State) : State :=
  pushConsole l (.answer kind st body) s

/-- A CEREMONY_NOTICE goes to each console that is present (R62). -/
def noticeAll (n : Notice) (s : State) : State := pushConsole 1 (.notice n) (pushConsole 0 (.notice n) s)

/-- A message is produced on a bench link; with the terminal absent it does not join the queue. -/
def pushBench (p : Port) (m : BenchOut) (s : State) : State :=
  let b := s.bench p
  if b.present then s.setBench p { b with tx := b.tx ++ [m] } else s

/-- A VERDICT without flags (R150). -/
def verdict (p : Port) (st : Status) (s : State) : State := pushBench p (.verdict st false false) s

/-! ### Receivers (R199) -/

/-- The receiver of a link. -/
def setReceiver (k : LinkId) (r : Receiver) (s : State) : State :=
  match k with
  | .console l => s.setConsole l { s.console l with rx := r }
  | .bench p => s.setBench p { s.bench p with rx := r }

def receiver (k : LinkId) (s : State) : Receiver :=
  match k with
  | .console l => (s.console l).rx
  | .bench p => (s.bench p).rx

/-! ### Control port (R195-R197) -/

/-- A request completes: its response joins the newest end of the queue, its record becomes QUEUED, RESPONSE_READY is
set (R197). -/
def respond (tag kind : Byte) (st : Status) (changed : Bool) (body : ResponseBody) (s : State) : State :=
  State.setFlag .responseReady
    { s with
      responses := s.responses ++ [{ tag := tag, kind := kind, status := st, changed := changed, body := body }]
      outstanding := s.outstanding.map fun o => if o.tag = tag then { o with queued := true } else o }

/-- A refusal: an empty body and a clear changed flag (R197). -/
def refuse (tag kind : Byte) (st : Status) (s : State) : State := respond tag kind st false .nothing s

/-- The part shifts out 00h for `n` bytes (R194). -/
def State.silent (n : Nat) (s : State) : State := { s with shiftedOut := List.replicate n 0 }

/-- A request write is judged: body length, room, tag; an accepted request joins the outstanding set and is handed to its
block (R196). Throughout the write, of a type byte, a header of 4 bytes, the body and a CRC-16, the part shifts out 00h
(R194). A part that does not run takes nothing (R106). -/
def acceptRequest (tag kind : Byte) (bodyLength : Nat) (handle : State → State) (s : State) : State :=
  if !s.running then s
  else
    let s := s.silent (bodyLength + 7)
    if 2048 < bodyLength then frameErrorEvent s
    else if 8 ≤ s.outstanding.length then overrunEvent s
    else if s.outstanding.any (fun o => o.tag == tag) then frameErrorEvent s
    else handle { s with outstanding := s.outstanding ++ [{ tag := tag, kind := kind, queued := false }] }

/-! ### Journal (R177-R187) -/

def RecordBody.isTamper : RecordBody → Bool
  | .tamper .. => true
  | _ => false

def Record.isTamper (r : Record) : Bool := r.body.isTamper

/-- The number of non-TAMPER records. -/
def Journal.plainRecords (j : Journal) : Nat := (j.records.filter fun r => !r.isTamper).length

/-- Non-TAMPER records plus reservations (R181). -/
def Journal.occupancy (j : Journal) : Nat := j.plainRecords + j.reservations.length

/-- The sequence number after `n` (R178). -/
def sequenceAfter (n : Nat) : Nat := if n = 4294967295 then 1 else n + 1

/-- A record joins the newest end with the next sequence number (R178). -/
def Journal.append (body : RecordBody) (j : Journal) : Journal :=
  { j with records := j.records ++ [{ sequence := j.nextSequence, body := body }]
           nextSequence := sequenceAfter j.nextSequence }

/-- The high mark in force: 511 while no profile is committed (R187). -/
def highMark (s : State) : Nat :=
  match s.profile with
  | none => 511
  | some p => p.params.highMark

/-- A reservation request: granted while the occupancy is below 511. A grant that reaches the high mark, and every
refusal, sets JOURNAL_HIGH (R182, R187). -/
def requestReservation (h : ResHolder) (s : State) : Bool × State :=
  let j := s.journal
  if j.occupancy < 511 then
    let j' := { j with reservations := j.reservations ++ [h] }
    (true, (s.setJournal j').setFlagIf (highMark s ≤ j'.occupancy) .journalHigh)
  else (false, s.setFlag .journalHigh)

/-- A record is written against its holder's reservation (R183). -/
def writeRecord (h : ResHolder) (body : RecordBody) (s : State) : State :=
  let j := s.journal
  s.setJournal ({ j with reservations := j.reservations.erase h }.append body)

/-- A reservation is returned unused (R184). -/
def returnReservation (h : ResHolder) (s : State) : State :=
  let j := s.journal
  s.setJournal { j with reservations := j.reservations.erase h }

/-- The occurrence count of the TAMPER record rises, up to 255 (R186). -/
def Record.countTamper (r : Record) : Record :=
  match r.body with
  | .tamper cause n => { r with body := .tamper cause (if n < 255 then n + 1 else n) }
  | _ => r

/-- A zeroise reaches the journal: the TAMPER record held is counted, or one is written (R186). -/
def Journal.tamper (cause : TamperCause) (j : Journal) : Journal :=
  if j.records.any Record.isTamper then { j with records := j.records.map Record.countTamper }
  else j.append (.tamper cause 1)

/-! ### Regions (R6, R7) -/

/-- A slot lies in a region. -/
def Region.holds (r : Region) (i : SlotIx) : Bool := r.base ≤ i.val && i.val < r.base + r.size

def Region.grants (r : Region) (p : Port) : Bool := r.ports.getLsbD p.val

def Region.admits (r : Region) (c : KeyClass) : Bool := r.classes.getLsbD c.member

/-- The region a slot belongs to, under the committed profile. -/
def regionOf (i : SlotIx) (s : State) : Option Region :=
  match s.profile with
  | none => none
  | some p => p.regions.find? fun r => r.holds i

/-- The slot's region grants bench port `p`. -/
def grantsPort (i : SlotIx) (p : Port) (s : State) : Bool :=
  match regionOf i s with
  | none => false
  | some r => r.grants p

/-! ### Cipher Engine: requests, grants, withdrawal (R134-R137) -/

def benchRequester (p : Port) : Fin 10 := ⟨p.val, by omega⟩
def ceremonyRequester : Fin 10 := 8
def importRequester : Fin 10 := 9

def newJob (r : Fin 10) (inputs : JobInputs) : Job :=
  { requester := r, inputs := inputs, orphaned := false, zeroised := false }

/-- A job joins the pending jobs (R134). -/
def joinPending (r : Fin 10) (inputs : JobInputs) (s : State) : State :=
  { s with engine := { s.engine with waiting := s.engine.waiting.set r (some (newJob r inputs)) } }

/-- A requester requests a job: granted at once when the engine is FREE, pending otherwise (R134). -/
def requestJob (r : Fin 10) (inputs : JobInputs) (s : State) : State :=
  match s.engine.running with
  | none => { s with engine := { s.engine with running := some (newJob r inputs), lastGranted := r } }
  | some _ => joinPending r inputs s

/-- The requester numbers from the one after `last`, counting upward and wrapping after 9 (R135). -/
def grantOrder (last : Fin 10) : List (Fin 10) :=
  (List.range 10).map fun k => ⟨(last.val + 1 + k) % 10, Nat.mod_lt _ (by omega)⟩

/-- A grant by round robin; with no pending job the engine becomes FREE (R135, R137). -/
def grantNext (s : State) : State :=
  match (grantOrder s.engine.lastGranted).find? fun r => (s.engine.waiting.get r).isSome with
  | none => { s with engine := { s.engine with running := none } }
  | some r =>
    { s with engine := { running := s.engine.waiting.get r, waiting := s.engine.waiting.set r none, lastGranted := r } }

/-- Where a requester's job stands. -/
inductive JobPlace where
  | absent | waiting | running
  deriving DecidableEq, Repr

def jobPlace (r : Fin 10) (s : State) : JobPlace :=
  if (s.engine.waiting.get r).isSome then .waiting
  else match s.engine.running with
    | none => .absent
    | some j => if j.requester = r then .running else .absent

/-- A requester withdraws its job: a pending one disappears, a running one is orphaned (R136). -/
def withdrawJob (r : Fin 10) (s : State) : State :=
  match jobPlace r s with
  | .absent => s
  | .waiting => { s with engine := { s.engine with waiting := s.engine.waiting.set r none } }
  | .running =>
    { s with engine := { s.engine with running := s.engine.running.map fun j => { j with orphaned := true } } }

/-- The running job completes, when it is of the kind the command names: the requester's handling runs before the grant
(R137). A completion that does not fit the running job cannot come and changes nothing (DESIGN CHOICE, safe, log entry
19). -/
def completeJob (fits : JobInputs → Bool) (handle : Job → State → State) (s : State) : State :=
  if !s.running then s
  else match s.engine.running with
    | none => s
    | some j =>
      if fits j.inputs then grantNext (handle j { s with engine := { s.engine with running := none } }) else s

/-! ### Cipher Engine: computations (R138-R144) -/

/-- The derived key: as long as the base key (R138). -/
def deriveKey (base : KeyBytes) (keySet counter : Nat) : KeyBytes :=
  (List.range base.length).map (Config.derivedByte base keySet counter)

/-- A key placed in a list sorted by value. -/
def insertKey (k : KeyBytes) : List KeyBytes → List KeyBytes
  | [] => [k]
  | h :: t => if beNat k ≤ beNat h then k :: h :: t else h :: insertKey k t

/-- Components in an order that does not depend on the order they were held in. -/
def sortKeys : List KeyBytes → List KeyBytes
  | [] => []
  | k :: t => insertKey k (sortKeys t)

/-- The key set number is present exactly for BASE_DERIVATION (R43, R143). -/
def keySetFits (c : KeyClass) (keySet : Option Nat) : Bool := keySet.isSome == (c == .baseDerivation)

/-- The combined key: a function of the set of components, as long as they are (R138, R142). A set holds no duplicates and has no
order (Conventions). -/
def combineKeys (components : List KeyBytes) : KeyBytes :=
  (List.range (components.head?.getD []).length).map (Config.combinedByte (sortKeys components.dedup))

/-- The authenticator of an envelope under a wrapping key, over the bytes before it (R68, R138, R212). -/
def authenticator (wrappingKey : KeyBytes) (covered : List Byte) : List Byte :=
  List.ofFn ((Config.authenticator ⟨Config.foldedBytes⟩).code wrappingKey covered)

/-- A key and its 8 bytes of overhead, wrapped under a wrapping key with the bytes of the envelope before them (R138). -/
def wrappedBytes (wrappingKey : KeyBytes) (header : List Byte) (key : KeyBytes) : List Byte :=
  let plain := key ++ (List.range 8).map (Config.overheadByte wrappingKey header key)
  List.ofFn (Config.wrapPermutation wrappingKey header plain.length plain.get)

/-- The key that a holder of the wrapping key recovers from wrapped bytes: all but the last 8 of what was wrapped (R138). -/
def recoveredKey (wrappingKey : KeyBytes) (header wrapped : List Byte) : KeyBytes :=
  (List.ofFn ((Config.wrapPermutation wrappingKey header wrapped.length).symm wrapped.get)).take (wrapped.length - 8)

/-- A terminal envelope that carries `key` wrapped under `cover` (R144). -/
def wrapKey (cover key : KeyBytes) (terminalSlot usage : Nat) (derivation : Option (Nat × Nat)) : TerminalEnvelope :=
  let header := terminalHeader terminalSlot usage key.length derivation
  let wrapped := wrappedBytes cover header key
  { terminalSlot := terminalSlot, usage := usage, length := key.length, derivation := derivation, wrapped := wrapped
    authenticator := Machine.authenticator cover (header ++ wrapped) }

/-- What a PREPARE job hands over: the envelope and the expected KCV (R139, R140). -/
def prepareResult : JobInputs → Option (TerminalEnvelope × Kcv)
  | .prepareShared source cover ts usage => some (wrapKey cover source ts usage none, Config.kcv source)
  | .prepareDerived base ks counter cover ts usage =>
      let key := deriveKey base ks counter
      some (wrapKey cover key ts usage (some (ks, counter)), Config.kcv key)
  | _ => none

/-- The result of an UNWRAP job (R69, R143). In an authenticated one, an absent class is the unusable class, and an absent key
is one that was not recovered. -/
inductive UnwrapResult where
  | failed
  | opened (key : Option KeyBytes) (kcv : Kcv) (cls : Option KeyClass) (length : Nat) (keySet : Option Nat)
  deriving DecidableEq, Repr

/-- The length an envelope gives is 16 or 32 and the wrapped key's size less 8 (R143). -/
def BankEnvelope.lengthUsable (e : BankEnvelope) : Bool :=
  (e.length == 16 || e.length == 32) && e.length + 8 == e.wrapped.length

/-- The class the result carries: the envelope's, unless its code is none of the three, its length is unusable, or its key set
number is present or absent against the class (R143). -/
def BankEnvelope.usableClass (e : BankEnvelope) : Option KeyClass :=
  match classOf? e.cls.toNat with
  | some c => if e.lengthUsable && keySetFits c e.keySet then some c else none
  | none => none

/-- The key recovered from an authenticated envelope, when its length is usable (R143). -/
def BankEnvelope.recovered (transport : KeyBytes) (e : BankEnvelope) : Option KeyBytes :=
  if e.lengthUsable then some (recoveredKey transport e.header e.wrapped) else none

/-- The check of a bank envelope under a transport key: it is the wrap of the key the transport key recovers, with these fields and
this authenticator. A wrap is a fixed function of the wrapping key and the fields it covers, so an envelope whose fields have been
changed into what is no wrap fails (R68, R138; log entry 37). -/
def BankEnvelope.passes (transport : KeyBytes) (e : BankEnvelope) : Bool :=
  e.wrapped == wrappedBytes transport e.header (recoveredKey transport e.header e.wrapped)
    && e.authenticator == Machine.authenticator transport e.covered

/-- UNWRAP: the envelope is checked under the transport key, then the key is recovered. With no key recovered the result carries
the KCV of no key (R143; log entry 5). -/
def unwrapEnvelope (transport : KeyBytes) (e : BankEnvelope) : UnwrapResult :=
  if e.passes transport then
    let key := e.recovered transport
    .opened key (Config.kcv (key.getD [])) e.usableClass e.length e.keySet
  else .failed

/-- Zeroise destroys the key material in a job's inputs (R145). -/
def JobInputs.destroy : JobInputs → JobInputs
  | .prepareShared _ _ ts u => .prepareShared [] [] ts u
  | .prepareDerived _ ks c _ ts u => .prepareDerived [] ks c [] ts u
  | .checkComponent _ k => .checkComponent [] k
  | .combine _ => .combine []
  | .unwrap _ e => .unwrap [] e

/-- A job that zeroise has reached (R145). -/
def Job.zeroise (j : Job) : Job := { j with inputs := j.inputs.destroy, zeroised := true }

/-- Zeroise reaches the engine (R145). -/
def Engine.zeroise (e : Engine) : Engine :=
  { e with running := e.running.map Job.zeroise, waiting := e.waiting.map (Option.map Job.zeroise) }

/-! ### The ceremony as seen from outside (R40, R62) -/

def CeremonyParams.kind : CeremonyParams → CeremonyKind
  | .assemble .. => .assemble
  | .erase _ => .erase
  | .openLine => .openLine
  | .enrol .. => .enrol
  | .revoke _ => .revoke
  | .unlock _ => .unlock

/-- The slot or custodian a ceremony names; an OPEN_LINE names neither (R41). -/
def CeremonyParams.named : CeremonyParams → Named
  | .assemble slot .. => .slot slot
  | .erase slot => .slot slot
  | .openLine => .nothing
  | .enrol who _ _ => .custodian who
  | .revoke who => .custodian who
  | .unlock who => .custodian who

/-- The component count, for ASSEMBLE. -/
def CeremonyParams.componentCount? : CeremonyParams → Option Nat
  | .assemble _ _ _ count _ => some count
  | _ => none

def Phase.state : Phase → CeremonyState
  | .gathering => .gathering
  | .combining => .combining
  | .verifying => .verifying
  | .draining => .draining

/-- The state of the ceremony context (R40). -/
def CeremonyRun.state : CeremonyRun → CeremonyState
  | .idle => .idle
  | .work w => w.phase.state
  | .settling .. => .settling

/-- The acceptances held as a list, the one of group A first. R39 calls them a set, and R62, R63 and R209 give the list no order
(DESIGN CHOICE, unsafe, log entry 40). -/
def CeremonyWork.acceptances (w : CeremonyWork) : List Person :=
  (w.acceptA.toList.map fun c => { cust := c, group := .a }) ++ (w.acceptB.toList.map fun c => { cust := c, group := .b })

/-- The custodians of the components held, for ASSEMBLE. -/
def CeremonyWork.heldPersons (w : CeremonyWork) : Option (List Person) :=
  w.params.componentCount?.map fun _ => w.held.map Component.who

/-- The bad entries, for ASSEMBLE. -/
def CeremonyWork.shownBad (w : CeremonyWork) : Option Nat := w.params.componentCount?.map fun _ => w.badEntries

/-- The notice of an event that leaves the ceremony open (R62). -/
def openNotice (w : CeremonyWork) (ev : NoticeEvent) : Notice where
  state := w.phase.state
  event := ev
  kind := some w.params.kind
  opener := some w.opener
  named := w.params.named
  componentCount := w.params.componentCount?
  held := w.heldPersons
  badEntries := w.shownBad
  acceptances := w.acceptances
  kcv := w.combined.map CombinedKey.kcv
  result := none

/-- The notice of a completion or an abort: the ceremony has just ended, so its components, acceptances and KCV are gone.
For ASSEMBLE the component count and the bad entries are carried, and the list of components held is empty
(DESIGN CHOICE, unsafe, log entry 14). -/
def endNotice (w : CeremonyWork) (state : CeremonyState) (result : CeremonyResult) : Notice where
  state := state
  event := match result with | .completed => .completed | .aborted _ => .aborted
  kind := some w.params.kind
  opener := some w.opener
  named := w.params.named
  componentCount := w.params.componentCount?
  held := w.params.componentCount?.map fun _ => []
  badEntries := w.shownBad
  acceptances := []
  kcv := none
  result := some result

/-- The ceremony is announced and its event set at its end (R53, R58). -/
def finishCeremony (w : CeremonyWork) (result : CeremonyResult) (run : CeremonyRun) (s : State) : State :=
  State.setFlag .ceremonyEnd
    (noticeAll (endNotice w run.state result)
      { s with ceremony :=
          { run := run
            last := some
              { kind := w.params.kind
                aborted := match result with | .completed => none | .aborted r => some r
                named := w.params.named } } })

end Sys2Proof.Machine
end

