-- ==== Sys2Proof/Machine/Attention.lean ====
section
/-! DEFINITION. The Attention Unit's requests STATUS and SET_MASK (R205, R206), and the response fetch (R198). -/

namespace Sys2Proof.Machine

/-- The state of a context by name (R148). -/
def PortContext.state : PortContext → ContextState
  | .off => .off
  | .vacant => .vacant
  | .attached => .attached
  | .identified .. => .identified
  | .preparing _ => .preparing
  | .offered .. => .offered
  | .finished => .finished
  | .draining .. => .draining

/-- The fields of a STATUS answer (R205). -/
def statusReport (s : State) : StatusReport where
  line := s.line
  resetCause := s.resetCause
  flags := s.reported
  mask := s.mask
  frameErrors := s.frameErrors
  overruns := s.overruns
  occupancy := s.journal.occupancy
  records := s.journal.plainRecords
  reservations := s.journal.reservations.length
  ceremony := s.ceremony.run.state
  contexts := allPorts.map fun p => (s.ctx p).state

/-- Reported flags in the clear set are cleared, RESPONSE_READY passed over (R205). -/
def clearReported (clearSet : BitVec 12) (s : State) : State :=
  { s with flags := s.flags &&& ~~~(s.reported &&& clearSet &&& ~~~Event.responseReady.only) }

/-- Both counts become 0 when asked (R205). -/
def clearCountsIf (c : Bool) (s : State) : State := if c then { s with frameErrors := 0, overruns := 0 } else s

/-- STATUS (R205). -/
def statusRequest (tag : Byte) (clearSet : BitVec 12) (clearCounts : Bool) (s : State) : State :=
  respond tag 0x60 .ok false (.status (statusReport s)) (clearCountsIf clearCounts (clearReported clearSet s))

/-- SET_MASK (R206). -/
def setMask (tag : Byte) (mask : BitVec 12) (s : State) : State :=
  respond tag 0x61 .ok false (.oldMask s.mask) { s with mask := mask }

def requestStatus (tag : Byte) (clearSet : BitVec 12) (clearCounts : Bool) : State → State :=
  acceptRequest tag 0x60 3 (statusRequest tag clearSet clearCounts)
def requestSetMask (tag : Byte) (mask : BitVec 12) : State → State := acceptRequest tag 0x61 2 (setMask tag mask)

/-- The bytes shifted out in a fetch: 00h while the type byte comes in, then in `clocks` bytes the frame and 00h after it (R194,
R198). -/
def shiftOut (clocks : Nat) (frame : List Byte) : List Byte :=
  0 :: frame.take clocks ++ List.replicate (clocks - frame.length) 0

/-- RESPONSE_READY is cleared when the queue has become empty (R198). -/
def readyFollowsQueue (s : State) : State := if s.responses.isEmpty then s.clearFlag .responseReady else s

/-- A response fetch of `clocks` bytes after the type byte (R198; log entry 24). -/
def responseFetch (clocks : Nat) (s : State) : State :=
  if !s.running then s
  else match s.responses with
    | [] => { s with shiftedOut := shiftOut clocks emptyMarker }
    | r :: rest =>
      let s' := { s with shiftedOut := shiftOut clocks r.frame }
      if clocks < r.frame.length then s'
      else readyFollowsQueue
        { s' with responses := rest, outstanding := s.outstanding.filter fun o => o.tag != r.tag }

/-- Meaning of STATUS. -/
def execStatus (tag : Byte) (clearSet : BitVec 12) (clearCounts : Bool) (s : State) : Host.Outcome State Fault Refusal :=
  .next (requestStatus tag clearSet clearCounts s)

/-- Meaning of SET_MASK. -/
def execSetMask (tag : Byte) (mask : BitVec 12) (s : State) : Host.Outcome State Fault Refusal :=
  .next (requestSetMask tag mask s)

/-- Meaning of RESPONSE_FETCH. -/
def execResponseFetch (clocks : Nat) (s : State) : Host.Outcome State Fault Refusal := .next (responseFetch clocks s)

end Sys2Proof.Machine
end

