-- ==== Sys2Proof/Machine/JournalPort.lean ====
section
/-! DEFINITION. The journal's two control requests, JOURNAL_READ and JOURNAL_RELEASE (R188, R189). -/

namespace Sys2Proof.Machine

/-- JOURNAL_READ (R188). -/
def journalRead (tag : Byte) (count : Nat) (s : State) : State :=
  if count < 1 ∨ 8 < count then refuse tag 0x50 .range s
  else
    let j := s.journal
    respond tag 0x50 .ok false
      (.journalRead (j.records.take count) j.records.length j.reservations.length j.nextSequence) s

/-- The place of the record with a sequence number, counted from the oldest. -/
def recordPlace (sequence : Nat) : List Record → Option Nat
  | [] => none
  | r :: rest => if r.sequence = sequence then some 0 else (recordPlace sequence rest).map fun k => k + 1

/-- JOURNAL_RELEASE (R189). -/
def journalRelease (tag : Byte) (sequence : Nat) (s : State) : State :=
  if sequence = 0 then refuse tag 0x51 .range s
  else
    let j := s.journal
    match recordPlace sequence j.records with
    | none => refuse tag 0x51 .notFound s
    | some k =>
      let kept := j.records.drop (k + 1)
      respond tag 0x51 .ok false (.journalRelease (k + 1) kept.length) (s.setJournal { j with records := kept })

def requestJournalRead (tag : Byte) (count : Nat) : State → State := acceptRequest tag 0x50 1 (journalRead tag count)
def requestJournalRelease (tag : Byte) (sequence : Nat) : State → State :=
  acceptRequest tag 0x51 4 (journalRelease tag sequence)

/-- Meaning of JOURNAL_READ. -/
def execJournalRead (tag : Byte) (count : Nat) (s : State) : Host.Outcome State Fault Refusal :=
  .next (requestJournalRead tag count s)

/-- Meaning of JOURNAL_RELEASE. -/
def execJournalRelease (tag : Byte) (sequence : Nat) (s : State) : Host.Outcome State Fault Refusal :=
  .next (requestJournalRelease tag sequence s)

end Sys2Proof.Machine
end

