-- ==== Sys2Proof/Machine/KeyStore.lean ====
section
/-! DEFINITION. The Key Store: the claims on a slot (R8-R18), the requests SLOT_QUERY, COUNTER_READ and COUNTER_ADVANCE
(R19-R21), and what reset leaves of the slots (R22). -/

namespace Sys2Proof.Machine

/-! ### Counters -/

/-- The next counter at which a base derivation key is exhausted (R1, R10). -/
def counterEnd : Nat := 1048576

/-- Setting a next counter leaves the slot ACTIVE, or EXHAUSTED at the end (R10, R20). -/
def withNextCounter (key : HeldKey) (keySet next : Nat) : SlotContent :=
  let key' := { key with use := .baseDerivation keySet next }
  if next = counterEnd then .exhausted key' else .active key'

/-- COUNTER_EXHAUSTED at the end, and COUNTER_LOW within the low margin of a committed profile (R10, R20). -/
def counterEvents (next : Nat) (s : State) : State :=
  let low := match s.profile with
    | none => false
    | some p => counterEnd < next + p.params.lowMargin
  (s.setFlagIf (next = counterEnd) .counterExhausted).setFlagIf low .counterLow

/-! ### Step admission and end (R8-R11) -/

/-- What the Key Store hands a context, and through it the engine, at an admission (R9, R134). -/
structure Admission where
  source : HeldKey
  sourceGen : Nat
  cover : HeldKey
  coverGen : Nat
  derivation : Option (Nat × Nat)
  deriving DecidableEq, Repr

inductive AdmissionResult where
  | refused (st : Status)
  | admitted (a : Admission) (s : State)
  deriving DecidableEq, Repr

/-- The in-use count of a slot rises by one (R8). -/
def raiseInUse (i : SlotIx) (s : State) : State := s.setSlot i { s.slot i with inUse := (s.slot i).inUse + 1 }

/-- Counter allocation from the source slot of an admitted DERIVED step (R10). -/
def allocateCounter (i : SlotIx) (key : HeldKey) (keySet next : Nat) (s : State) : State :=
  counterEvents (next + 1) (s.setSlot i { s.slot i with content := withNextCounter key keySet (next + 1) })

/-- The cover slot's part of an admission (R9). -/
def admitCover (p : Port) (source cover : SlotIx) (key : HeldKey) (derivation : Option (Nat × Nat)) (s : State) :
    AdmissionResult :=
  if !grantsPort cover p s then .refused .notPermitted
  else match (s.slot cover).content with
    | .active c =>
      if c.use = .transport then
        let s' := raiseInUse cover (raiseInUse source s)
        .admitted
          { source := key, sourceGen := (s.slot source).generation
            cover := c, coverGen := (s.slot cover).generation, derivation := derivation }
          (match derivation with
            | none => s'
            | some (keySet, next) => allocateCounter source key keySet next s')
      else .refused .slotUnavailable
    | _ => .refused .slotUnavailable

/-- Step admission (R9). -/
def admitStep (p : Port) (kind : StepType) (source cover : SlotIx) (s : State) : AdmissionResult :=
  if !grantsPort source p s then .refused .notPermitted
  else match (s.slot source).content, kind with
    | .exhausted _, .derived => .refused .counterExhausted
    | .active k, .shared =>
      if k.use = .working then admitCover p source cover k none s else .refused .slotUnavailable
    | .active k, .derived =>
      match k.use with
      | .baseDerivation keySet next => admitCover p source cover k (some (keySet, next)) s
      | _ => .refused .slotUnavailable
    | _, _ => .refused .slotUnavailable

/-- The two custodians whose acceptances a ceremony holds. -/
def CeremonyWork.approvers (w : CeremonyWork) : Option Pair :=
  match w.acceptA, w.acceptB with
  | some a, some b => some { a := a, b := b }
  | _, _ => none

/-- The erasure of a slot completes, and with it the ERASE ceremony that approved it (R17, R54). -/
def completeErasure (i : SlotIx) (s : State) : State :=
  let x := s.slot i
  let s' := s.setSlot i { x with content := .empty }
  match s.ceremony.run with
  | .work w =>
    match w.approvers with
    | some pair => finishCeremony w .completed .idle (writeRecord .ceremony (.keyErased i x.generation pair) s')
    | none => s'
  | _ => s'

/-- A step end or import end lowers a slot's in-use count, and completes the erasure of an ERASING slot whose count
reaches 0 (R11, R15). -/
def lowerInUse (i : SlotIx) (s : State) : State :=
  let x := s.slot i
  let s' := s.setSlot i { x with inUse := x.inUse - 1 }
  match x.content with
  | .erasing _ => if x.inUse - 1 = 0 then completeErasure i s' else s'
  | _ => s'

/-! ### Reserve, install, abandonment (R12-R15) -/

/-- The first check of a reserve that fails, in the order of R12. -/
inductive ReserveFailure where
  | noSlot | notEmpty | noRegion | notWritable | classNotHeld | spent
  deriving DecidableEq, Repr

inductive ReserveResult where
  | refused (why : ReserveFailure)
  | granted (i : SlotIx)
  deriving DecidableEq, Repr

/-- The answer to an ASSEMBLE OPEN (R12). -/
def ReserveFailure.toConsole : ReserveFailure → Status
  | .noSlot => .notFound
  | .spent => .generationSpent
  | _ => .wrongState

/-- The answer to an IMPORT (R12). -/
def ReserveFailure.toControl : ReserveFailure → Status
  | .noSlot => .range
  | .notEmpty => .occupied
  | _ => .notPermitted

/-- The region lets the writer reserve: ASSEMBLE names its class, IMPORT none (R7, R12). -/
def writerFailure (r : Region) : Option KeyClass → Option ReserveFailure
  | some c => if !r.ceremonyWritable then some .notWritable else if !r.admits c then some .classNotHeld else none
  | none => if r.importWritable then none else some .notWritable

/-- The checks of a reserve for an ASSEMBLE of a class, or for an IMPORT (R12). -/
def reserveCheck (n : Nat) (cls : Option KeyClass) (s : State) : ReserveResult :=
  match slotIx? n with
  | none => .refused .noSlot
  | some i =>
    if (s.slot i).content ≠ .empty then .refused .notEmpty
    else match regionOf i s with
      | none => .refused .noRegion
      | some r =>
        match writerFailure r cls with
        | some f => .refused f
        | none => if (s.slot i).generation < 4294967295 then .granted i else .refused .spent

/-- An accepted reserve (R12). -/
def reserveSlot (h : Holder) (i : SlotIx) (s : State) : State :=
  s.setSlot i { s.slot i with content := .assembling h }

/-- Abandonment: the slot returns to EMPTY, if it is ASSEMBLING for that holder (R14). -/
def abandonSlot (h : Holder) (i : SlotIx) (s : State) : State :=
  if (s.slot i).content = .assembling h then s.setSlot i { s.slot i with content := .empty } else s

/-- Install of a key by the holder of an ASSEMBLING slot, with its KEY_INSTALLED record (R13). -/
def installKey (h : Holder) (res : ResHolder) (i : SlotIx) (key : HeldKey) (origin : KeyOrigin) (s : State) : State :=
  let x := s.slot i
  if x.content = .assembling h then
    writeRecord res (.keyInstalled i (x.generation + 1) key.use.cls key.kcv origin)
      (s.setSlot i { x with content := .active key, generation := x.generation + 1 })
  else s

/-- The class of a key with the fields a new key of that class has (R13). -/
def newKeyUse (c : KeyClass) (keySet : Option Nat) : Option KeyUse :=
  match c, keySet with
  | .transport, none => some .transport
  | .baseDerivation, some k => some (.baseDerivation k 0)
  | .working, none => some .working
  | _, _ => none

/-! ### Zeroisation and reset (R18, R22) -/

/-- A slot emptied by zeroise (R18). -/
def Slot.zeroised (x : Slot) : Slot := { x with content := .empty }

def zeroiseSlots (s : State) : State :=
  { s with store := { s.store with slots := s.store.slots.map Slot.zeroised } }

/-- A held key with every field but its material. -/
def HeldKey.bare (k : HeldKey) : HeldKey := { k with material := [] }

/-- The content of a slot without key material. -/
def SlotContent.bare : SlotContent → SlotContent
  | .active k => .active k.bare
  | .exhausted k => .exhausted k.bare
  | .erasing k => .erasing k.bare
  | c => c

/-- A slot whose key material the battery supply has destroyed (R105). -/
def Slot.destroyed (x : Slot) : Slot := { x with content := x.content.bare }

/-- A slot at every reset (R22). -/
def Slot.afterReset (x : Slot) : Slot :=
  { x with
    inUse := 0
    content := match x.content with
      | .assembling _ => .empty
      | .erasing k => if k.use.nextCounter? = some counterEnd then .exhausted k else .active k
      | c => c }

def resetSlots (s : State) : State :=
  { s with store := { s.store with slots := s.store.slots.map Slot.afterReset } }

/-! ### Slot and counter requests (R19-R21) -/

/-- The held state and key of a slot (R19). -/
def SlotContent.held? : SlotContent → Option (HeldState × HeldKey)
  | .active k => some (.active, k)
  | .exhausted k => some (.exhausted, k)
  | .erasing k => some (.erasing, k)
  | _ => none

/-- The fields of a SLOT_QUERY answer; key material is not among them (R21). -/
def slotReport (i : SlotIx) (s : State) : SlotReport :=
  { slot := i, content := (s.slot i).content.bare, generation := (s.slot i).generation, inUse := (s.slot i).inUse
    region := (regionOf i s).map Region.number }

/-- SLOT_QUERY (R21). -/
def slotQuery (tag : Byte) (n : Nat) (s : State) : State :=
  match slotIx? n with
  | none => refuse tag 0x21 .range s
  | some i => respond tag 0x21 .ok false (.slot (slotReport i s)) s

/-- COUNTER_READ (R19). -/
def counterRead (tag : Byte) (n : Nat) (s : State) : State :=
  match slotIx? n with
  | none => refuse tag 0x40 .range s
  | some i =>
    match (s.slot i).content.held? with
    | none => refuse tag 0x40 .slotUnavailable s
    | some (st, k) =>
      match k.use with
      | .baseDerivation keySet next =>
        respond tag 0x40 .ok false (.counter st (s.slot i).generation keySet next (counterEnd - next)) s
      | _ => refuse tag 0x40 .wrongClass s

/-- A COUNTER_ADVANCE that passed its checks (R20). -/
def counterRaise (tag : Byte) (i : SlotIx) (key : HeldKey) (keySet next value : Nat) (s : State) : State :=
  if value ≤ next then respond tag 0x41 .ok false (.advance next) s
  else match requestReservation .counterAdvance s with
    | (false, s1) => refuse tag 0x41 .journalFull s1
    | (true, s1) =>
      respond tag 0x41 .ok true (.advance next)
        (counterEvents value
          (writeRecord .counterAdvance (.counterAdvanced i (s.slot i).generation next value)
            (s1.setSlot i { s.slot i with content := withNextCounter key keySet value })))

/-- COUNTER_ADVANCE (R20). -/
def counterAdvance (tag : Byte) (n value : Nat) (s : State) : State :=
  match slotIx? n with
  | none => refuse tag 0x41 .range s
  | some i =>
    if counterEnd < value then refuse tag 0x41 .range s
    else match (s.slot i).content.held? with
      | none => refuse tag 0x41 .slotUnavailable s
      | some (st, k) =>
        match k.use with
        | .baseDerivation keySet next =>
          if st = .erasing then refuse tag 0x41 .slotUnavailable s else counterRaise tag i k keySet next value s
        | _ => refuse tag 0x41 .wrongClass s

def requestSlotQuery (tag : Byte) (slot : Nat) : State → State := acceptRequest tag 0x21 1 (slotQuery tag slot)
def requestCounterRead (tag : Byte) (slot : Nat) : State → State := acceptRequest tag 0x40 1 (counterRead tag slot)
def requestCounterAdvance (tag : Byte) (slot value : Nat) : State → State :=
  acceptRequest tag 0x41 5 (counterAdvance tag slot value)

/-- Meaning of SLOT_QUERY. -/
def execSlotQuery (tag : Byte) (slot : Nat) (s : State) : Host.Outcome State Fault Refusal :=
  .next (requestSlotQuery tag slot s)

/-- Meaning of COUNTER_READ. -/
def execCounterRead (tag : Byte) (slot : Nat) (s : State) : Host.Outcome State Fault Refusal :=
  .next (requestCounterRead tag slot s)

/-- Meaning of COUNTER_ADVANCE. -/
def execCounterAdvance (tag : Byte) (slot value : Nat) (s : State) : Host.Outcome State Fault Refusal :=
  .next (requestCounterAdvance tag slot value s)

end Sys2Proof.Machine
end

