-- ==== Sys2Proof/Machine/Registry.lean ====
section
/-! DEFINITION. The Terminal Registry: rows and lookup (R109, R110), insertion and aging (R113-R115), the operations of the
bench sessions (R117-R121), the five registry requests (R122-R127), and what reset leaves (R129). -/

namespace Sys2Proof.Machine

/-! ### Rows and lookup (R109, R110) -/

/-- The sum of the row function: byte number `k` onward (R110). -/
def weightedSum : Nat → List Byte → Nat
  | _, [] => 0
  | k, x :: rest => x.toNat * (k + 1) + weightedSum (k + 1) rest

/-- The row of a serial (R110). -/
def rowOf (serial : Serial) : Fin 64 := ⟨weightedSum 0 serial % 64, Nat.mod_lt _ (by omega)⟩

/-- The position of a way of a row (R109). -/
def position (row : Fin 64) (way : Fin 4) : RegIx := ⟨row.val * 4 + way.val, by omega⟩

/-- The positions of a row, way 0 first. -/
def rowPositions (row : Fin 64) : List RegIx := [position row 0, position row 1, position row 2, position row 3]

/-- The place holds the entry of a serial. -/
def holdsSerial (r : Registry) (serial : Serial) (i : RegIx) : Bool :=
  match r.get i with
  | some e => e.serial == serial
  | none => false

/-- Lookup of a serial in its row (R110). -/
def lookupSerial (r : Registry) (serial : Serial) : Option RegIx := (rowPositions (rowOf serial)).find? (holdsSerial r serial)

/-- The entry of a serial. -/
def entryOf (r : Registry) (serial : Serial) : Option Entry := (lookupSerial r serial).bind r.get

/-- The entry of a serial is changed by a function. -/
def modifyEntry (serial : Serial) (f : Entry → Entry) (r : Registry) : Registry :=
  match lookupSerial r serial with
  | none => r
  | some i => r.modify i (Option.map f)

/-! ### Insertion and eviction (R114) -/

/-- An entry that ages and may be evicted: DISCOVERED and EXPECTED (R113). -/
def Entry.evictable (e : Entry) : Bool := e.origin == .discovered && e.state == .expected

/-- The unbound-since time of a victim, or none. -/
def victimTime (r : Registry) (i : RegIx) : Option Nat :=
  match r.get i with
  | some e => if e.evictable then some (e.unboundSince.getD 0) else none
  | none => none

/-- The victim with the greatest unbound-since time, the lowest way among equals (R114). -/
def victim (r : Registry) : List RegIx → Option RegIx
  | [] => none
  | i :: rest =>
    match victimTime r i, victim r rest with
    | none, v => v
    | some _, none => some i
    | some t, some j => if t < (victimTime r j).getD 0 then some j else some i

/-- What an insertion gives: the registry after it, the place, and the serial evicted. -/
structure Inserted where
  registry : Registry
  place : RegIx
  evicted : Option Serial
  deriving DecidableEq, Repr

/-- Insertion into the lowest free way of the serial's row, or over the row's victim; none when the row is full (R114). -/
def insertEntry (e : Entry) (r : Registry) : Option Inserted :=
  let ways := rowPositions (rowOf e.serial)
  match ways.find? fun i => (r.get i).isNone with
  | some i => some { registry := r.set i (some e), place := i, evicted := none }
  | none =>
    match victim r ways with
    | none => none
    | some i => some { registry := r.set i (some e), place := i, evicted := (r.get i).map Entry.serial }

/-- A new entry: EXPECTED, never bound, nothing delivered (R114). -/
def newEntry (serial : Serial) (origin : Origin) (recipe : Option (Fin 16)) : Entry where
  serial := serial
  origin := origin
  recipe := recipe
  version := none
  state := .expected
  boundPort := none
  delivered := 0
  mismatches := 0
  unboundSince := match origin with | .discovered => some 0 | .manifest => none

/-- Pinning: the origin becomes MANIFEST, a given recipe number is taken by an EXPECTED entry, and aging ends (R113). -/
def Entry.pinned (recipe : Option (Fin 16)) (e : Entry) : Entry :=
  { e with
    origin := .manifest
    recipe := match recipe with
      | none => e.recipe
      | some n => if e.state = .expected then some n else e.recipe
    unboundSince := none }

/-! ### Aging (R115) -/

/-- Entries still aging whose time equals or exceeds a limit are removed (R88, R115). -/
def removeAged (limit : Nat) (r : Registry) : Registry :=
  r.map fun place =>
    match place with
    | some e => match e.unboundSince with
      | some t => if limit ≤ t then none else some e
      | none => some e
    | none => none

/-- The entry of a place has reached the age limit of the committed profile (R115). -/
def agedAt (s : State) (i : RegIx) : Bool :=
  match s.profile, (s.registry.get i).bind Entry.unboundSince with
  | some p, some t => p.params.ageLimit ≤ t
  | _, _ => false

/-- The entry whose unbound-since time has reached the age limit is removed (R115). At a place where none has, the row is no
event (log entry 2). -/
def entryAged (i : RegIx) (s : State) : State := if agedAt s i then s.setRegistry (s.registry.set i none) else s

/-! ### Delivered sets (R112) -/

/-- The step indexes below a step count that are not in a delivered set, in increasing order (R118). -/
def missingSteps (delivered : BitVec 12) (count : Nat) : List Nat := (List.range count).filter fun k => !delivered.getLsbD k

/-- The delivered set holds every step (R112). -/
def holdsEveryStep (delivered : BitVec 12) (count : Nat) : Bool := (missingSteps delivered count).isEmpty

/-- The state and aging of an entry whose binding ends unfinished (R121, R129). -/
def Entry.unbound (e : Entry) : Entry :=
  { e with
    boundPort := none
    state := if e.delivered = 0 then .expected else .partialLoad
    unboundSince := if e.delivered = 0 ∧ e.origin = .discovered then some 0 else none }

/-! ### Operations of the bench sessions (R117-R121) -/

/-- The recipe of the committed profile with a number. -/
def recipeNumbered (n : Fin 16) (s : State) : Option Recipe :=
  match s.profile with
  | none => none
  | some p => p.recipes.find? fun r => r.number == n

/-- The recipe of the committed profile with a model code (R91). -/
def recipeForModel (m : ModelCode) (s : State) : Option Recipe :=
  match s.profile with
  | none => none
  | some p => p.recipes.find? fun r => r.model == m

/-- What the registry hands a context that asks for a serial (R117). -/
inductive FindResult where
  | boundElsewhere (port : Port)
  | complete | rejected | absent | noRecipe | rowFull
  | entry (e : Entry)
  deriving DecidableEq, Repr

/-- Find, with discovery under the OPEN policy (R117). A bound entry is a LOADING one, and no other; log entry 26. -/
def findForHello (serial : Serial) (model : ModelCode) (s : State) : FindResult × State :=
  match entryOf s.registry serial with
  | some e =>
    match e.boundPort, e.state with
    | some port, _ => (.boundElsewhere port, s)
    | none, .complete => (.complete, s)
    | none, .rejected => (.rejected, s)
    | none, _ => (.entry e, s)
  | none =>
    match s.profile.map (fun p => p.params.policy) with
    | some Policy.openPolicy =>
      match recipeForModel model s with
      | none => (.noRecipe, s)
      | some r =>
        let e := newEntry serial .discovered (some r.number)
        match insertEntry e s.registry with
        | none => (.rowFull, s)
        | some ins => (.entry e, s.setRegistry ins.registry)
    | _ => (.absent, s)

/-- Bind finds every step delivered: the entry becomes COMPLETE (R118). -/
def Entry.completedAtBind (e : Entry) : Entry := { e with state := .complete, unboundSince := none }

/-- Bind makes the entry LOADING at a port under a recipe and its version (R118). -/
def Entry.bound (p : Port) (r : Recipe) (e : Entry) : Entry :=
  { e with
    state := .loading
    boundPort := some p
    version := some r.version
    recipe := if e.state = .expected then some r.number else e.recipe
    unboundSince := none }

/-- Deliver adds a step index and judges the recipe (R119). -/
def Entry.deliver (index count : Nat) (e : Entry) : Entry :=
  let d := e.delivered ||| BitVec.twoPow 12 index
  if holdsEveryStep d count then { e with delivered := d, state := .complete, boundPort := none }
  else { e with delivered := d }

/-- Mismatch raises the count and may reject (R120). -/
def Entry.mismatch (retry : Nat) (e : Entry) : Entry :=
  if retry ≤ e.mismatches + 1 then { e with mismatches := e.mismatches + 1, state := .rejected, boundPort := none }
  else { e with mismatches := e.mismatches + 1 }

/-- Unbind at the end of a session (R121). -/
def unbindSerial (serial : Serial) (s : State) : State := s.setRegistry (modifyEntry serial Entry.unbound s.registry)

/-! ### Reset (R129) -/

/-- A place of the registry at every reset (R129). -/
def placeAfterReset : Option Entry → Option Entry
  | none => none
  | some e =>
    let e' := if e.state = .loading then e.unbound else { e with boundPort := none }
    if e'.origin = .discovered ∧ e'.delivered = 0 then none else some e'

def resetRegistry (s : State) : State := s.setRegistry (s.registry.map placeAfterReset)

/-! ### Registry requests (R122-R127) -/

/-- A given recipe number names a recipe of the committed profile, or none is given (R123). -/
def recipeGivenExists (recipe : Option (Fin 16)) (s : State) : Bool :=
  match recipe with
  | none => true
  | some n => (recipeNumbered n s).isSome

/-- REG_ADD once its operands are in range (R123). -/
def regAddChecked (tag : Byte) (serial : Serial) (recipe : Option (Fin 16)) (s : State) : State :=
  if !recipeGivenExists recipe s then refuse tag 0x30 .badRecipe s
  else match lookupSerial s.registry serial with
    | some i =>
      respond tag 0x30 .ok false (.regAdd i.val (s.registry.get i) none)
        (s.setRegistry (s.registry.modify i (Option.map (Entry.pinned recipe))))
    | none =>
      match insertEntry (newEntry serial .manifest recipe) s.registry with
      | none => refuse tag 0x30 .registryFull s
      | some ins => respond tag 0x30 .ok true (.regAdd ins.place.val none ins.evicted) (s.setRegistry ins.registry)

/-- REG_ADD (R123). -/
def regAdd (tag : Byte) (serial : Serial) (recipe : Option Nat) (s : State) : State :=
  if !serialValid serial then refuse tag 0x30 .range s
  else match recipe with
    | none => regAddChecked tag serial none s
    | some n =>
      match recipeIx? n with
      | none => refuse tag 0x30 .range s
      | some r => regAddChecked tag serial (some r) s

/-- REG_QUERY (R124). -/
def regQuery (tag : Byte) (serial : Serial) (s : State) : State :=
  if !serialValid serial then refuse tag 0x31 .range s
  else match lookupSerial s.registry serial with
    | none => refuse tag 0x31 .notFound s
    | some i =>
      match s.registry.get i with
      | none => refuse tag 0x31 .notFound s
      | some e => respond tag 0x31 .ok false (.regEntry i.val e) s

/-- The pairs of expected and new state that REG_SET_STATE takes (R125). -/
def settable : EntryState → EntryState → Bool
  | .expected, .rejected => true
  | .partialLoad, .rejected => true
  | .rejected, .expected => true
  | .rejected, .partialLoad => true
  | _, _ => false

/-- The delivered set fits the state a REJECTED entry is released to (R125). -/
def releaseFits (new : EntryState) (e : Entry) : Bool :=
  match e.state, new with
  | .rejected, .expected => e.delivered = 0
  | .rejected, .partialLoad => e.delivered ≠ 0
  | _, _ => true

/-- The change of a REG_SET_STATE (R125). -/
def Entry.withState (new : EntryState) (e : Entry) : Entry :=
  if new = .rejected then { e with state := .rejected, unboundSince := none }
  else { e with
    state := new
    mismatches := 0
    unboundSince := if new = .expected ∧ e.origin = .discovered then some 0 else none }

/-- REG_SET_STATE on a present entry (R125). -/
def setEntryState (tag : Byte) (i : RegIx) (e : Entry) (wanted new : EntryState) (s : State) : State :=
  if e.boundPort.isSome then refuse tag 0x32 .busy s
  else if e.state ≠ wanted then respond tag 0x32 .ok false (.regEntry i.val e) s
  else if !releaseFits new e then refuse tag 0x32 .wrongState s
  else respond tag 0x32 .ok true (.regEntry i.val e) (s.setRegistry (s.registry.set i (some (e.withState new))))

/-- REG_SET_STATE (R125). -/
def regSetState (tag : Byte) (serial : Serial) (expected new : Nat) (s : State) : State :=
  if !serialValid serial then refuse tag 0x32 .range s
  else match entryStateOf? expected, entryStateOf? new with
    | some e, some n =>
      if !settable e n then refuse tag 0x32 .wrongState s
      else match lookupSerial s.registry serial with
        | none => refuse tag 0x32 .notFound s
        | some i =>
          match s.registry.get i with
          | none => refuse tag 0x32 .notFound s
          | some x => setEntryState tag i x e n s
    | _, _ => refuse tag 0x32 .range s

/-- REG_REMOVE on a present entry (R126). -/
def removeEntry (tag : Byte) (i : RegIx) (e : Entry) (wanted : EntryState) (s : State) : State :=
  if e.boundPort.isSome then refuse tag 0x33 .busy s
  else if e.state ≠ wanted then respond tag 0x33 .ok false (.regEntry i.val e) s
  else respond tag 0x33 .ok true (.regEntry i.val e) (s.setRegistry (s.registry.set i none))

/-- REG_REMOVE (R126). -/
def regRemove (tag : Byte) (serial : Serial) (expected : Nat) (s : State) : State :=
  if !serialValid serial then refuse tag 0x33 .range s
  else match entryStateOf? expected with
    | none => refuse tag 0x33 .range s
    | some e =>
      match lookupSerial s.registry serial with
      | none => refuse tag 0x33 .notFound s
      | some i =>
        match s.registry.get i with
        | none => refuse tag 0x33 .notFound s
        | some x => removeEntry tag i x e s

/-- The occupied places from a position on, in increasing order (R127). -/
def occupiedFrom (start : Nat) (r : Registry) : List (Nat × Entry) :=
  (allBelow 256).filterMap fun i => if start ≤ i.val then (r.get i).map fun e => (i.val, e) else none

/-- The next position of a scan (R127). -/
def nextPosition (count : Nat) (found : List (Nat × Entry)) : Option Nat :=
  match found.getLast? with
  | none => none
  | some last => if found.length < count ∨ last.1 = 255 then none else some (last.1 + 1)

/-- REG_SCAN (R127). -/
def regScan (tag : Byte) (start count : Nat) (s : State) : State :=
  if 255 < start ∨ count < 1 ∨ 8 < count then refuse tag 0x34 .range s
  else
    let found := (occupiedFrom start s.registry).take count
    respond tag 0x34 .ok false (.regScan found (nextPosition count found)) s

def requestRegAdd (tag : Byte) (serial : Serial) (recipe : Option Nat) : State → State :=
  acceptRequest tag 0x30 (serial.length + if recipe.isSome then 3 else 2) (regAdd tag serial recipe)
def requestRegQuery (tag : Byte) (serial : Serial) : State → State :=
  acceptRequest tag 0x31 (serial.length + 1) (regQuery tag serial)
def requestRegSetState (tag : Byte) (serial : Serial) (expected new : Nat) : State → State :=
  acceptRequest tag 0x32 (serial.length + 3) (regSetState tag serial expected new)
def requestRegRemove (tag : Byte) (serial : Serial) (expected : Nat) : State → State :=
  acceptRequest tag 0x33 (serial.length + 2) (regRemove tag serial expected)
def requestRegScan (tag : Byte) (start count : Nat) : State → State := acceptRequest tag 0x34 2 (regScan tag start count)

/-- Meaning of REG_ADD. -/
def execRegAdd (tag : Byte) (serial : Serial) (recipe : Option Nat) (s : State) : Host.Outcome State Fault Refusal :=
  .next (requestRegAdd tag serial recipe s)

/-- Meaning of REG_QUERY. -/
def execRegQuery (tag : Byte) (serial : Serial) (s : State) : Host.Outcome State Fault Refusal :=
  .next (requestRegQuery tag serial s)

/-- Meaning of REG_SET_STATE. -/
def execRegSetState (tag : Byte) (serial : Serial) (expected new : Nat) (s : State) : Host.Outcome State Fault Refusal :=
  .next (requestRegSetState tag serial expected new s)

/-- Meaning of REG_REMOVE. -/
def execRegRemove (tag : Byte) (serial : Serial) (expected : Nat) (s : State) : Host.Outcome State Fault Refusal :=
  .next (requestRegRemove tag serial expected s)

/-- Meaning of REG_SCAN. -/
def execRegScan (tag : Byte) (start count : Nat) (s : State) : Host.Outcome State Fault Refusal :=
  .next (requestRegScan tag start count s)

/-- Meaning of ENTRY_AGED. -/
def execEntryAged (i : RegIx) (s : State) : Host.Outcome State Fault Refusal :=
  .next (if s.running then entryAged i s else s)

end Sys2Proof.Machine
end

