-- ==== Sys2Proof/Machine/Bench.lean ====
section
/-! DEFINITION. The Bench Port Contexts: taking a message (R150, R151, R170, R200), HELLO (R154-R157), FETCH (R158-R160), the
job completions (R161, R168), CONFIRM (R163, R164), BYE and the common session end (R165-R167), presence (R152, R153) and
the idle expiry (R171). -/

namespace Sys2Proof.Machine

/-! ### Taking a bench message -/

/-- The session idle limit in force at a start or restart (R170). Without a profile there is no session (log entry 26). -/
def sessionIdleLimit (s : State) : Nat :=
  match s.profile with
  | none => 0
  | some p => p.params.sessionIdle

/-- An idle timer that starts or restarts now (R170). -/
def sessionTimer (s : State) : Timer := { count := 0, limit := sessionIdleLimit s }

/-- The idle timer restarts at every request taken in IDENTIFIED or OFFERED (R170). -/
def restartSessionIdle (p : Port) (s : State) : State :=
  match s.ctx p with
  | .identified ss _ => s.setCtx p (.identified ss (sessionTimer s))
  | .offered ss _ => s.setCtx p (.offered ss (sessionTimer s))
  | _ => s

def BenchOut.isAnswer : BenchOut → Bool
  | .halt _ => false
  | _ => true

/-- Answers in the transmit queue, the one withheld for a FETCH counted (R200). -/
def Bench.answersDue (b : Bench) : Nat :=
  (b.tx.filter BenchOut.isAnswer).length + (match b.ctx with | .preparing _ => 1 | _ => 0)

/-- A context takes messages in every state but OFF and VACANT (R150, R151). -/
def PortContext.takesMessages : PortContext → Bool
  | .off => false
  | .vacant => false
  | _ => true

/-- A whole message has come on a bench link (log entry 9). It is taken while the terminal is present, fewer than 4 answers
are due (R200) and the context is not OFF (R150). -/
def benchMessage (p : Port) (handle : State → State) (s : State) : State :=
  if !s.running then s
  else
    let s := setReceiver (.bench p) .idle s
    let b := s.bench p
    if !b.present || 4 ≤ b.answersDue || !b.ctx.takesMessages then s else handle (restartSessionIdle p s)

/-- The code a context answers a request with that its state does not take (R151). -/
def PortContext.refusal : PortContext → Status
  | .preparing _ => .busy
  | .finished => .sessionEnded
  | .draining _ mark => if mark then .busy else .sessionEnded
  | _ => .sequence

/-! ### The end of a step (R162) -/

/-- A step ends: its record, the step ends of its slots, its pending-step record (R162). -/
def endStep (p : Port) (ps : PendingStep) (body : RecordBody) (s : State) : State :=
  lowerInUse ps.facts.cover
    (lowerInUse ps.facts.source ((writeRecord (.bench p) body s).setStep p none))

/-- The step in flight ends in a VOIDED record (R180). -/
def voidStep (p : Port) (kcv : PendingStep → Option Kcv) (reason : VoidReason) (s : State) : State :=
  match s.step p with
  | none => s
  | some ps => endStep p ps (.voided ps.facts (kcv ps) reason) s

/-! ### The common session end (R166, R167) -/

/-- HALT is sent for these reasons (R167). -/
def VoidReason.halts : VoidReason → Bool
  | .idleTimeout => true
  | .lineClosed => true
  | .zeroised => true
  | _ => false

/-- The state of a context whose session ends with no job running (R167). -/
def endedContext (reason : VoidReason) : PortContext := if reason = .detached then .vacant else .finished

/-- Unbinding, HALT, the new state and TERMINAL_FAULT (R167). -/
def finishSession (p : Port) (ss : Session) (reason : VoidReason) (next : PortContext) (s : State) : State :=
  let s := unbindSerial ss.serial s
  let s := if reason.halts then pushBench p (.halt reason) s else s
  (s.setCtx p next).setFlagIf (reason = .idleTimeout) .terminalFault

/-- The common session-end procedure; a context with no session is not touched (R166, R167, R173). -/
def endSession (reason : VoidReason) (p : Port) (s : State) : State :=
  match s.ctx p with
  | .identified ss _ => finishSession p ss reason (endedContext reason) s
  | .offered ss _ => finishSession p ss reason (endedContext reason) (voidStep p PendingStep.expected reason s)
  | .preparing ss =>
    let r := benchRequester p
    if jobPlace r s = .running then
      finishSession p ss reason (.draining reason (reason = .detached)) (withdrawJob r s)
    else
      finishSession p ss reason (endedContext reason) (voidStep p (fun _ => none) reason (withdrawJob r s))
  | _ => s

/-- Every session ends, port 0 first (R162, R173, R174). That a KEY_ERASED record of an erasure which one of the step ends
completes (R17, R191) stands right after that step's VOIDED record, before those of later ports, is DESIGN CHOICE, unsafe, log
entry 34. -/
def endAllSessions (reason : VoidReason) (s : State) : State := allPorts.foldl (fun s p => endSession reason p s) s

/-! ### HELLO (R154-R157) -/

/-- A HELLO refused for the terminal (R154). -/
def helloRefused (p : Port) (st : Status) (s : State) : State := (verdict p st s).setCtx p .finished

/-- The recipe resolved for an entry, or the refusal (R156). -/
inductive Resolved where
  | refused (st : Status)
  | recipe (r : Recipe)
  deriving DecidableEq, Repr

/-- The recipe of an entry by its number, or by the model code when it has none (R156). -/
def resolveRecipe (e : Entry) (model : ModelCode) (s : State) : Resolved :=
  match e.recipe with
  | some n => match recipeNumbered n s with
    | some r => .recipe r
    | none => .refused .recipeNotAllowed
  | none => match recipeForModel model s with
    | some r => .recipe r
    | none => .refused .modelMismatch

/-- The recipe is in the port's allowed recipe set (R89). -/
def recipeAllowed (p : Port) (n : Fin 16) (s : State) : Bool :=
  match s.profile with
  | none => false
  | some pr => (pr.ports.get p).allowed.getLsbD n.val

/-- The checks of R156 in order. -/
def checkRecipe (p : Port) (e : Entry) (model : ModelCode) (s : State) : Resolved :=
  match resolveRecipe e model s with
  | .refused st => .refused st
  | .recipe r =>
    if !recipeAllowed p r.number s then .refused .recipeNotAllowed
    else if r.model ≠ model then .refused .modelMismatch
    else if e.state = .expected ∨ e.version = some r.version then .recipe r
    else .refused .recipeChanged

/-- The registry binds the entry, or finds it COMPLETE (R157). -/
def bindSession (p : Port) (e : Entry) (r : Recipe) (s : State) : State :=
  let count := r.steps.length
  if holdsEveryStep e.delivered count then
    helloRefused p .alreadyComplete (s.setRegistry (modifyEntry e.serial Entry.completedAtBind s.registry))
  else
    let s := s.setRegistry (modifyEntry e.serial (Entry.bound p r) s.registry)
    let ss := { serial := e.serial, recipe := r.number, version := r.version, stepCount := count, cover := r.cover }
    pushBench p (.welcome r.number r.version count (missingSteps e.delivered count))
      (s.setCtx p (.identified ss (sessionTimer s)))

/-- HELLO on a LIVE line with a valid serial (R155-R157). -/
def helloFound (p : Port) (serial : Serial) (model : ModelCode) (s : State) : State :=
  match findForHello serial model s with
  | (.boundElsewhere _, s) => helloRefused p .duplicateSerial (s.setFlag .duplicateSerial)
  | (.complete, s) => helloRefused p .alreadyComplete s
  | (.rejected, s) => helloRefused p .rejectedTerminal s
  | (.absent, s) => helloRefused p .unknownTerminal s
  | (.noRecipe, s) => helloRefused p .modelMismatch s
  | (.rowFull, s) => helloRefused p .registryFull s
  | (.entry e, s) =>
    match checkRecipe p e model s with
    | .refused st => helloRefused p st s
    | .recipe r => bindSession p e r s

/-- HELLO in ATTACHED (R154). -/
def helloTaken (p : Port) (serial : Serial) (model : ModelCode) (s : State) : State :=
  match s.line with
  | .live => if serialValid serial then helloFound p serial model s else helloRefused p .unknownTerminal s
  | .paused => verdict p .paused s
  | _ => verdict p .notLive s

/-- HELLO (R151, R154). -/
def hello (p : Port) (serial : Serial) (model : ModelCode) (s : State) : State :=
  match s.ctx p with
  | .attached => helloTaken p serial model s
  | c => verdict p c.refusal s

/-! ### FETCH (R158-R160) -/

/-- The job of an admitted step (R139, R140). -/
def stepJob (a : Admission) (st : RecipeStep) : JobInputs :=
  match a.derivation with
  | none => .prepareShared a.source.material a.cover.material st.terminalSlot st.usage
  | some (keySet, counter) =>
    .prepareDerived a.source.material keySet counter a.cover.material st.terminalSlot st.usage

/-- The step in flight of an admitted step (R160). -/
def stepRecord (p : Port) (ss : Session) (index : Nat) (st : RecipeStep) (a : Admission) : PendingStep where
  facts :=
    { port := p, serial := ss.serial, recipe := ss.recipe, version := ss.version, index := index
      terminalSlot := st.terminalSlot, source := st.source, sourceGen := a.sourceGen, cover := ss.cover
      coverGen := a.coverGen, counter := a.derivation.map Prod.snd }
  usage := st.usage
  keySet := a.derivation.map Prod.fst
  expected := none

/-- The admitted step starts (R160). -/
def startStep (p : Port) (ss : Session) (index : Nat) (st : RecipeStep) (a : Admission) (s : State) : State :=
  requestJob (benchRequester p) (stepJob a st)
    ((s.setStep p (some (stepRecord p ss index st a))).setCtx p (.preparing ss))

/-- Reservation and admission of a step that passed the checks of R158 (R159). -/
def admitFetch (p : Port) (ss : Session) (index : Nat) (st : RecipeStep) (s : State) : State :=
  match requestReservation (.bench p) s with
  | (false, s1) => verdict p .wait s1
  | (true, s1) =>
    match admitStep p st.kind st.source ss.cover s1 with
    | .refused code => verdict p code (returnReservation (.bench p) s1)
    | .admitted a s2 => startStep p ss index st a s2

/-- The bound entry has received a step. -/
def stepDelivered (serial : Serial) (index : Nat) (s : State) : Bool :=
  match entryOf s.registry serial with
  | none => false
  | some e => e.delivered.getLsbD index

/-- The recipe step of a session with an index. -/
def sessionStep (ss : Session) (index : Nat) (s : State) : Option RecipeStep :=
  if index < ss.stepCount then (recipeNumbered ss.recipe s).bind fun r => r.steps[index]? else none

/-- FETCH in IDENTIFIED (R158). -/
def fetchTaken (p : Port) (ss : Session) (index : Nat) (s : State) : State :=
  if s.line ≠ .live then verdict p .paused s
  else match sessionStep ss index s with
    | none => verdict p .noSuchStep s
    | some st => if stepDelivered ss.serial index s then verdict p .alreadyDelivered s else admitFetch p ss index st s

/-- FETCH (R151, R158). -/
def fetchStep (p : Port) (index : Nat) (s : State) : State :=
  match s.ctx p with
  | .identified ss _ => fetchTaken p ss index s
  | c => verdict p c.refusal s

/-! ### Job completion (R161, R168) -/

/-- The close finishes when no context is DRAINING (R100, R101). -/
def PortContext.isDraining : PortContext → Bool
  | .draining .. => true
  | _ => false

def anyDraining (s : State) : Bool := allPorts.any fun p => (s.ctx p).isDraining

def closeFinish (s : State) : State :=
  match s.line with
  | .closing tag => if anyDraining s then s else respond tag 0x12 .ok false .nothing (setLine .setup s)
  | _ => s

/-- The state in which a context leaves DRAINING (R168). -/
def drainedContext (present mark : Bool) : PortContext :=
  if !present then .vacant else if mark then .attached else .finished

/-- A drain completes (R168). -/
def drainComplete (p : Port) (s : State) : State :=
  match s.ctx p with
  | .draining reason mark =>
    let s := voidStep p (fun _ => none) reason s
    closeFinish (s.setCtx p (drainedContext (s.bench p).present mark))
  | _ => s

/-- KEY is sent for a prepared step (R161). -/
def offerStep (p : Port) (ss : Session) (envelope : TerminalEnvelope) (kcv : Kcv) (s : State) : State :=
  match s.step p with
  | none => s
  | some ps =>
    pushBench p (.key ps.facts.index envelope)
      ((s.setStep p (some { ps with expected := some kcv })).setCtx p (.offered ss (sessionTimer s)))

/-- The bench port of a requester (R133). -/
def requesterPort (r : Fin 10) : Option Port := if h : r.val < 8 then some ⟨r.val, h⟩ else none

/-- A PREPARE job completes for its context (R137, R161, R168). -/
def prepareHandled (j : Job) (s : State) : State :=
  match requesterPort j.requester with
  | none => s
  | some p =>
    if j.orphaned then drainComplete p s
    else match s.ctx p, prepareResult j.inputs with
      | .preparing ss, some (envelope, kcv) => if j.zeroised then s else offerStep p ss envelope kcv s
      | _, _ => s

def JobInputs.isPrepareShared : JobInputs → Bool
  | .prepareShared .. => true
  | _ => false

def JobInputs.isPrepareDerived : JobInputs → Bool
  | .prepareDerived .. => true
  | _ => false

/-! ### CONFIRM (R163, R164) -/

/-- The state of the entry of a serial. -/
def entryStateIs (st : EntryState) (serial : Serial) (s : State) : Bool :=
  match entryOf s.registry serial with
  | none => false
  | some e => e.state == st

/-- A matching CONFIRM (R163). -/
def confirmMatch (p : Port) (ss : Session) (ps : PendingStep) (kcv : Kcv) (s : State) : State :=
  let s := s.setRegistry (modifyEntry ss.serial (Entry.deliver ps.facts.index ss.stepCount) s.registry)
  let s := endStep p ps (.delivered ps.facts kcv) s
  if entryStateIs .complete ss.serial s then
    pushBench p (.verdict .ok true false) ((s.setCtx p .finished).setFlag .terminalDone)
  else pushBench p (.verdict .ok false false) (s.setCtx p (.identified ss (sessionTimer s)))

/-- The retry limit of the committed profile (R88). Without a profile there is no session (log entry 26). -/
def retryLimit (s : State) : Nat :=
  match s.profile with
  | none => 1
  | some p => p.params.retry

/-- A CONFIRM whose KCV differs (R164). -/
def confirmMismatch (p : Port) (ss : Session) (ps : PendingStep) (s : State) : State :=
  let s := endStep p ps (.voided ps.facts ps.expected .kcvMismatch) s
  let s := s.setRegistry (modifyEntry ss.serial (Entry.mismatch (retryLimit s)) s.registry)
  if entryStateIs .rejected ss.serial s then
    pushBench p (.verdict .kcvMismatch false true) ((s.setCtx p .finished).setFlag .terminalFault)
  else pushBench p (.verdict .kcvMismatch false false) (s.setCtx p (.identified ss (sessionTimer s)))

/-- CONFIRM (R151, R163). -/
def confirm (p : Port) (index : Nat) (kcv : Kcv) (s : State) : State :=
  match s.ctx p, s.step p with
  | .offered ss _, some ps =>
    if ps.facts.index ≠ index then verdict p .sequence s
    else if ps.expected = some kcv then confirmMatch p ss ps kcv s
    else confirmMismatch p ss ps s
  | c, _ => verdict p c.refusal s

/-! ### BYE (R165) -/

/-- BYE (R151, R165). -/
def bye (p : Port) (s : State) : State :=
  match s.ctx p with
  | .identified .. => verdict p .closed (endSession .abandoned p s)
  | .preparing _ => verdict p .closed (endSession .abandoned p s)
  | .offered .. => verdict p .closed (endSession .abandoned p s)
  | c => verdict p c.refusal s

def messageHello (p : Port) (serial : Serial) (model : ModelCode) : State → State := benchMessage p (hello p serial model)
def messageFetch (p : Port) (index : Nat) : State → State := benchMessage p (fetchStep p index)
def messageConfirm (p : Port) (index : Nat) (kcv : Kcv) : State → State := benchMessage p (confirm p index kcv)
def messageBye (p : Port) : State → State := benchMessage p (bye p)
/-- A message of unknown kind or unreadable body (R150). -/
def messageBenchBad (p : Port) : State → State := benchMessage p (verdict p .sequence)

/-! ### Presence (R152, R153) -/

/-- A terminal-present line becomes asserted (R152). While the part does not run only the level changes (log entry 17). -/
def terminalArrives (p : Port) (s : State) : State :=
  let b := s.bench p
  let s' := s.setBench p { b with present := true }
  if b.present || !s.running then s' else match b.ctx with
    | .vacant => s'.setCtx p .attached
    | _ => s'

/-- The context after its terminal has gone (R153). -/
def contextDetached (p : Port) (s : State) : State :=
  match s.ctx p with
  | .attached => s.setCtx p .vacant
  | .finished => s.setCtx p .vacant
  | .draining reason _ => s.setCtx p (.draining reason true)
  | _ => endSession .detached p s

/-- A terminal-present line becomes deasserted (R153, R199, R201). -/
def terminalLeaves (p : Port) (s : State) : State :=
  let b := s.bench p
  if !b.present then s
  else if !s.running then s.setBench p { b with present := false }
  else contextDetached p (s.setBench p { b with present := false, rx := .idle, tx := [] })

/-- The idle timer of a context runs and has counted its limit (R170). -/
def PortContext.idleDue : PortContext → Bool
  | .identified _ t => t.due
  | .offered _ t => t.due
  | _ => false

/-- The idle timer of a context expires (R171). A timer that does not run, or that a request has restarted since, does not
expire (R169, R171; log entry 2). -/
def sessionIdleExpired (p : Port) (s : State) : State :=
  if (s.ctx p).idleDue then endSession .idleTimeout p s else s

/-! ### Meanings -/

/-- Meaning of HELLO. -/
def execHello (p : Port) (serial : Serial) (model : ModelCode) (s : State) : Host.Outcome State Fault Refusal :=
  .next (messageHello p serial model s)

/-- Meaning of FETCH. -/
def execFetch (p : Port) (index : Nat) (s : State) : Host.Outcome State Fault Refusal := .next (messageFetch p index s)

/-- Meaning of CONFIRM. -/
def execConfirm (p : Port) (index : Nat) (kcv : Kcv) (s : State) : Host.Outcome State Fault Refusal :=
  .next (messageConfirm p index kcv s)

/-- Meaning of BYE. -/
def execBye (p : Port) (s : State) : Host.Outcome State Fault Refusal := .next (messageBye p s)

/-- Meaning of BENCH_BAD_MESSAGE. -/
def execBenchBadMessage (p : Port) (s : State) : Host.Outcome State Fault Refusal := .next (messageBenchBad p s)

/-- Meaning of TERMINAL_PRESENT_ASSERTED. -/
def execTerminalPresentAsserted (p : Port) (s : State) : Host.Outcome State Fault Refusal := .next (terminalArrives p s)

/-- Meaning of TERMINAL_PRESENT_DEASSERTED. -/
def execTerminalPresentDeasserted (p : Port) (s : State) : Host.Outcome State Fault Refusal := .next (terminalLeaves p s)

/-- Meaning of SESSION_IDLE_EXPIRY. -/
def execSessionIdleExpiry (p : Port) (s : State) : Host.Outcome State Fault Refusal :=
  .next (if s.running then sessionIdleExpired p s else s)

/-- Meaning of PREPARE_SHARED_DONE. -/
def execPrepareSharedDone (s : State) : Host.Outcome State Fault Refusal :=
  .next (completeJob JobInputs.isPrepareShared prepareHandled s)

/-- Meaning of PREPARE_DERIVED_DONE. -/
def execPrepareDerivedDone (s : State) : Host.Outcome State Fault Refusal :=
  .next (completeJob JobInputs.isPrepareDerived prepareHandled s)

end Sys2Proof.Machine
end

