-- ==== Sys2Proof/Machine/Ceremony.lean ====
section
/-! DEFINITION. The Ceremony Engine: taking a console message (R26, R32, R200), the end of a logon and its departure (R30,
R59), aborts (R58), opening (R42-R48), components and combination (R49-R51), acceptance and completion (R52-R54), REJECT,
CANCEL, the window, QUERY (R55-R57, R63). -/

namespace Sys2Proof.Machine

/-! ### Taking a console message (R26, R31, R32, R200) -/

/-- The custodian idle limit in force at a start or restart (R31). -/
def custodianIdleLimit (s : State) : Nat :=
  match s.profile with
  | none => 600
  | some p => p.params.custodianIdle

/-- A custodian with the group of the table (R26). The group of a logged-on custodian is always there; log entry 26. -/
def personOf (c : Cust) (s : State) : Person :=
  { cust := c
    group := match s.custodian c with
      | some e => e.group
      | none => .a }

/-- Answers in the transmit queue, the withheld one counted (R200). -/
def Console.answersDue (c : Console) : Nat := (c.tx.filter ConsoleOut.isAnswer).length + (if c.unanswered then 1 else 0)

/-- The idle timer of a link with a logged-on custodian restarts (R32). -/
def restartCustodianIdle (l : ConsoleLink) (s : State) : State :=
  match (s.console l).logon with
  | none => s
  | some g =>
    s.setConsole l { s.console l with logon := some { g with idle := { count := 0, limit := custodianIdleLimit s } } }

/-- A whole message has come on a custodian link (log entry 9). It is taken while the console is present and fewer than 4
answers are due (R200), it restarts the idle timer (R32), and it is answered BUSY while an earlier request is unanswered
(R26; log entry 10). -/
def consoleMessage (l : ConsoleLink) (kind : Byte) (handle : State → State) (s : State) : State :=
  if !s.running then s
  else
    let s := setReceiver (.console l) .idle s
    if !(s.console l).present || 4 ≤ (s.console l).answersDue then s
    else
      let s := restartCustodianIdle l s
      if (s.console l).unanswered then answer l kind .busy .nothing s else handle s

/-- A message that needs a logged-on custodian, who is its sender (R26). -/
def consoleMessageFrom (l : ConsoleLink) (kind : Byte) (handle : Person → State → State) : State → State :=
  consoleMessage l kind fun s =>
    match (s.console l).logon with
    | none => answer l kind .notLoggedOn .nothing s
    | some g => handle (personOf g.who s) s

/-! ### Aborts and departures (R58-R60) -/

/-- The answer withheld for a COMPONENT is sent, if it is still due (R33, R50). -/
def answerWithheld (l : ConsoleLink) (st : Status) (body : AnswerBody) (s : State) : State :=
  if (s.console l).unanswered then
    answer l 0x05 st body (s.setConsole l { s.console l with unanswered := false })
  else s

/-- How an abort answers a COMPONENT that is unanswered (R58). -/
def abortedComponentStatus (reason : AbortReason) (leaver : Option Cust) (u : UnderCheck) : Status :=
  if reason = .zeroised then .zeroised
  else if leaver = some u.who.cust then .notLoggedOn
  else .wrongState

/-- The ceremony aborts (R58). -/
def abortCeremony (reason : AbortReason) (leaver : Option Cust) (w : CeremonyWork) (s : State) : State :=
  let s := match w.params with
    | .assemble slot .. => abandonSlot .ceremony slot s
    | _ => s
  let s := returnReservation .ceremony s
  let s := match w.underCheck with
    | some u => answerWithheld u.link (abortedComponentStatus reason leaver u) .nothing s
    | none => s
  let run := if jobPlace ceremonyRequester s = .running then .settling w.params.kind w.opener else .idle
  finishCeremony w (.aborted reason) run (withdrawJob ceremonyRequester s)

/-- An acceptance from the custodian is held. -/
def CeremonyWork.accepted (w : CeremonyWork) (c : Cust) : Bool := w.acceptA == some c || w.acceptB == some c

/-- A custodian is bound to the ceremony in its present state (R59). -/
def CeremonyWork.isBound (w : CeremonyWork) (c : Cust) : Bool :=
  match w.phase with
  | .gathering => w.accepted c || (w.underCheck.map fun u => u.who.cust) == some c
  | .combining => w.accepted c || w.bound.contains c
  | .verifying => w.accepted c || w.bound.contains c
  | .draining => false

/-- The Ceremony Engine is told that a custodian has left (R59). -/
def custodianLeft (c : Cust) (s : State) : State :=
  match s.ceremony.run with
  | .work w => if w.isBound c then abortCeremony .custodianLeft (some c) w s else s
  | _ => s

/-- A logon ends (R30). -/
def endLogon (l : ConsoleLink) (s : State) : State :=
  match (s.console l).logon with
  | none => s
  | some g => custodianLeft g.who (s.setConsole l { s.console l with logon := none })

/-- The orphaned job of a SETTLING context completes (R60). Its notice carries the kind and the opener, which R60 leaves in the
context, and what the last outcome names; though the kind is ASSEMBLE, it carries no component count, no list of components held
and no bad entries, which the abort has removed from the context (DESIGN CHOICE, unsafe, log entry 14). -/
def settleCeremony (s : State) : State :=
  match s.ceremony.run with
  | .settling kind opener =>
    noticeAll
      { state := .idle, event := .orphanDone, kind := some kind, opener := some opener
        named := match s.ceremony.last with | some o => o.named | none => .nothing
        componentCount := none, held := none, badEntries := none, acceptances := [], kcv := none, result := none }
      (s.setCeremony .idle)
  | _ => s

/-! ### Opening (R42-R48, R57) -/

/-- The length of the window for an OPEN taken now (R57). -/
def windowLength (s : State) : Nat :=
  match s.profile with
  | none => 300
  | some p => p.params.window

/-- The outcome of a kind's parameter check and opening conditions. -/
inductive Opening where
  | refused (st : Status)
  | granted (params : CeremonyParams)
  deriving DecidableEq, Repr

/-- Acceptances held at the OPEN: the opener's, except for ASSEMBLE (R42). -/
def openingAcceptance (opener : Person) (params : CeremonyParams) (g : Group) : Option Cust :=
  if params.kind = .assemble then none else if opener.group = g then some opener.cust else none

/-- The context of an accepted OPEN (R42). -/
def openedWork (opener : Person) (params : CeremonyParams) (window : Nat) : CeremonyWork where
  phase := .gathering
  opener := opener
  params := params
  underCheck := none
  held := []
  bound := []
  badEntries := 0
  combined := none
  acceptA := openingAcceptance opener params .a
  acceptB := openingAcceptance opener params .b
  window := some { count := 0, limit := window }

/-- An OPEN that passed every check (R42). -/
def startCeremony (l : ConsoleLink) (opener : Person) (params : CeremonyParams) (s : State) : State :=
  let w := openedWork opener params (windowLength s)
  let s := match params with
    | .assemble slot .. => reserveSlot .ceremony slot s
    | _ => s
  noticeAll (openNotice w .opened)
    (answer l 0x04 .ok .nothing { s with ceremony := { run := .work w, last := none } })

/-- OPEN: the checks of R42 in order, the kind's own among them. -/
def openCeremony (l : ConsoleLink) (opener : Person) (conditions : Opening) (s : State) : State :=
  if s.ceremony.run ≠ .idle then answer l 0x04 .busy .nothing s
  else if s.line = .zeroised then answer l 0x04 .zeroised .nothing s
  else match conditions with
    | .refused st => answer l 0x04 st .nothing s
    | .granted params =>
      match requestReservation .ceremony s with
      | (false, s1) => answer l 0x04 .journalFull .nothing s1
      | (true, s1) => startCeremony l opener params s1

/-- The line takes an ASSEMBLE or an IMPORT (R43, R66). -/
def LineState.takesKeys : LineState → Bool
  | .setup => true
  | .live => true
  | .paused => true
  | _ => false

/-- ASSEMBLE: the parameter check of R42 and the conditions of R43. -/
def assembleOpening (slot cls length count : Nat) (keySet : Option Nat) (s : State) : Opening :=
  match classOf? cls with
  | none => .refused .wrongState
  | some c =>
    if !((length = 16 || length = 32) && (count = 2 || count = 3) && keySetFits c keySet) then .refused .wrongState
    else if !s.line.takesKeys then .refused .wrongState
    else match reserveCheck slot (some c) s with
      | .refused f => .refused f.toConsole
      | .granted i => .granted (.assemble i c length count keySet)

/-- ERASE (R44). -/
def eraseOpening (slot : Nat) (s : State) : Opening :=
  match slotIx? slot with
  | none => .refused .notFound
  | some i =>
    match (s.slot i).content with
    | .active _ => .granted (.erase i)
    | .exhausted _ => .granted (.erase i)
    | _ => .refused .wrongState

/-- OPEN_LINE (R45). -/
def openLineOpening (s : State) : Opening :=
  if s.line = .setup ∧ s.profile.isSome then .granted .openLine else .refused .wrongState

/-- ENROL (R46). -/
def enrolOpening (number group : Nat) (credential : List Byte) (s : State) : Opening :=
  match cust? number with
  | none => .refused .notFound
  | some c =>
    if (s.custodian c).isSome then .refused .wrongState
    else match groupOf? group with
      | none => .refused .wrongState
      | some g => if credentialValid credential then .granted (.enrol c g (Config.digest credential)) else .refused .denied

/-- The custodians in order of number. -/
def allCustodians : List Cust := [0, 1, 2, 3, 4, 5, 6, 7]

/-- The group holds an ENROLLED entry other than the named one (R47). -/
def groupHasOther (g : Group) (named : Cust) (s : State) : Bool :=
  allCustodians.any fun c =>
    c != named && match s.custodian c with
      | some e => e.group == g && e.lock == .enrolled
      | none => false

/-- REVOKE (R47). -/
def revokeOpening (opener : Person) (number : Nat) (s : State) : Opening :=
  match cust? number with
  | none => .refused .notFound
  | some c =>
    match s.custodian c with
    | none => .refused .notFound
    | some e =>
      if c = opener.cust then .refused .wrongState
      else if groupHasOther e.group c s then .granted (.revoke c)
      else .refused .lastOfGroup

/-- UNLOCK (R48). -/
def unlockOpening (number : Nat) (s : State) : Opening :=
  match cust? number with
  | none => .refused .notFound
  | some c =>
    match s.custodian c with
    | none => .refused .notFound
    | some e => if e.lock = .locked then .granted (.unlock c) else .refused .wrongState

def messageOpenAssemble (l : ConsoleLink) (slot cls length count : Nat) (keySet : Option Nat) : State → State :=
  consoleMessageFrom l 0x04 fun p s => openCeremony l p (assembleOpening slot cls length count keySet s) s
def messageOpenErase (l : ConsoleLink) (slot : Nat) : State → State :=
  consoleMessageFrom l 0x04 fun p s => openCeremony l p (eraseOpening slot s) s
def messageOpenOpenLine (l : ConsoleLink) : State → State :=
  consoleMessageFrom l 0x04 fun p s => openCeremony l p (openLineOpening s) s
def messageOpenEnrol (l : ConsoleLink) (number group : Nat) (credential : List Byte) : State → State :=
  consoleMessageFrom l 0x04 fun p s => openCeremony l p (enrolOpening number group credential s) s
def messageOpenRevoke (l : ConsoleLink) (number : Nat) : State → State :=
  consoleMessageFrom l 0x04 fun p s => openCeremony l p (revokeOpening p number s) s
def messageOpenUnlock (l : ConsoleLink) (number : Nat) : State → State :=
  consoleMessageFrom l 0x04 fun p s => openCeremony l p (unlockOpening number s) s

/-- An OPEN whose ceremony kind is not one of the six fails the check that stands in the place of the kind's own (R42; what
its parameters are read as is log entry 11). -/
def messageOpenUnknown (l : ConsoleLink) : State → State :=
  consoleMessageFrom l 0x04 fun p s => openCeremony l p (.refused .wrongState) s

/-! ### Components and combination (R49-R51) -/

/-- A group has a component among those held. -/
def covers (held : List Component) (g : Group) : Bool := held.any fun c => c.who.group == g

/-- With this sender's component taken, more groups lack a component than components are due (R49). -/
def coverageFails (count : Nat) (held : List Component) (sender : Person) : Bool :=
  let lacking := (if covers held .a || sender.group == .a then 0 else 1)
    + (if covers held .b || sender.group == .b then 0 else 1)
  count - (held.length + 1) < lacking

/-- A bad entry: the COMPONENT has been answered BAD_CHECK, and the third aborts (R49, R50). -/
def badEntry (w : CeremonyWork) (s : State) : State :=
  let w' := { w with underCheck := none, badEntries := w.badEntries + 1 }
  if w'.badEntries < 3 then noticeAll (openNotice w' .failed) (s.setCeremony (.work w'))
  else abortCeremony .tooManyBad none w' (s.setCeremony (.work w'))

/-- A COMPONENT that passed every check: its job is requested, its answer withheld (R49; log entry 31). -/
def takeComponent (l : ConsoleLink) (p : Person) (value : KeyBytes) (check : Kcv) (w : CeremonyWork) (s : State) : State :=
  let w' := { w with underCheck := some { who := p, value := value, check := check, link := l } }
  requestJob ceremonyRequester (.checkComponent value check)
    ((s.setConsole l { s.console l with unanswered := true }).setCeremony (.work w'))

/-- COMPONENT on an open ASSEMBLE in GATHERING (R49). -/
def componentChecked (l : ConsoleLink) (p : Person) (value : KeyBytes) (check : Kcv) (length count : Nat)
    (w : CeremonyWork) (s : State) : State :=
  if w.underCheck.isSome then answer l 0x05 .busy .nothing s
  else if w.held.any fun c => c.who.cust == p.cust then answer l 0x05 .alreadyContributed .nothing s
  else if coverageFails count w.held p then answer l 0x05 .sameGroup .nothing s
  else if value.length ≠ length then badEntry w (answer l 0x05 .badCheck .nothing s)
  else takeComponent l p value check w s

/-- COMPONENT (R49). -/
def giveComponent (l : ConsoleLink) (p : Person) (value : KeyBytes) (check : Kcv) (s : State) : State :=
  match s.ceremony.run with
  | .work w =>
    match w.phase, w.params with
    | .gathering, .assemble _ _ length count _ => componentChecked l p value check length count w s
    | _, _ => answer l 0x05 .wrongState .nothing s
  | _ => answer l 0x05 .wrongState .nothing s

def messageComponent (l : ConsoleLink) (value : KeyBytes) (check : Kcv) : State → State :=
  consoleMessageFrom l 0x05 fun p s => giveComponent l p value check s

/-- A custodian is logged on at either link. -/
def loggedOn (c : Cust) (s : State) : Bool :=
  allConsoles.any fun l => ((s.console l).logon.map Logon.who) == some c

/-- A component passes its check (R50). -/
def componentPassed (u : UnderCheck) (count : Nat) (w : CeremonyWork) (s : State) : State :=
  let held := w.held ++ [{ who := u.who, value := u.value }]
  let s := answerWithheld u.link .ok (.component held.length (count - held.length)) s
  if held.length < count then
    let w' := { w with underCheck := none, held := held }
    noticeAll (openNotice w' .passed) (s.setCeremony (.work w'))
  else
    let w' := { w with
      phase := .combining
      underCheck := none
      held := held
      bound := (held.map fun c => c.who.cust).filter fun c => loggedOn c s }
    noticeAll (openNotice w' .lastPassed)
      (joinPending ceremonyRequester (.combine (held.map Component.value)) (s.setCeremony (.work w')))

/-- CHECK_COMPONENT completes: MATCH when the KCV of the component equals the value entered (R50, R141). -/
def checkComponentHandled (j : Job) (s : State) : State :=
  if j.orphaned then settleCeremony s
  else match s.ceremony.run with
    | .work w =>
      match w.underCheck, w.params, j.inputs with
      | some u, .assemble _ _ _ count _, .checkComponent value check =>
        if j.zeroised then s
        else if Config.kcv value = check then componentPassed u count w s
        else badEntry w (answerWithheld u.link .badCheck .nothing s)
      | _, _, _ => s
    | _ => s

/-- COMBINE completes (R51, R142). -/
def combineHandled (j : Job) (s : State) : State :=
  if j.orphaned then settleCeremony s
  else match s.ceremony.run with
    | .work w =>
      match w.phase, j.inputs with
      | .combining, .combine components =>
        if j.zeroised then s
        else
          let key := combineKeys components
          let w' := { w with phase := .verifying, held := [], combined := some { key := key, kcv := Config.kcv key } }
          noticeAll (openNotice w' .combined) (s.setCeremony (.work w'))
      | _, _ => s
    | _ => s

def JobInputs.isCheckComponent : JobInputs → Bool
  | .checkComponent .. => true
  | _ => false

def JobInputs.isCombine : JobInputs → Bool
  | .combine _ => true
  | _ => false

/-! ### Acceptance and completion (R52-R54) -/

/-- Acceptances are taken in VERIFYING, and in GATHERING of a kind other than ASSEMBLE (R52, R55). -/
def CeremonyWork.takesAcceptance (w : CeremonyWork) : Bool :=
  match w.phase with
  | .verifying => true
  | .gathering => w.params.kind != .assemble
  | _ => false

/-- The acceptance held for a group. -/
def CeremonyWork.acceptanceOf (w : CeremonyWork) : Group → Option Cust
  | .a => w.acceptA
  | .b => w.acceptB

/-- The two checks of a REVOKE at its ACCEPT (R52). -/
def revokeAcceptRefusal (p : Person) (params : CeremonyParams) (s : State) : Option Status :=
  match params with
  | .revoke who =>
    if p.cust = who then some .wrongState
    else if groupHasOther (personOf who s).group who s then none
    else some .lastOfGroup
  | _ => none

/-- The first check of an ACCEPT that fails (R52). -/
def acceptRefusal (p : Person) (w : CeremonyWork) (s : State) : Option Status :=
  if !w.takesAcceptance then some .wrongState
  else if w.accepted p.cust then some .alreadyContributed
  else if (w.acceptanceOf p.group).isSome then some .sameGroup
  else revokeAcceptRefusal p w.params s

/-- An acceptance joins those held. -/
def CeremonyWork.withAcceptance (p : Person) (w : CeremonyWork) : CeremonyWork :=
  match p.group with
  | .a => { w with acceptA := some p.cust }
  | .b => { w with acceptB := some p.cust }

/-- Erase approval: the erasure at once, or the drain (R16, R54). -/
def approveErase (i : SlotIx) (w : CeremonyWork) (s : State) : State :=
  let x := s.slot i
  if x.inUse = 0 then completeErasure i (s.setCeremony (.work w))
  else
    let w' := { w with phase := .draining, window := none }
    let s := match x.content.key? with
      | some k => s.setSlot i { x with content := .erasing k }
      | none => s
    noticeAll (openNotice w' .drainBegun) (s.setCeremony (.work w'))

/-- The install of a completed ASSEMBLE (R13, R53). -/
def installAssembled (slot : SlotIx) (cls : KeyClass) (length : Nat) (keySet : Option Nat) (pair : Pair)
    (w : CeremonyWork) (s : State) : State :=
  match newKeyUse cls keySet, w.combined with
  | some use, some c =>
    installKey .ceremony .ceremony slot { use := use, length := length, material := c.key, kcv := c.kcv } (.ceremony pair) s
  | _, _ => s

/-- The logons of a custodian end (R35). -/
def endLogonsOf (c : Cust) (s : State) : State :=
  allConsoles.foldl (fun s l => if ((s.console l).logon.map Logon.who) = some c then endLogon l s else s) s

/-- The CUSTODIAN_CHANGED record and the table change of R35. -/
def changeCustodian (action : CustodianAction) (who : Cust) (pair : Pair) (entry : Option CustEntry) (s : State) : State :=
  (writeRecord .ceremony (.custodianChanged action who pair) s).setCustodian who entry

/-- The ceremony completes with acceptances of both groups (R53). -/
def completeCeremony (w : CeremonyWork) (pair : Pair) (s : State) : State :=
  match w.params with
  | .assemble slot cls length _ keySet =>
    finishCeremony w .completed .idle (installAssembled slot cls length keySet pair w s)
  | .erase slot => approveErase slot w s
  | .openLine =>
    let s := setLine .live (writeRecord .ceremony (.lineOpened pair) s)
    finishCeremony w .completed .idle { s with stream := none }
  | .enrol who group digest =>
    finishCeremony w .completed .idle
      (changeCustodian .enrol who pair (some { group := group, digest := digest, lock := .enrolled, fails := 0 }) s)
  | .revoke who => endLogonsOf who (finishCeremony w .completed .idle (changeCustodian .revoke who pair none s))
  | .unlock who =>
    finishCeremony w .completed .idle
      (changeCustodian .unlock who pair ((s.custodian who).map fun e => { e with lock := .enrolled, fails := 0 }) s)

/-- ACCEPT (R52). -/
def acceptCeremony (l : ConsoleLink) (p : Person) (s : State) : State :=
  match s.ceremony.run with
  | .work w =>
    match acceptRefusal p w s with
    | some st => answer l 0x06 st .nothing s
    | none =>
      let w' := w.withAcceptance p
      let s := answer l 0x06 .ok .nothing s
      match w'.approvers with
      | some pair => completeCeremony w' pair s
      | none => noticeAll (openNotice w' .acceptanceHeld) (s.setCeremony (.work w'))
  | _ => answer l 0x06 .wrongState .nothing s

/-- REJECT (R55). -/
def rejectCeremony (l : ConsoleLink) (s : State) : State :=
  match s.ceremony.run with
  | .work w =>
    if w.takesAcceptance then abortCeremony .rejected none w (answer l 0x07 .ok .nothing s)
    else answer l 0x07 .wrongState .nothing s
  | _ => answer l 0x07 .wrongState .nothing s

/-- CANCEL (R56). -/
def cancelCeremony (l : ConsoleLink) (p : Person) (s : State) : State :=
  match s.ceremony.run with
  | .work w =>
    if w.opener.cust = p.cust ∧ w.phase ≠ .draining then abortCeremony .cancelled none w (answer l 0x08 .ok .nothing s)
    else answer l 0x08 .wrongState .nothing s
  | _ => answer l 0x08 .wrongState .nothing s

def messageAccept (l : ConsoleLink) : State → State := consoleMessageFrom l 0x06 fun p s => acceptCeremony l p s
def messageReject (l : ConsoleLink) : State → State := consoleMessageFrom l 0x07 fun _ s => rejectCeremony l s
def messageCancel (l : ConsoleLink) : State → State := consoleMessageFrom l 0x08 fun p s => cancelCeremony l p s

/-- The window runs and has counted its limit (R57). -/
def CeremonyWork.windowDue (w : CeremonyWork) : Bool :=
  match w.window with
  | some t => t.due
  | none => false

/-- The window timer expires (R57). A window that does not run, or has not counted its limit, does not expire (log entry
2). -/
def windowExpired (s : State) : State :=
  match s.ceremony.run with
  | .work w => if w.windowDue then abortCeremony .timeout none w s else s
  | _ => s

/-! ### QUERY (R36, R63) -/

def CeremonyParams.shown : CeremonyParams → ShownParams
  | .assemble slot cls length count keySet => .assemble slot cls length count keySet
  | .erase slot => .erase slot
  | .openLine => .openLine
  | .enrol who group _ => .enrol who group
  | .revoke who => .revoke who
  | .unlock who => .unlock who

def CustEntry.shown (e : CustEntry) : ShownEntry := { group := e.group, lock := e.lock, fails := e.fails }

/-- The custodian logged on at a link, with the group (R36). -/
def presentAt (l : ConsoleLink) (s : State) : Option Person := (s.console l).logon.map fun g => personOf g.who s

/-- The custodian part, with the ceremony part of an IDLE context (R36, R63). -/
def idleReport (s : State) : QueryReport where
  link1 := presentAt 0 s
  link2 := presentAt 1 s
  table := s.store.custodians.data.map (Option.map CustEntry.shown)
  state := s.ceremony.run.state
  checkPending := none
  kind := none
  opener := none
  params := none
  componentCount := none
  held := none
  underCheck := none
  badEntries := none
  acceptances := []
  kcv := none
  windowLeft := none
  last := s.ceremony.last

/-- A QUERY answer (R36, R63). -/
def queryReport (s : State) : QueryReport :=
  match s.ceremony.run with
  | .idle => idleReport s
  | .settling kind opener => { idleReport s with kind := some kind, opener := some opener }
  | .work w =>
    { idleReport s with
      checkPending := if w.phase = .gathering ∧ w.params.kind = .assemble then some w.underCheck.isSome else none
      kind := some w.params.kind
      opener := some w.opener
      params := some w.params.shown
      componentCount := w.params.componentCount?
      held := w.heldPersons
      underCheck := w.underCheck.map fun u => u.who.cust
      badEntries := w.shownBad
      acceptances := w.acceptances
      kcv := if w.phase = .verifying then w.combined.map CombinedKey.kcv else none
      windowLeft := w.window.map fun t => t.limit - t.count }

def messageQuery (l : ConsoleLink) : State → State :=
  consoleMessage l 0x09 fun s => answer l 0x09 .ok (.query (queryReport s)) s

/-! ### Meanings -/

/-- Meaning of OPEN_ASSEMBLE. -/
def execOpenAssemble (l : ConsoleLink) (slot cls length count : Nat) (keySet : Option Nat) (s : State) :
    Host.Outcome State Fault Refusal :=
  .next (messageOpenAssemble l slot cls length count keySet s)

/-- Meaning of OPEN_ERASE. -/
def execOpenErase (l : ConsoleLink) (slot : Nat) (s : State) : Host.Outcome State Fault Refusal :=
  .next (messageOpenErase l slot s)

/-- Meaning of OPEN_OPEN_LINE. -/
def execOpenOpenLine (l : ConsoleLink) (s : State) : Host.Outcome State Fault Refusal := .next (messageOpenOpenLine l s)

/-- Meaning of OPEN_ENROL. -/
def execOpenEnrol (l : ConsoleLink) (number group : Nat) (credential : List Byte) (s : State) :
    Host.Outcome State Fault Refusal :=
  .next (messageOpenEnrol l number group credential s)

/-- Meaning of OPEN_REVOKE. -/
def execOpenRevoke (l : ConsoleLink) (number : Nat) (s : State) : Host.Outcome State Fault Refusal :=
  .next (messageOpenRevoke l number s)

/-- Meaning of OPEN_UNLOCK. -/
def execOpenUnlock (l : ConsoleLink) (number : Nat) (s : State) : Host.Outcome State Fault Refusal :=
  .next (messageOpenUnlock l number s)

/-- Meaning of COMPONENT. -/
def execComponent (l : ConsoleLink) (value : List Byte) (check : Kcv) (s : State) : Host.Outcome State Fault Refusal :=
  .next (messageComponent l value check s)

/-- Meaning of ACCEPT. -/
def execAccept (l : ConsoleLink) (s : State) : Host.Outcome State Fault Refusal := .next (messageAccept l s)

/-- Meaning of REJECT. -/
def execReject (l : ConsoleLink) (s : State) : Host.Outcome State Fault Refusal := .next (messageReject l s)

/-- Meaning of CANCEL. -/
def execCancel (l : ConsoleLink) (s : State) : Host.Outcome State Fault Refusal := .next (messageCancel l s)

/-- Meaning of QUERY. -/
def execQuery (l : ConsoleLink) (s : State) : Host.Outcome State Fault Refusal := .next (messageQuery l s)

/-- Meaning of WINDOW_EXPIRY. -/
def execWindowExpiry (s : State) : Host.Outcome State Fault Refusal := .next (if s.running then windowExpired s else s)

/-- Meaning of CHECK_COMPONENT_DONE. -/
def execCheckComponentDone (s : State) : Host.Outcome State Fault Refusal :=
  .next (completeJob JobInputs.isCheckComponent checkComponentHandled s)

/-- Meaning of COMBINE_DONE. -/
def execCombineDone (s : State) : Host.Outcome State Fault Refusal :=
  .next (completeJob JobInputs.isCombine combineHandled s)

end Sys2Proof.Machine
end

