-- ==== Sys2Proof/Machine/Custodian.lean ====
section
/-! DEFINITION. The Custodian Unit: LOGON, LOGOFF and ENROL_FIRST (R27-R29, R34), the idle expiry (R32), console presence
(R33), and a console message that does not read (R200). -/

namespace Sys2Proof.Machine

/-- The other custodian link. -/
def otherConsole (l : ConsoleLink) : ConsoleLink := if l = 0 then 1 else 0

/-- A wrong credential: the fail count rises, and at 5 the entry locks (R28). -/
def CustEntry.failed (e : CustEntry) : CustEntry :=
  { e with fails := e.fails + 1, lock := if 5 ≤ e.fails + 1 then .locked else e.lock }

/-- The credential is the entry's (R25, R27). -/
def CustEntry.matches (e : CustEntry) (credential : List Byte) : Bool :=
  credentialValid credential && Config.digest credential == e.digest

/-- A successful LOGON (R27). -/
def startLogon (l : ConsoleLink) (c : Cust) (e : CustEntry) (s : State) : State :=
  let s := s.setCustodian c (some { e with fails := 0 })
  let s := s.setConsole l
    { s.console l with logon := some { who := c, idle := { count := 0, limit := custodianIdleLimit s } } }
  answer l 0x01 .ok (.person { cust := c, group := e.group }) s

/-- LOGON (R27, R28). -/
def logon (l : ConsoleLink) (number : Nat) (credential : List Byte) (s : State) : State :=
  if (s.console l).logon.isSome then answer l 0x01 .busy .nothing s
  else match cust? number with
    | none => answer l 0x01 .notFound .nothing s
    | some c =>
      match s.custodian c with
      | none => answer l 0x01 .notFound .nothing s
      | some e =>
        if ((s.console (otherConsole l)).logon.map Logon.who) = some c then answer l 0x01 .alreadyPresent .nothing s
        else if e.lock = .locked then answer l 0x01 .locked .nothing s
        else if e.matches credential then startLogon l c e s
        else answer l 0x01 .denied .nothing (s.setCustodian c (some e.failed))

/-- LOGOFF of a logged-on custodian (R29). -/
def logoff (l : ConsoleLink) (s : State) : State := endLogon l (answer l 0x02 .ok .nothing s)

/-- A group has a member (R24). -/
def groupHasMember (g : Group) (s : State) : Bool :=
  allCustodians.any fun c => match s.custodian c with
    | some e => e.group == g
    | none => false

/-- The number is the one an open ENROL ceremony names (R34). -/
def enrolNames (c : Cust) (s : State) : Bool :=
  match s.ceremony.run with
  | .work w => match w.params with
    | .enrol who _ _ => who == c
    | _ => false
  | _ => false

/-- The outcome of the checks of ENROL_FIRST (R34). -/
inductive FirstEnrolment where
  | refused (st : Status)
  | taken (who : Cust) (group : Group)
  deriving DecidableEq, Repr

/-- The checks of ENROL_FIRST in order (R34). -/
def checkEnrolFirst (number group : Nat) (credential : List Byte) (s : State) : FirstEnrolment :=
  match groupOf? group with
  | none => .refused .wrongState
  | some g =>
    if groupHasMember .a s && groupHasMember .b s then .refused .wrongState
    else if groupHasMember g s then .refused .wrongState
    else match cust? number with
      | none => .refused .notFound
      | some c =>
        if (s.custodian c).isSome then .refused .wrongState
        else if enrolNames c s then .refused .busy
        else if credentialValid credential then .taken c g
        else .refused .denied

/-- ENROL_FIRST (R34). -/
def enrolFirst (l : ConsoleLink) (number group : Nat) (credential : List Byte) (s : State) : State :=
  match checkEnrolFirst number group credential s with
  | .refused st => answer l 0x03 st .nothing s
  | .taken c g =>
    answer l 0x03 .ok .nothing
      (s.setCustodian c (some { group := g, digest := Config.digest credential, lock := .enrolled, fails := 0 }))

def messageLogon (l : ConsoleLink) (number : Nat) (credential : List Byte) : State → State :=
  consoleMessage l 0x01 (logon l number credential)
def messageLogoff (l : ConsoleLink) : State → State := consoleMessageFrom l 0x02 fun _ s => logoff l s
def messageEnrolFirst (l : ConsoleLink) (number group : Nat) (credential : List Byte) : State → State :=
  consoleMessage l 0x03 (enrolFirst l number group credential)

/-- A message of unknown kind or unreadable body (R200). -/
def messageConsoleBad (l : ConsoleLink) (kind : Byte) : State → State :=
  consoleMessage l kind (answer l kind .wrongState .nothing)

/-- A console-present line becomes asserted (R33, R202). -/
def consoleArrives (l : ConsoleLink) (s : State) : State := s.setConsole l { s.console l with present := true }

/-- A console-present line becomes deasserted: the partial frame, the answers due and the queue go, then the logon ends
(R33, R199, R201). While the part does not run only the level changes (log entry 17). -/
def consoleLeaves (l : ConsoleLink) (s : State) : State :=
  let c := s.console l
  if !c.present then s
  else if !s.running then s.setConsole l { c with present := false }
  else endLogon l (s.setConsole l { c with present := false, unanswered := false, rx := .idle, tx := [] })

/-- The idle timer of a logged-on custodian has counted its limit (R32). -/
def Console.idleDue (c : Console) : Bool :=
  match c.logon with
  | some g => g.idle.due
  | none => false

/-- The idle timer of a link expires (R32). A link with no logged-on custodian has no such timer, and one that a message has
restarted since does not expire (log entry 2). -/
def custodianIdleExpired (l : ConsoleLink) (s : State) : State := if (s.console l).idleDue then endLogon l s else s

/-! ### Meanings -/

/-- Meaning of LOGON. -/
def execLogon (l : ConsoleLink) (number : Nat) (credential : List Byte) (s : State) : Host.Outcome State Fault Refusal :=
  .next (messageLogon l number credential s)

/-- Meaning of LOGOFF. -/
def execLogoff (l : ConsoleLink) (s : State) : Host.Outcome State Fault Refusal := .next (messageLogoff l s)

/-- Meaning of ENROL_FIRST. -/
def execEnrolFirst (l : ConsoleLink) (number group : Nat) (credential : List Byte) (s : State) :
    Host.Outcome State Fault Refusal :=
  .next (messageEnrolFirst l number group credential s)

/-- Meaning of CONSOLE_BAD_MESSAGE. -/
def execConsoleBadMessage (l : ConsoleLink) (kind : Byte) (s : State) : Host.Outcome State Fault Refusal :=
  .next (messageConsoleBad l kind s)

/-- Meaning of CONSOLE_PRESENT_ASSERTED. -/
def execConsolePresentAsserted (l : ConsoleLink) (s : State) : Host.Outcome State Fault Refusal :=
  .next (consoleArrives l s)

/-- Meaning of CONSOLE_PRESENT_DEASSERTED. -/
def execConsolePresentDeasserted (l : ConsoleLink) (s : State) : Host.Outcome State Fault Refusal :=
  .next (consoleLeaves l s)

/-- Meaning of CUSTODIAN_IDLE_EXPIRY. -/
def execCustodianIdleExpiry (l : ConsoleLink) (s : State) : Host.Outcome State Fault Refusal :=
  .next (if s.running then custodianIdleExpired l s else s)

end Sys2Proof.Machine
end

