-- ==== Sys2Proof/Machine/Importing.lean ====
section
/-! DEFINITION. The Import Unit: the IMPORT request (R66, R67), the completion of its UNWRAP job (R70-R72), and zeroise
(R74). -/

namespace Sys2Proof.Machine

/-- The body of an IMPORT: target slot, transport slot, bank envelope (R210, R212). -/
structure ImportBody where
  target : Nat
  transport : Nat
  envelope : BankEnvelope
  deriving DecidableEq, Repr

def readImportBody (b : List Byte) : Option ImportBody :=
  match b with
  | t :: u :: rest => (readBankEnvelope rest).map fun e => { target := t.toNat, transport := u.toNat, envelope := e }
  | _ => none

/-- The check of the envelope at arrival: format version 1, wrapped key of 24 or 40 bytes (R66). -/
def BankEnvelope.acceptable (e : BankEnvelope) : Bool := e.version == 1 && (e.wrapped.length == 24 || e.wrapped.length == 40)

/-- The transport key an IMPORT may use, or the refusal. -/
inductive TransportResult where
  | refused (st : Status)
  | usable (i : SlotIx) (key : HeldKey)
  deriving DecidableEq, Repr

/-- The transport checks (R15). -/
def transportCheck (n : Nat) (s : State) : TransportResult :=
  match slotIx? n with
  | none => .refused .range
  | some i =>
    if (regionOf i s).isNone then .refused .notPermitted
    else match (s.slot i).content with
      | .active k => if k.use = .transport then .usable i k else .refused .wrongClass
      | _ => .refused .slotUnavailable

/-- An IMPORT that passed every check (R67). -/
def startImport (tag : Byte) (target transport : SlotIx) (key : HeldKey) (e : BankEnvelope) (s : State) : State :=
  let work : ImportWork :=
    { tag := tag, target := target, transport := transport, transportGen := (s.slot transport).generation
      zeroised := false }
  let s := reserveSlot .importUnit target (raiseInUse transport s)
  requestJob importRequester (.unwrap key.material e) { s with importWork := some work }

/-- The slot and journal checks of an IMPORT (R66). -/
def importChecked (tag : Byte) (b : ImportBody) (s : State) : State :=
  match transportCheck b.transport s with
  | .refused st => refuse tag 0x20 st s
  | .usable transport key =>
    match reserveCheck b.target none s with
    | .refused f => refuse tag 0x20 f.toControl s
    | .granted target =>
      match requestReservation .importUnit s with
      | (false, s1) => refuse tag 0x20 .journalFull s1
      | (true, s1) => startImport tag target transport key b.envelope s1

/-- IMPORT (R66). -/
def importKey (tag : Byte) (body : List Byte) (s : State) : State :=
  if s.importWork.isSome then refuse tag 0x20 .busy s
  else if !s.line.takesKeys then refuse tag 0x20 .wrongState s
  else match readImportBody body with
    | none => refuse tag 0x20 .range s
    | some b => if b.envelope.acceptable then importChecked tag b s else refuse tag 0x20 .range s

/-- The key of an authenticated result, when it has one of a usable class that the target's region takes (R13, R68, R70). -/
def usableKey (target : SlotIx) (key : Option KeyBytes) (kcv : Kcv) (cls : Option KeyClass) (length : Nat)
    (keySet : Option Nat) (s : State) : Option HeldKey :=
  match key, cls, regionOf target s with
  | some k, some c, some r =>
    if r.admits c then
      (newKeyUse c keySet).map fun use => { use := use, length := length, material := k, kcv := kcv }
    else none
  | _, _, _ => none

/-- What the completion of an import does with the target. -/
inductive ImportEnd where
  | failed (st : Status)
  | installed (key : HeldKey)
  deriving DecidableEq, Repr

/-- The outcome of an import, in the order of R71. -/
def importOutcome (w : ImportWork) (inputs : JobInputs) (s : State) : ImportEnd :=
  if w.zeroised then .failed .zeroised
  else match inputs with
    | .unwrap transport envelope =>
      match unwrapEnvelope transport envelope with
      | .failed => .failed .authFailed
      | .opened key kcv cls length keySet =>
        match usableKey w.target key kcv cls length keySet s with
        | none => .failed .wrongClass
        | some k => .installed k
    | _ => .failed .zeroised

/-- The import ends: its claim on the transport slot is released and its context becomes IDLE (R15, R70, R71). -/
def endImport (w : ImportWork) (s : State) : State := { (lowerInUse w.transport s) with importWork := none }

/-- UNWRAP completes (R70-R72). -/
def unwrapHandled (j : Job) (s : State) : State :=
  match s.importWork with
  | none => s
  | some w =>
    match importOutcome w j.inputs s with
    | .failed st =>
      refuse w.tag 0x20 st (endImport w (returnReservation .importUnit (abandonSlot .importUnit w.target s)))
    | .installed key =>
      let s := installKey .importUnit .importUnit w.target key (.imported w.transport w.transportGen) s
      respond w.tag 0x20 .ok false
        (.imported w.target (s.slot w.target).generation key.use.cls key.length key.kcv) (endImport w s)

def JobInputs.isUnwrap : JobInputs → Bool
  | .unwrap .. => true
  | _ => false

/-- Zeroise reaches the Import Unit (R74). -/
def zeroiseImport (s : State) : State :=
  { s with importWork := s.importWork.map fun w => { w with zeroised := true } }

def requestImport (tag : Byte) (body : List Byte) : State → State :=
  acceptRequest tag 0x20 body.length (importKey tag body)

/-- Meaning of IMPORT. -/
def execImport (tag : Byte) (body : List Byte) (s : State) : Host.Outcome State Fault Refusal :=
  .next (requestImport tag body s)

/-- Meaning of UNWRAP_DONE. -/
def execUnwrapDone (s : State) : Host.Outcome State Fault Refusal := .next (completeJob JobInputs.isUnwrap unwrapHandled s)

end Sys2Proof.Machine
end

