-- ==== Sys2Proof/Machine/Line.lean ====
section
/-! DEFINITION. The Line Supervisor: pause, resume and close (R98-R100), zeroise (R102-R105, R37), and reset with its four
causes, power, the reset pin and the battery (R106-R108). -/

namespace Sys2Proof.Machine

/-! ### Pause, resume, close (R98-R100) -/

/-- LINE_PAUSE (R98). -/
def linePause (tag : Byte) (s : State) : State :=
  if s.line = .live then respond tag 0x10 .ok false .nothing (setLine .paused s) else refuse tag 0x10 .wrongState s

/-- LINE_RESUME (R99). -/
def lineResume (tag : Byte) (s : State) : State :=
  if s.line = .paused then respond tag 0x11 .ok false .nothing (setLine .live s) else refuse tag 0x11 .wrongState s

/-- The close begins (R100). -/
def beginClose (tag : Byte) (s : State) : State := closeFinish (endAllSessions .lineClosed (setLine (.closing tag) s))

/-- LINE_CLOSE (R100). -/
def lineClose (tag : Byte) (s : State) : State :=
  match s.line with
  | .setup => respond tag 0x12 .ok false .nothing s
  | .live => beginClose tag s
  | .paused => beginClose tag s
  | .closing _ => refuse tag 0x12 .busy s
  | .zeroised => refuse tag 0x12 .zeroised s

/-! ### Zeroise (R102-R104) -/

/-- The withheld close is answered ZEROISED (R103). -/
def zeroiseClose (old : LineState) (s : State) : State :=
  match old with
  | .closing tag => refuse tag 0x12 .zeroised s
  | _ => s

/-- An open ceremony aborts (R61). -/
def zeroiseCeremony (s : State) : State :=
  match s.ceremony.run with
  | .work w => abortCeremony .zeroised none w s
  | _ => s

/-- Zeroise reaches the journal (R186). -/
def tamperJournal (cause : TamperCause) (s : State) : State := s.setJournal (s.journal.tamper cause)

/-- Zeroise of the part (R103). -/
def zeroisePart (cause : TamperCause) (s : State) : State :=
  let s := zeroiseSlots (zeroiseClose s.line (setLine .zeroised s))
  let s := zeroiseImport (zeroiseCeremony { s with engine := s.engine.zeroise })
  let s := endAllSessions .zeroised { s with stream := none }
  (tamperJournal cause s).setFlag .tamper

/-- ZEROISE from a console (R37). -/
def consoleZeroise (l : ConsoleLink) (p : Person) (s : State) : State :=
  zeroisePart (.custodian p.cust) (answer l 0x0A .ok .nothing s)

def messageZeroise (l : ConsoleLink) : State → State := consoleMessageFrom l 0x0A fun p s => consoleZeroise l p s

/-! ### Reset (R107) -/

/-- The void reason of a reset (R175). -/
def ResetCause.voidReason : ResetCause → VoidReason
  | .powerOn => .powerLost
  | .storeLost => .powerLost
  | .lineReset => .reset
  | .pin => .reset

/-- A port's pending-step record becomes a VOIDED record (R175). -/
def voidPending (reason : VoidReason) (p : Port) (s : State) : State :=
  match s.step p with
  | none => s
  | some ps => (writeRecord (.bench p) (.voided ps.facts ps.expected reason) s).setStep p none

/-- Every pending-step record is voided, port 0 first (R175). -/
def voidAllPending (reason : VoidReason) (s : State) : State := allPorts.foldl (fun s p => voidPending reason p s) s

/-- The reservations of ceremony and import are dropped; those of the ports have been used (R192). -/
def dropReservations (s : State) : State := s.setJournal { s.journal with reservations := [] }

/-- A custodian link at every reset (R38, R199, R201). -/
def Console.afterReset (c : Console) : Console := { c with logon := none, unanswered := false, rx := .idle, tx := [] }

/-- The state of a context at every reset (R176). -/
def contextAfterReset (profile : Option Profile) (p : Port) (present : Bool) : PortContext :=
  match profile with
  | none => .off
  | some pr => if (pr.ports.get p).attach then (if present then .attached else .vacant) else .off

/-- A bench link at every reset (R176, R199, R201). -/
def resetBench (p : Port) (s : State) : State :=
  let b := s.bench p
  s.setBench p { b with ctx := contextAfterReset s.profile p b.present, rx := .idle, tx := [] }

def resetBenches (s : State) : State := allPorts.foldl (fun s p => resetBench p s) s

/-- The stores after a reset: the steps voided, the reservations dropped, slots and registry settled (R107, R192). -/
def resetStores (cause : ResetCause) (s : State) : State :=
  resetRegistry (resetSlots (dropReservations (voidAllPending cause.voidReason s)))

/-- Every block at its reset state (R107, and R38, R64, R75, R76, R146, R195, R207). -/
def resetBlocks (cause : ResetCause) (s : State) : State :=
  { resetBenches (resetStores cause s) with
    line := .setup
    resetCause := cause
    stream := none
    ceremony := { run := .idle, last := none }
    importWork := none
    engine := Engine.initial
    consoles := s.consoles.map Console.afterReset
    outstanding := []
    responses := []
    flags := Event.lineState.only
    mask := Event.responseReady.only ||| Event.lineState.only ||| Event.tamper.only
    frameErrors := 0
    overruns := 0
    powerResetOwed := false
    storeLost := false }

/-- The tamper latch is clear. -/
def clearLatch (s : State) : State := { s with store := { s.store with tamperLatch := false } }

/-- The zeroise that follows a reset: for the latch, or else for an asserted tamper line (R105, R107). -/
def zeroiseAfterReset (s : State) : State :=
  if s.store.tamperLatch then zeroisePart .tamperLine (clearLatch s)
  else if s.tamperLine then zeroisePart .resetWhileAsserted s
  else s

/-- A reset. A lost store shows its initial values (R108). -/
def resetPart (cause : ResetCause) (s : State) : State :=
  let s := if s.storeLost then { s with store := Store.initial } else s
  zeroiseAfterReset (resetBlocks cause s)

/-! ### Power, pin, battery, tamper line (R102, R105, R106, R108) -/

/-- The cause of the reset that main power brings (R106). -/
def powerCause (s : State) : ResetCause := if s.storeLost then .storeLost else .powerOn

/-- Main power is applied. With the pin asserted the reset waits for its release (R106). The battery is taken to be back
(log entry 20). -/
def powerArrives (s : State) : State :=
  if s.power then s
  else
    let s := { s with power := true, battery := true }
    if s.resetPin then { s with powerResetOwed := true } else resetPart (powerCause s) s

/-- The secure store is lost (R108; log entry 21). -/
def loseStore (s : State) : State := { s with store := Store.initial, storeLost := true }

/-- Main power is removed (R106, R108). -/
def powerLeaves (s : State) : State :=
  if !s.power then s
  else
    let s := { s with power := false, powerResetOwed := false }
    if s.battery then s else loseStore s

/-- The battery becomes absent (R108; log entry 20). -/
def batteryLeaves (s : State) : State :=
  let s := { s with battery := false }
  if s.power then s else loseStore s

/-- The reset pin is released (R106). -/
def pinReleased (s : State) : State :=
  if !s.resetPin then s
  else
    let s := { s with resetPin := false }
    if !s.power then s
    else resetPart (if s.powerResetOwed then powerCause s else .pin) s

/-- The battery supply destroys the key material and sets the latch (R105). A lost store has no latch. -/
def setLatch (s : State) : State :=
  if s.storeLost then s
  else { s with store := { s.store with slots := s.store.slots.map Slot.destroyed, tamperLatch := true } }

/-- The tamper line becomes asserted: a zeroise while the part runs (R102), else the latch (R105). -/
def coverOpens (s : State) : State :=
  if s.tamperLine then s
  else
    let s := { s with tamperLine := true }
    if s.running then zeroisePart .tamperLine s else setLatch s

/-- The tamper line becomes asserted while the part does not run (R105). While it runs this event cannot come (log entry
17). -/
def latchEvent (s : State) : State := if s.running then s else coverOpens s

def requestLinePause (tag : Byte) : State → State := acceptRequest tag 0x10 0 (linePause tag)
def requestLineResume (tag : Byte) : State → State := acceptRequest tag 0x11 0 (lineResume tag)
def requestLineClose (tag : Byte) : State → State := acceptRequest tag 0x12 0 (lineClose tag)
def requestLineReset (tag : Byte) : State → State := acceptRequest tag 0x13 0 (resetPart .lineReset)

/-! ### Meanings -/

/-- Meaning of LINE_PAUSE. -/
def execLinePause (tag : Byte) (s : State) : Host.Outcome State Fault Refusal := .next (requestLinePause tag s)

/-- Meaning of LINE_RESUME. -/
def execLineResume (tag : Byte) (s : State) : Host.Outcome State Fault Refusal := .next (requestLineResume tag s)

/-- Meaning of LINE_CLOSE. -/
def execLineClose (tag : Byte) (s : State) : Host.Outcome State Fault Refusal := .next (requestLineClose tag s)

/-- Meaning of LINE_RESET. -/
def execLineReset (tag : Byte) (s : State) : Host.Outcome State Fault Refusal := .next (requestLineReset tag s)

/-- Meaning of ZEROISE. -/
def execZeroise (l : ConsoleLink) (s : State) : Host.Outcome State Fault Refusal := .next (messageZeroise l s)

/-- Meaning of TAMPER_LINE_ASSERTED. -/
def execTamperLineAsserted (s : State) : Host.Outcome State Fault Refusal := .next (coverOpens s)

/-- Meaning of TAMPER_LINE_DEASSERTED: only the level changes (R102). -/
def execTamperLineDeasserted (s : State) : Host.Outcome State Fault Refusal := .next { s with tamperLine := false }

/-- Meaning of TAMPER_LATCH_SET. -/
def execTamperLatchSet (s : State) : Host.Outcome State Fault Refusal := .next (latchEvent s)

/-- Meaning of POWER_ON. -/
def execPowerOn (s : State) : Host.Outcome State Fault Refusal := .next (powerArrives s)

/-- Meaning of POWER_OFF. -/
def execPowerOff (s : State) : Host.Outcome State Fault Refusal := .next (powerLeaves s)

/-- Meaning of RESET_PIN_ASSERTED: the part takes no arrival until the release (R106). -/
def execResetPinAsserted (s : State) : Host.Outcome State Fault Refusal := .next { s with resetPin := true }

/-- Meaning of RESET_PIN_RELEASED. -/
def execResetPinReleased (s : State) : Host.Outcome State Fault Refusal := .next (pinReleased s)

/-- Meaning of BATTERY_LOSS. -/
def execBatteryLoss (s : State) : Host.Outcome State Fault Refusal := .next (batteryLeaves s)

end Sys2Proof.Machine
end

