-- ==== Sys2Proof/Machine/Profiles.lean ====
section
/-! DEFINITION. The Profile Loader: the stream (R76-R80), the reading and validation of the staged blocks (R82, R83,
R88-R94, R214), and the commit (R81, R84-R86). -/

namespace Sys2Proof.Machine

/-! ### Reading blocks (R214) -/

/-- A number of one byte (R209), and a code of an enumeration, a region's size or a key's length, for which R209 gives no width
(DESIGN CHOICE, unsafe, log entry 39). -/
def readByte (b : List Byte) : Option (Nat × List Byte) := readNat 1 b

/-- LINE_PARAMETERS, any values (R214). -/
structure RawParams where
  policy : Nat
  sessionIdle : Nat
  retry : Nat
  window : Nat
  custodianIdle : Nat
  ageLimit : Nat
  highMark : Nat
  lowMargin : Nat
  deriving DecidableEq, Repr

/-- LINE_PARAMETERS in the order of R214. The registry policy is read as one byte, a width that R209 and R214 do not give
(DESIGN CHOICE, unsafe, log entry 39). -/
def readParams (b : List Byte) : Option (RawParams × List Byte) := do
  let (policy, b) ← readByte b
  let (sessionIdle, b) ← readNat 2 b
  let (retry, b) ← readByte b
  let (window, b) ← readNat 2 b
  let (custodianIdle, b) ← readNat 2 b
  let (ageLimit, b) ← readNat 2 b
  let (highMark, b) ← readNat 2 b
  let (lowMargin, b) ← readNat 2 b
  some ({ policy, sessionIdle, retry, window, custodianIdle, ageLimit, highMark, lowMargin }, b)

/-- A value within a range of R88. -/
def within (low high n : Nat) : Bool := low ≤ n && n ≤ high

/-- The line parameters when every one is in its range (R88). -/
def paramsInRange (r : RawParams) : Option LineParams :=
  match policyOf? r.policy with
  | none => none
  | some policy =>
    if within 5 120 r.sessionIdle && within 1 7 r.retry && within 30 900 r.window && within 60 1800 r.custodianIdle
        && within 60 3600 r.ageLimit && within 16 511 r.highMark then
      some { policy := policy, sessionIdle := r.sessionIdle, retry := r.retry, window := r.window
             custodianIdle := r.custodianIdle, ageLimit := r.ageLimit, highMark := r.highMark, lowMargin := r.lowMargin }
    else none

/-- One port entry (R89). -/
def readPortEntry (b : List Byte) : Option (PortEntry × List Byte) := do
  let (attach, b) ← readFlag b
  let (allowed, b) ← readNat 2 b
  some ({ attach := attach, allowed := BitVec.ofNat 16 allowed }, b)

/-- The port table: 8 port entries (R89). -/
def readPortTable (b : List Byte) : Option (Tab PortEntry 8) :=
  match readWhole (readMany readPortEntry 8) b with
  | none => none
  | some l => if h : l.length = 8 then some { data := l, size := h } else none

/-- One region descriptor; a class set with a member beyond its range does not read (R209). The size is read as one byte, a width
that R209 and R214 do not give (DESIGN CHOICE, unsafe, log entry 39). -/
def readRegion (b : List Byte) : Option (Region × List Byte) := do
  let (number, b) ← readByte b
  let (base, b) ← readByte b
  let (size, b) ← readByte b
  let (classes, b) ← readByte b
  let (ceremony, b) ← readFlag b
  let (import_, b) ← readFlag b
  let (ports, b) ← readByte b
  if classes < 8 then
    some ({ number := number, base := base, size := size, classes := BitVec.ofNat 3 classes
            ceremonyWritable := ceremony, importWritable := import_, ports := BitVec.ofNat 8 ports }, b)
  else none

/-- A descriptor is valid by itself (R90). -/
def Region.valid (r : Region) : Bool :=
  r.number < 8 && [4, 8, 16, 32, 64].contains r.size && r.base % r.size == 0 && r.base + r.size ≤ 64

/-- Two descriptors do not share a number or a slot (R90). -/
def Region.apart (r q : Region) : Bool :=
  r.number != q.number && (r.base + r.size ≤ q.base || q.base + q.size ≤ r.base)

/-- Every descriptor is valid and apart from those after it (R90). -/
def regionsValid : List Region → Bool
  | [] => true
  | r :: rest => r.valid && rest.all r.apart && regionsValid rest

/-- The region table (R90). -/
def readRegionTable (b : List Byte) : Option (List Region) :=
  match readWhole (readList readRegion) b with
  | none => none
  | some l => if within 1 8 l.length && regionsValid l then some l else none

/-- One recipe step, its fields in range (R92). The step type is read as one byte, a width that R209 and R214 do not give
(DESIGN CHOICE, unsafe, log entry 39). -/
def readRecipeStep (b : List Byte) : Option (RecipeStep × List Byte) := do
  let (terminalSlot, b) ← readByte b
  let (type, b) ← readByte b
  let (source, b) ← readByte b
  let (usage, b) ← readByte b
  let kind ← stepTypeOf? type
  let slot ← slotIx? source
  if terminalSlot < 32 && usage < 16 then
    some ({ terminalSlot := terminalSlot, kind := kind, source := slot, usage := usage }, b)
  else none

/-- No terminal slot is named twice (R92). -/
def terminalSlotsDistinct : List RecipeStep → Bool
  | [] => true
  | s :: rest => rest.all (fun t => t.terminalSlot != s.terminalSlot) && terminalSlotsDistinct rest

/-- A recipe, its fields in range (R91). -/
def readRecipeFields (b : List Byte) : Option (Recipe × List Byte) := do
  let (number, b) ← readByte b
  let (version, b) ← readNat 2 b
  let (model, b) ← readNat 4 b
  let (cover, b) ← readByte b
  let (steps, b) ← readList readRecipeStep b
  let n ← recipeIx? number
  let c ← slotIx? cover
  if 1 ≤ version && within 1 12 steps.length && terminalSlotsDistinct steps then
    some ({ number := n, version := version, model := BitVec.ofNat 32 model, cover := c, steps := steps }, b)
  else none

def readRecipe (b : List Byte) : Option Recipe := readWhole readRecipeFields b

/-- A manifest line with the staging position of its block. -/
structure ManifestLine where
  place : Nat
  serial : Serial
  recipe : Option (Fin 16)
  deriving DecidableEq, Repr

/-- One manifest line (R94). -/
def readManifestLine (place : Nat) (b : List Byte) : Option (ManifestLine × List Byte) := do
  let (serial, b) ← readString b
  let (recipe, b) ← readOptNat 1 b
  match recipe with
  | none => if serialValid serial then some ({ place := place, serial := serial, recipe := none }, b) else none
  | some n =>
    match recipeIx? n with
    | none => none
    | some r => if serialValid serial then some ({ place := place, serial := serial, recipe := some r }, b) else none

/-- The lines of a manifest block, 1-64 of them (R94). -/
def readManifest (place : Nat) (b : List Byte) : Option (List ManifestLine) :=
  match readWhole (readList (readManifestLine place)) b with
  | none => none
  | some l => if within 1 64 l.length then some l else none

/-! ### Validation (R82, R83) -/

/-- A staged block with its staging position. -/
structure Placed where
  place : Nat
  block : StagedBlock
  deriving DecidableEq, Repr

def placed (k : Nat) : List StagedBlock → List Placed
  | [] => []
  | b :: rest => { place := k, block := b } :: placed (k + 1) rest

def ofKind (kind : Byte) (l : List Placed) : List Placed := l.filter fun x => x.block.kind == kind

/-- A result of validation, or the code and the failing block's staging position. -/
inductive Checked (α : Type) where
  | failed (st : Status) (place : Option Nat)
  | passed (a : α)
  deriving DecidableEq, Repr

/-- The recipe number a RECIPE block carries: its first byte (R214). A body with none is no second of a pair (log entry
33). -/
def Placed.recipeByte (x : Placed) : Option Byte := x.block.body.head?

/-- Two blocks that may not stand together (R82). -/
def duplicates (x y : Placed) : Bool :=
  x.block.kind == y.block.kind
    && (x.block.kind == 1 || x.block.kind == 2 || x.block.kind == 3
      || (x.block.kind == 4 && x.recipeByte.isSome && x.recipeByte == y.recipeByte))

/-- The first block that repeats an earlier one. -/
def firstDuplicate (earlier : List Placed) : List Placed → Option Nat
  | [] => none
  | x :: rest => if earlier.any (duplicates x) then some x.place else firstDuplicate (x :: earlier) rest

/-- Every recipe reads and no two carry one model code (R82, R91). -/
def readRecipes (earlier : List Recipe) : List Placed → Checked (List Recipe)
  | [] => .passed earlier
  | x :: rest =>
    match readRecipe x.block.body with
    | none => .failed .badRecipe (some x.place)
    | some r =>
      if earlier.any fun q => q.model == r.model then .failed .badRecipe (some x.place)
      else readRecipes (earlier ++ [r]) rest

def hasRecipe (l : List Recipe) (n : Fin 16) : Bool := l.any fun r => r.number == n

/-- The recipe numbers 0-15. -/
def allRecipeNumbers : List (Fin 16) := allBelow 16

/-- Every recipe number of an allowed recipe set is staged (R82, R89). -/
def portsNameRecipes (ports : Tab PortEntry 8) (recipes : List Recipe) : Bool :=
  ports.data.all fun e => allRecipeNumbers.all fun n => !e.allowed.getLsbD n.val || hasRecipe recipes n

/-- The lines of a block join those before them when no serial repeats, the recipe numbers are staged, and the lines
number at most 256 (R82, R94). -/
def joinLines (recipes : List Recipe) (earlier : List ManifestLine) : List ManifestLine → Option (List ManifestLine)
  | [] => some earlier
  | x :: rest =>
    if earlier.any (fun y => y.serial == x.serial) then none
    else if !(match x.recipe with | none => true | some n => hasRecipe recipes n) then none
    else if 256 ≤ earlier.length then none
    else joinLines recipes (earlier ++ [x]) rest

/-- Every manifest block reads and joins (R82, R94). -/
def readManifests (recipes : List Recipe) (earlier : List ManifestLine) : List Placed → Checked (List ManifestLine)
  | [] => .passed earlier
  | x :: rest =>
    match readManifest x.place x.block.body with
    | none => .failed .badManifest (some x.place)
    | some lines =>
      match joinLines recipes earlier lines with
      | none => .failed .badManifest (some x.place)
      | some all => readManifests recipes all rest

/-- The staged profile and manifest, read and valid. -/
structure Staged where
  profile : Profile
  lines : List ManifestLine
  deriving DecidableEq, Repr

/-- The checks from the recipes on, for the table blocks found (R82). -/
def validateFrom (blocks : List Placed) (params ports : Placed) (regions : List Region) : Checked Staged :=
  match readRecipes [] (ofKind 4 blocks) with
  | .failed st p => .failed st p
  | .passed recipes =>
    match readPortTable ports.block.body with
    | none => .failed .badPort (some ports.place)
    | some portTable =>
      if !portsNameRecipes portTable recipes then .failed .badPort (some ports.place)
      else match (readWhole readParams params.block.body).bind paramsInRange with
        | none => .failed .range (some params.place)
        | some lineParams =>
          match readManifests recipes [] (ofKind 5 blocks) with
          | .failed st p => .failed st p
          | .passed lines =>
            .passed
              { profile := { params := lineParams, ports := portTable, regions := regions, recipes := recipes }
                lines := lines }

/-- Validation but for the manifest's trial (R82). -/
def validate (staged : List StagedBlock) : Checked Staged :=
  let blocks := placed 0 staged
  match ofKind 1 blocks, ofKind 2 blocks, ofKind 3 blocks, ofKind 4 blocks with
  | params :: _, ports :: _, table :: _, _ :: _ =>
    match firstDuplicate [] blocks with
    | some k => .failed .duplicateBlock (some k)
    | none =>
      match readRegionTable table.block.body with
      | none => .failed .badRegion (some table.place)
      | some regions => validateFrom blocks params ports regions
  | _, _, _, _ => .failed .missingBlock none

/-! ### The manifest and the registry (R83, R86) -/

/-- First pass: lines whose serial is present pin their entries (R86). -/
def pinLines (lines : List ManifestLine) (r : Registry) : Registry :=
  lines.foldl (fun r x => modifyEntry x.serial (Entry.pinned x.recipe) r) r

/-- What the application of a manifest has done so far. -/
structure Applied where
  registry : Registry
  inserted : Nat
  evicted : Nat
  deriving DecidableEq, Repr

/-- Second pass: lines whose serial is absent are inserted; a full row fails (R83, R86). -/
def insertLines (a : Applied) : List ManifestLine → Checked Applied
  | [] => .passed a
  | x :: rest =>
    match lookupSerial a.registry x.serial with
    | some _ => insertLines a rest
    | none =>
      match insertEntry (newEntry x.serial .manifest x.recipe) a.registry with
      | none => .failed .registryFull (some x.place)
      | some ins =>
        insertLines
          { registry := ins.registry, inserted := a.inserted + 1
            evicted := a.evicted + (if ins.evicted.isSome then 1 else 0) } rest

/-- The manifest tried against, or applied to, a registry: the two passes (R83, R86). -/
def applyManifest (lines : List ManifestLine) (r : Registry) : Checked Applied :=
  insertLines { registry := pinLines lines r, inserted := 0, evicted := 0 } lines

/-! ### Commit (R81, R84, R85) -/

/-- The stream check of staged blocks (R81). -/
def streamCheckOf (staged : List StagedBlock) : Check32 := crc32 (staged.flatMap fun b => beBytes 4 b.check.toNat)

/-- A bench context under a new port entry (R85). -/
def contextUnder (e : PortEntry) (b : Bench) : PortContext :=
  if !e.attach then .off
  else match b.ctx with
    | .off => if b.present then .attached else .vacant
    | c => c

def applyPortTable (ports : Tab PortEntry 8) (s : State) : State :=
  allPorts.foldl (fun s p => s.setCtx p (contextUnder (ports.get p) (s.bench p))) s

/-- A valid staged profile is put in force (R84). -/
def commitProfile (tag : Byte) (check : Check32) (staged : Staged) (a : Applied) (s : State) : State :=
  let s := { s with store := { s.store with profile := some staged.profile, registry := a.registry } }
  let s := applyPortTable staged.profile.ports s
  let s := s.setRegistry (removeAged staged.profile.params.ageLimit s.registry)
  let s := s.setFlagIf (staged.profile.params.highMark ≤ s.journal.occupancy) .journalHigh
  respond tag 0x03 .ok false
    (.committed staged.profile.recipes.length staged.lines.length a.inserted a.evicted check) s

/-- A refusal that may name a staging position (R81). -/
def refuseAt (tag kind : Byte) (st : Status) (place : Option Nat) (s : State) : State :=
  respond tag kind st false (match place with | none => .nothing | some k => .staging k) s

/-- PROFILE_COMMIT (R81). -/
def profileCommit (tag : Byte) (check : Check32) (s : State) : State :=
  match s.stream with
  | none => refuse tag 0x03 .noStream s
  | some stream =>
    let s := { s with stream := none }
    if stream.spoilt then refuse tag 0x03 .streamSpoilt s
    else if check ≠ streamCheckOf stream.staged then refuse tag 0x03 .badCheck s
    else match validate stream.staged with
      | .failed st place => refuseAt tag 0x03 st place s
      | .passed staged =>
        match applyManifest staged.lines s.registry with
        | .failed st place => refuseAt tag 0x03 st place s
        | .passed a => commitProfile tag check staged a s

/-! ### The stream (R77-R80) -/

/-- PROFILE_BEGIN (R77). -/
def profileBegin (tag : Byte) (s : State) : State :=
  if s.line = .setup then
    respond tag 0x01 .ok false .nothing { s with stream := some { spoilt := false, staged := [] } }
  else refuse tag 0x01 .wrongState s

/-- The fields of a PROFILE_BLOCK body, when it reads and its kind is defined (R78, R210). -/
def readBlock (body : List Byte) : Option StagedBlock := do
  let (kind, b) ← readByte body
  let (check, b) ← readNat 4 b
  if within 1 5 kind then some { kind := BitVec.ofNat 8 kind, body := b, check := BitVec.ofNat 32 check } else none

/-- A block refused with this code spoils the stream (R79). -/
def spoil (tag : Byte) (st : Status) (stream : Stream) (s : State) : State :=
  refuse tag 0x02 st { s with stream := some { stream with spoilt := true } }

/-- PROFILE_BLOCK (R78). -/
def profileBlock (tag : Byte) (body : List Byte) (s : State) : State :=
  match s.stream with
  | none => refuse tag 0x02 .noStream s
  | some stream =>
    if stream.spoilt then refuse tag 0x02 .streamSpoilt s
    else match readBlock body with
      | none => spoil tag .range stream s
      | some b =>
        if b.check ≠ crc32 (b.kind :: b.body) then spoil tag .badCheck stream s
        else if 40 ≤ stream.staged.length then spoil tag .stagingFull stream s
        else
          respond tag 0x02 .ok false (.staging stream.staged.length)
            { s with stream := some { stream with staged := stream.staged ++ [b] } }

/-- PROFILE_ABANDON (R80). -/
def profileAbandon (tag : Byte) (s : State) : State := respond tag 0x04 .ok false .nothing { s with stream := none }

def requestProfileBegin (tag : Byte) : State → State := acceptRequest tag 0x01 0 (profileBegin tag)
def requestProfileBlock (tag : Byte) (body : List Byte) : State → State :=
  acceptRequest tag 0x02 body.length (profileBlock tag body)
def requestProfileCommit (tag : Byte) (check : Check32) : State → State := acceptRequest tag 0x03 4 (profileCommit tag check)
def requestProfileAbandon (tag : Byte) : State → State := acceptRequest tag 0x04 0 (profileAbandon tag)

/-- Meaning of PROFILE_BEGIN. -/
def execProfileBegin (tag : Byte) (s : State) : Host.Outcome State Fault Refusal := .next (requestProfileBegin tag s)

/-- Meaning of PROFILE_BLOCK. -/
def execProfileBlock (tag : Byte) (body : List Byte) (s : State) : Host.Outcome State Fault Refusal :=
  .next (requestProfileBlock tag body s)

/-- Meaning of PROFILE_COMMIT. -/
def execProfileCommit (tag : Byte) (check : Check32) (s : State) : Host.Outcome State Fault Refusal :=
  .next (requestProfileCommit tag check s)

/-- Meaning of PROFILE_ABANDON. -/
def execProfileAbandon (tag : Byte) (s : State) : Host.Outcome State Fault Refusal := .next (requestProfileAbandon tag s)

end Sys2Proof.Machine
end

