-- ==== Sys2Proof/Machine/Wire.lean ====
section
/-! DEFINITION. Frames as bytes: which message of R211 a serial frame spells, which request of R210 a control frame spells,
and what a frame that spells none does (R194, R196, R199, R200). -/

namespace Sys2Proof.Machine

/-! ### Serial messages (R211) -/

/-- A body is empty. -/
def readEmpty {α : Type} (a : α) (b : List Byte) : Option α := if b.isEmpty then some a else none

def readLogon (l : ConsoleLink) : List Byte → Option (State → State) :=
  readWhole fun b => do
    let (number, b) ← readByte b
    let (credential, b) ← readString b
    some (messageLogon l number credential, b)

def readEnrolFirst (l : ConsoleLink) : List Byte → Option (State → State) :=
  readWhole fun b => do
    let (number, b) ← readByte b
    let (group, b) ← readByte b
    let (credential, b) ← readString b
    some (messageEnrolFirst l number group credential, b)

/-- OPEN of an ASSEMBLE after its kind (R43, R211). The length of the key is read as one byte, a width that R209 and R211 do not
give (DESIGN CHOICE, unsafe, log entry 39). -/
def readOpenAssemble (l : ConsoleLink) : List Byte → Option (State → State) :=
  readWhole fun b => do
    let (slot, b) ← readByte b
    let (cls, b) ← readByte b
    let (length, b) ← readByte b
    let (count, b) ← readByte b
    let (keySet, b) ← readOptNat 4 b
    some (messageOpenAssemble l slot cls length count keySet, b)

def readOpenEnrol (l : ConsoleLink) : List Byte → Option (State → State) :=
  readWhole fun b => do
    let (number, b) ← readByte b
    let (group, b) ← readByte b
    let (credential, b) ← readString b
    some (messageOpenEnrol l number group credential, b)

/-- A body of one byte. -/
def readOne (f : Nat → State → State) : List Byte → Option (State → State) :=
  readWhole fun b => (readByte b).map fun x => (f x.1, x.2)

/-- OPEN by its ceremony kind. A kind that is not one of the six is refused by R42, whatever follows it (log entry 11). -/
def readOpen (l : ConsoleLink) (b : List Byte) : Option (State → State) :=
  match readByte b with
  | none => none
  | some (kind, rest) =>
    match kind with
    | 1 => readOpenAssemble l rest
    | 2 => readOne (messageOpenErase l) rest
    | 3 => readEmpty (messageOpenOpenLine l) rest
    | 4 => readOpenEnrol l rest
    | 5 => readOne (messageOpenRevoke l) rest
    | 6 => readOne (messageOpenUnlock l) rest
    | _ => some (messageOpenUnknown l)

def readComponent (l : ConsoleLink) : List Byte → Option (State → State) :=
  readWhole fun b => do
    let (value, b) ← readString b
    let (check, b) ← readNat 3 b
    some (messageComponent l value (BitVec.ofNat 24 check), b)

/-- The message a console frame spells. -/
def readConsoleMessage (l : ConsoleLink) (kind : Byte) (b : List Byte) : Option (State → State) :=
  match kind.toNat with
  | 1 => readLogon l b
  | 2 => readEmpty (messageLogoff l) b
  | 3 => readEnrolFirst l b
  | 4 => readOpen l b
  | 5 => readComponent l b
  | 6 => readEmpty (messageAccept l) b
  | 7 => readEmpty (messageReject l) b
  | 8 => readEmpty (messageCancel l) b
  | 9 => readEmpty (messageQuery l) b
  | 10 => readEmpty (messageZeroise l) b
  | _ => none

def readHello (p : Port) : List Byte → Option (State → State) :=
  readWhole fun b => do
    let (serial, b) ← readString b
    let (model, b) ← readNat 4 b
    some (messageHello p serial (BitVec.ofNat 32 model), b)

def readConfirm (p : Port) : List Byte → Option (State → State) :=
  readWhole fun b => do
    let (index, b) ← readByte b
    let (kcv, b) ← readNat 3 b
    some (messageConfirm p index (BitVec.ofNat 24 kcv), b)

/-- The message a bench frame spells. -/
def readBenchMessage (p : Port) (kind : Byte) (b : List Byte) : Option (State → State) :=
  match kind.toNat with
  | 1 => readHello p b
  | 2 => readOne (messageFetch p) b
  | 3 => readConfirm p b
  | 4 => readEmpty (messageBye p) b
  | _ => none

/-- A whole frame with a right CRC is a message (R199, R200). -/
def deliverMessage (k : LinkId) (kind : Byte) (body : List Byte) : State → State :=
  match k with
  | .console l => (readConsoleMessage l kind body).getD (messageConsoleBad l kind)
  | .bench p => (readBenchMessage p kind body).getD (messageBenchBad p)

/-! ### The receivers (R199) -/

/-- What the bytes collected after A5h make: a frame still short, a whole one with a wrong CRC, or a message. -/
inductive Collected where
  | short
  | bad
  | message (kind : Byte) (body : List Byte)
  deriving DecidableEq, Repr

/-- The collected bytes as kind, length, body, CRC-16 (R199). -/
def judgeBytes (b : List Byte) : Collected :=
  match b with
  | kind :: len :: rest =>
    if rest.length < len.toNat + 2 then .short
    else
      let body := rest.take len.toNat
      if beNat (rest.drop len.toNat) = (crc16 (kind :: len :: body)).toNat then .message kind body else .bad
  | _ => .short

/-- A byte arrives on a serial link (R199; log entry 8). -/
def receiveByte (k : LinkId) (x : Byte) (s : State) : State :=
  match receiver k s with
  | .idle => if x = 0xA5#8 then setReceiver k (.assembling [] 0) s else s
  | .assembling bytes _ =>
    match judgeBytes (bytes ++ [x]) with
    | .short => setReceiver k (.assembling (bytes ++ [x]) 0) s
    | .bad => setReceiver k .idle s
    | .message kind body => deliverMessage k kind body (setReceiver k .idle s)

/-- The oldest message of a transmit queue has been sent whole (R201). -/
def transmitDone (k : LinkId) (s : State) : State :=
  match k with
  | .console l =>
    let c := s.console l
    match c.tx with
    | [] => s
    | m :: rest => s.setConsole l { c with tx := rest, sent := m.bytes }
  | .bench p =>
    let b := s.bench p
    match b.tx with
    | [] => s
    | m :: rest => s.setBench p { b with tx := rest, sent := m.bytes }

/-! ### Control requests (R196, R210) -/

def readRegAdd (tag : Byte) : List Byte → Option (State → State) :=
  readWhole fun b => do
    let (serial, b) ← readString b
    let (recipe, b) ← readOptNat 1 b
    some (requestRegAdd tag serial recipe, b)

def readRegQuery (tag : Byte) : List Byte → Option (State → State) :=
  readWhole fun b => (readString b).map fun x => (requestRegQuery tag x.1, x.2)

def readRegSetState (tag : Byte) : List Byte → Option (State → State) :=
  readWhole fun b => do
    let (serial, b) ← readString b
    let (old, b) ← readByte b
    let (new, b) ← readByte b
    some (requestRegSetState tag serial old new, b)

def readRegRemove (tag : Byte) : List Byte → Option (State → State) :=
  readWhole fun b => do
    let (serial, b) ← readString b
    let (old, b) ← readByte b
    some (requestRegRemove tag serial old, b)

def readRegScan (tag : Byte) : List Byte → Option (State → State) :=
  readWhole fun b => do
    let (start, b) ← readByte b
    let (count, b) ← readByte b
    some (requestRegScan tag start count, b)

def readCounterAdvance (tag : Byte) : List Byte → Option (State → State) :=
  readWhole fun b => do
    let (slot, b) ← readByte b
    let (value, b) ← readNat 4 b
    some (requestCounterAdvance tag slot value, b)

/-- An event bitmap; a member beyond the twelve makes it unreadable (R209). -/
def readEvents (b : List Byte) : Option (BitVec 12 × List Byte) :=
  match readNat 2 b with
  | none => none
  | some (n, rest) => if n < 4096 then some (BitVec.ofNat 12 n, rest) else none

def readStatus (tag : Byte) : List Byte → Option (State → State) :=
  readWhole fun b => do
    let (clearSet, b) ← readEvents b
    let (clearCounts, b) ← readFlag b
    some (requestStatus tag clearSet clearCounts, b)

def readSetMask (tag : Byte) : List Byte → Option (State → State) :=
  readWhole fun b => (readEvents b).map fun x => (requestSetMask tag x.1, x.2)

def readCommit (tag : Byte) : List Byte → Option (State → State) :=
  readWhole fun b => (readNat 4 b).map fun x => (requestProfileCommit tag (BitVec.ofNat 32 x.1), x.2)

def readRelease (tag : Byte) : List Byte → Option (State → State) :=
  readWhole fun b => (readNat 4 b).map fun x => (requestJournalRelease tag x.1, x.2)

/-- The request a control frame spells; an IMPORT and a PROFILE_BLOCK are handed on whatever their bodies (R196, R210). -/
def readRequest (tag kind : Byte) (b : List Byte) : Option (State → State) :=
  match kind.toNat with
  | 0x01 => readEmpty (requestProfileBegin tag) b
  | 0x02 => some (requestProfileBlock tag b)
  | 0x03 => readCommit tag b
  | 0x04 => readEmpty (requestProfileAbandon tag) b
  | 0x10 => readEmpty (requestLinePause tag) b
  | 0x11 => readEmpty (requestLineResume tag) b
  | 0x12 => readEmpty (requestLineClose tag) b
  | 0x13 => readEmpty (requestLineReset tag) b
  | 0x20 => some (requestImport tag b)
  | 0x21 => readOne (requestSlotQuery tag) b
  | 0x30 => readRegAdd tag b
  | 0x31 => readRegQuery tag b
  | 0x32 => readRegSetState tag b
  | 0x33 => readRegRemove tag b
  | 0x34 => readRegScan tag b
  | 0x40 => readOne (requestCounterRead tag) b
  | 0x41 => readCounterAdvance tag b
  | 0x50 => readOne (requestJournalRead tag) b
  | 0x51 => readRelease tag b
  | 0x60 => readStatus tag b
  | 0x61 => readSetMask tag b
  | _ => none

/-- An accepted request of unknown kind or unreadable body completes RANGE (R196). -/
def requestUnreadable (tag kind : Byte) (bodyLength : Nat) : State → State :=
  acceptRequest tag kind bodyLength (refuse tag kind .range)

/-- A request frame whose header, length and CRC hold. -/
structure GoodFrame where
  tag : Byte
  kind : Byte
  body : List Byte
  deriving DecidableEq, Repr

/-- The request frame after its type byte: tag, kind, body length, body, CRC-16 (R196, R210). -/
def readFrame (b : List Byte) : Option GoodFrame :=
  match b with
  | tag :: kind :: l1 :: l0 :: rest =>
    let len := beNat [l1, l0]
    let body := rest.take len
    if rest.length = len + 2 ∧ len ≤ 2048
        ∧ beNat (rest.drop len) = (crc16 (tag :: kind :: l1 :: l0 :: body)).toNat then
      some { tag := tag, kind := kind, body := body }
    else none
  | _ => none

/-- A request write is judged at the release of select (R196; log entry 7). -/
def requestWrite (b : List Byte) (s : State) : State :=
  match readFrame b with
  | none => frameErrorEvent s
  | some f => ((readRequest f.tag f.kind f.body).getD (requestUnreadable f.tag f.kind f.body.length)) s

/-- A transaction of a type that is neither 01h nor 02h: 00h is shifted out while the type byte comes in, and what is shifted
out after it is left free (R194; log entry 38). -/
def strayTransaction (n : Nat) (s : State) : State :=
  frameErrorEvent { s with
    shiftedOut := 0 :: (List.range n).map fun k => Config.strayByte (s.freeCount + k)
    freeCount := s.freeCount + n }

/-- A control port transaction as the bytes the master sent, the type byte first (R194). -/
def transaction (bytes : List Byte) (s : State) : State :=
  if !s.running then s
  else match bytes with
    | [] => s
    | type :: rest =>
      if type = 1 then requestWrite rest (s.silent bytes.length)
      else if type = 2 then responseFetch rest.length s
      else strayTransaction rest.length s

/-! ### Meanings -/

/-- Meaning of REQUEST_WRITE_DISCARD. -/
def execRequestWriteDiscard (bytes : List Byte) (s : State) : Host.Outcome State Fault Refusal :=
  .next (transaction bytes s)

/-- Meaning of LINK_BAD_FRAME: the frame is discarded and the receiver is IDLE (R199). -/
def execLinkBadFrame (k : LinkId) (s : State) : Host.Outcome State Fault Refusal :=
  .next (if s.running then setReceiver k .idle s else s)

/-- Meaning of RECEIVER_TIMEOUT: after two seconds without a byte the partial frame is discarded (R199). A receiver that has
not waited so long has no such event (log entry 2). -/
def execReceiverTimeout (k : LinkId) (s : State) : Host.Outcome State Fault Refusal :=
  .next (if s.running && (receiver k s).due then setReceiver k .idle s else s)

/-- Meaning of TRANSMIT_DONE. -/
def execTransmitDone (k : LinkId) (s : State) : Host.Outcome State Fault Refusal :=
  .next (if s.running then transmitDone k s else s)

/-- Meaning of LINK_BYTE_RECEIVED. -/
def execLinkByteReceived (k : LinkId) (x : Byte) (s : State) : Host.Outcome State Fault Refusal :=
  .next (if s.running then receiveByte k x s else s)

end Sys2Proof.Machine
end

