-- ==== Sys2Proof/Machine/Dispatch.lean ====
section
/-! DEFINITION. One arm for each command: the direct call of its meaning. -/

namespace Sys2Proof.Machine

def exec (i : Instr) (s : State) : Host.Outcome State Fault Refusal :=
  match i with
  | .profileBegin tag => Sys2Proof.Machine.execProfileBegin tag s
  | .profileBlock tag body => Sys2Proof.Machine.execProfileBlock tag body s
  | .profileCommit tag streamCheck => Sys2Proof.Machine.execProfileCommit tag streamCheck s
  | .profileAbandon tag => Sys2Proof.Machine.execProfileAbandon tag s
  | .linePause tag => Sys2Proof.Machine.execLinePause tag s
  | .lineResume tag => Sys2Proof.Machine.execLineResume tag s
  | .lineClose tag => Sys2Proof.Machine.execLineClose tag s
  | .lineReset tag => Sys2Proof.Machine.execLineReset tag s
  | .importKey tag body => Sys2Proof.Machine.execImport tag body s
  | .slotQuery tag slot => Sys2Proof.Machine.execSlotQuery tag slot s
  | .regAdd tag serial recipe => Sys2Proof.Machine.execRegAdd tag serial recipe s
  | .regQuery tag serial => Sys2Proof.Machine.execRegQuery tag serial s
  | .regSetState tag serial expected new => Sys2Proof.Machine.execRegSetState tag serial expected new s
  | .regRemove tag serial expected => Sys2Proof.Machine.execRegRemove tag serial expected s
  | .regScan tag position count => Sys2Proof.Machine.execRegScan tag position count s
  | .counterRead tag slot => Sys2Proof.Machine.execCounterRead tag slot s
  | .counterAdvance tag slot value => Sys2Proof.Machine.execCounterAdvance tag slot value s
  | .journalRead tag count => Sys2Proof.Machine.execJournalRead tag count s
  | .journalRelease tag sequence => Sys2Proof.Machine.execJournalRelease tag sequence s
  | .status tag clearSet clearCounts => Sys2Proof.Machine.execStatus tag clearSet clearCounts s
  | .setMask tag mask => Sys2Proof.Machine.execSetMask tag mask s
  | .responseFetch clocks => Sys2Proof.Machine.execResponseFetch clocks s
  | .requestWriteDiscard bytes => Sys2Proof.Machine.execRequestWriteDiscard bytes s
  | .logon link number credential => Sys2Proof.Machine.execLogon link number credential s
  | .logoff link => Sys2Proof.Machine.execLogoff link s
  | .enrolFirst link number group credential => Sys2Proof.Machine.execEnrolFirst link number group credential s
  | .zeroise link => Sys2Proof.Machine.execZeroise link s
  | .query link => Sys2Proof.Machine.execQuery link s
  | .openAssemble link slot cls length count keySet => Sys2Proof.Machine.execOpenAssemble link slot cls length count keySet s
  | .openErase link slot => Sys2Proof.Machine.execOpenErase link slot s
  | .openOpenLine link => Sys2Proof.Machine.execOpenOpenLine link s
  | .openEnrol link number group credential => Sys2Proof.Machine.execOpenEnrol link number group credential s
  | .openRevoke link number => Sys2Proof.Machine.execOpenRevoke link number s
  | .openUnlock link number => Sys2Proof.Machine.execOpenUnlock link number s
  | .component link value check => Sys2Proof.Machine.execComponent link value check s
  | .accept link => Sys2Proof.Machine.execAccept link s
  | .reject link => Sys2Proof.Machine.execReject link s
  | .cancel link => Sys2Proof.Machine.execCancel link s
  | .consoleBadMessage link kind => Sys2Proof.Machine.execConsoleBadMessage link kind s
  | .hello port serial model => Sys2Proof.Machine.execHello port serial model s
  | .fetch port index => Sys2Proof.Machine.execFetch port index s
  | .confirm port index kcv => Sys2Proof.Machine.execConfirm port index kcv s
  | .bye port => Sys2Proof.Machine.execBye port s
  | .benchBadMessage port => Sys2Proof.Machine.execBenchBadMessage port s
  | .linkBadFrame link => Sys2Proof.Machine.execLinkBadFrame link s
  | .receiverTimeout link => Sys2Proof.Machine.execReceiverTimeout link s
  | .transmitDone link => Sys2Proof.Machine.execTransmitDone link s
  | .consolePresentAsserted link => Sys2Proof.Machine.execConsolePresentAsserted link s
  | .consolePresentDeasserted link => Sys2Proof.Machine.execConsolePresentDeasserted link s
  | .terminalPresentAsserted port => Sys2Proof.Machine.execTerminalPresentAsserted port s
  | .terminalPresentDeasserted port => Sys2Proof.Machine.execTerminalPresentDeasserted port s
  | .tamperLineAsserted => Sys2Proof.Machine.execTamperLineAsserted s
  | .tamperLineDeasserted => Sys2Proof.Machine.execTamperLineDeasserted s
  | .tamperLatchSet => Sys2Proof.Machine.execTamperLatchSet s
  | .powerOn => Sys2Proof.Machine.execPowerOn s
  | .powerOff => Sys2Proof.Machine.execPowerOff s
  | .resetPinAsserted => Sys2Proof.Machine.execResetPinAsserted s
  | .resetPinReleased => Sys2Proof.Machine.execResetPinReleased s
  | .custodianIdleExpiry link => Sys2Proof.Machine.execCustodianIdleExpiry link s
  | .windowExpiry => Sys2Proof.Machine.execWindowExpiry s
  | .sessionIdleExpiry port => Sys2Proof.Machine.execSessionIdleExpiry port s
  | .entryAged position => Sys2Proof.Machine.execEntryAged position s
  | .prepareSharedDone => Sys2Proof.Machine.execPrepareSharedDone s
  | .prepareDerivedDone => Sys2Proof.Machine.execPrepareDerivedDone s
  | .checkComponentDone => Sys2Proof.Machine.execCheckComponentDone s
  | .combineDone => Sys2Proof.Machine.execCombineDone s
  | .unwrapDone => Sys2Proof.Machine.execUnwrapDone s
  | .linkByteReceived link byte => Sys2Proof.Machine.execLinkByteReceived link byte s
  | .batteryLoss => Sys2Proof.Machine.execBatteryLoss s

end Sys2Proof.Machine
end

