-- ==== Sys2Proof/Machine/Time.lean ====
section
/-! DEFINITION. One second with no command waiting: every timer that runs counts it, and the timers that have reached their
limits put their expiry rows into the queue (00_scope.md, Conventions: Time; log entries 1 and 3). -/

namespace Sys2Proof.Machine

/-- A timer counts a second. -/
def Timer.counted (t : Timer) : Timer := { t with count := t.count + 1 }

/-- The receiver's gap timer counts a second (R199). -/
def Receiver.counted : Receiver → Receiver
  | .idle => .idle
  | .assembling bytes gap => .assembling bytes (gap + 1)

def Console.counted (c : Console) : Console :=
  { c with rx := c.rx.counted, logon := c.logon.map fun g => { g with idle := g.idle.counted } }

def PortContext.counted : PortContext → PortContext
  | .identified ss t => .identified ss t.counted
  | .offered ss t => .offered ss t.counted
  | c => c

def Bench.counted (b : Bench) : Bench := { b with rx := b.rx.counted, ctx := b.ctx.counted }

/-- An aging entry counts a second (R115). -/
def Entry.counted (e : Entry) : Entry := { e with unboundSince := e.unboundSince.map fun t => t + 1 }

def CeremonyRun.counted : CeremonyRun → CeremonyRun
  | .work w => .work { w with window := w.window.map Timer.counted }
  | r => r

/-- Every running timer counts a second. -/
def countSecond (s : State) : State :=
  { s with
    consoles := s.consoles.map Console.counted
    benches := s.benches.map Bench.counted
    ceremony := { s.ceremony with run := s.ceremony.run.counted }
    store := { s.store with registry := s.store.registry.map (Option.map Entry.counted) } }

/-- A command when a condition holds. -/
def commandIf (c : Bool) (i : Instr) : List Instr := if c then [i] else []

/-- The expiries due on a custodian link. -/
def consoleExpiries (s : State) (l : ConsoleLink) : List Instr :=
  let c := s.console l
  commandIf c.rx.due (.receiverTimeout (.console l))
    ++ commandIf c.idleDue (.custodianIdleExpiry l)

/-- The expiries due on a bench link. -/
def benchExpiries (s : State) (p : Port) : List Instr :=
  let b := s.bench p
  commandIf b.rx.due (.receiverTimeout (.bench p))
    ++ commandIf b.ctx.idleDue (.sessionIdleExpiry p)

/-- The expiry due of the ceremony window (R57). -/
def windowExpiries (s : State) : List Instr :=
  commandIf
    (match s.ceremony.run with
      | .work w => w.windowDue
      | _ => false)
    .windowExpiry

/-- The expiries due in the registry. -/
def agingExpiries (s : State) : List Instr := (allBelow 256).flatMap fun i => commandIf (agedAt s i) (.entryAged i)

/-- Every expiry due. -/
def dueExpiries (s : State) : List Instr :=
  allConsoles.flatMap (consoleExpiries s) ++ windowExpiries s ++ allPorts.flatMap (benchExpiries s) ++ agingExpiries s

/-- Commands in an order that free values pick: each joins those after it at the place its free value names. -/
def shuffled (free : Nat) : List Instr → List Instr
  | [] => []
  | i :: rest =>
    let others := shuffled (free + 1) rest
    others.insertIdx (Config.expiryPlace free % (others.length + 1)) i

/-- One second passes. A part that does not run counts nothing (R106). -/
def tick (s : State) : State :=
  if !s.running then s
  else
    let s := countSecond s
    let due := dueExpiries s
    { s with pending := s.pending ++ shuffled s.freeCount due, freeCount := s.freeCount + due.length }

end Sys2Proof.Machine
end

