-- ==== Sys2Proof/Machine/Step.lean ====
section
/-! DEFINITION. One step: the command at the front of the queue, or one second when no command waits (log entry 1). -/

namespace Sys2Proof.Machine

/-- The command at the front leaves the queue and runs; with no command waiting one second passes (log entry 1). -/
def step (s : State) : Host.Outcome State Fault Refusal :=
  match s.pending with
  | [] => .next (tick s)
  | i :: rest => exec i { s with pending := rest }

/-- The command a word spells at the front of the queue; no word spells one (log entry 30). -/
def State.withFetchWord (s : State) (nbits w : Nat) : State :=
  match decodeTableWord nbits w with
  | none => s
  | some i => { s with pending := i :: s.pending }

end Sys2Proof.Machine
end

