-- ==== Sys2Proof/Safety.lean ====
section
/-! DEFINITION. The words of the statements: when a request is accepted and a message taken, the state after an answer, and
what the invariants say. -/

namespace Sys2Proof.Safety

open Sys2Proof.Machine

/-! ### Control requests (R196, R197) -/

/-- A control request: its tag, kind code and body length (R196, R210). -/
structure Request where
  tag : Byte
  kind : Byte
  length : Nat
  deriving DecidableEq, Repr

/-- The body length of a REG_ADD: a serial behind its length byte, and an optional recipe number (R210). -/
def addLength (serial : Serial) (recipe : Option Nat) : Nat := serial.length + if recipe.isSome then 3 else 2

/-- The request a command is, when it is one of the 21 kinds (R210). -/
def request? : Instr → Option Request
  | .profileBegin tag => some ⟨tag, 0x01, 0⟩
  | .profileBlock tag body => some ⟨tag, 0x02, body.length⟩
  | .profileCommit tag _ => some ⟨tag, 0x03, 4⟩
  | .profileAbandon tag => some ⟨tag, 0x04, 0⟩
  | .linePause tag => some ⟨tag, 0x10, 0⟩
  | .lineResume tag => some ⟨tag, 0x11, 0⟩
  | .lineClose tag => some ⟨tag, 0x12, 0⟩
  | .lineReset tag => some ⟨tag, 0x13, 0⟩
  | .importKey tag body => some ⟨tag, 0x20, body.length⟩
  | .slotQuery tag _ => some ⟨tag, 0x21, 1⟩
  | .regAdd tag serial recipe => some ⟨tag, 0x30, addLength serial recipe⟩
  | .regQuery tag serial => some ⟨tag, 0x31, serial.length + 1⟩
  | .regSetState tag serial _ _ => some ⟨tag, 0x32, serial.length + 3⟩
  | .regRemove tag serial _ => some ⟨tag, 0x33, serial.length + 2⟩
  | .regScan tag _ _ => some ⟨tag, 0x34, 2⟩
  | .counterRead tag _ => some ⟨tag, 0x40, 1⟩
  | .counterAdvance tag _ _ => some ⟨tag, 0x41, 5⟩
  | .journalRead tag _ => some ⟨tag, 0x50, 1⟩
  | .journalRelease tag _ => some ⟨tag, 0x51, 4⟩
  | .status tag _ _ => some ⟨tag, 0x60, 3⟩
  | .setMask tag _ => some ⟨tag, 0x61, 2⟩
  | _ => none

/-- A request with this tag is accepted: the part runs, fewer than 8 requests are outstanding, the tag is free (R196). -/
abbrev Accepts (tag : Byte) (s : State) : Prop :=
  s.running = true ∧ s.outstanding.length < 8 ∧ ∀ o ∈ s.outstanding, o.tag ≠ tag

/-- What the part shifts out while a request with a body of `n` bytes is written: 00h for the type byte, the header of 4 bytes,
the body and the CRC-16 (R194). The field that holds it is the model's own (log entry 25). -/
def quiet (n : Nat) : List Byte := List.replicate (n + 7) 0

/-- The state after an accepted request with a body of `n` bytes that is answered in its own event, but for what the request
itself changes (R194, R197). -/
def answered (tag kind : Byte) (n : Nat) (st : Status) (changed : Bool) (body : ResponseBody) (s : State) : State :=
  { s with
    responses := s.responses ++ [{ tag := tag, kind := kind, status := st, changed := changed, body := body }]
    outstanding := s.outstanding ++ [{ tag := tag, kind := kind, queued := true }]
    flags := s.flags ||| 0x001#12
    shiftedOut := quiet n }

/-- The state after an accepted request that is refused: an empty body, nothing else changed (R197). -/
def refused (tag kind : Byte) (n : Nat) (st : Status) (s : State) : State := answered tag kind n st false .nothing s

/-- The state after an accepted request with a body of `n` bytes whose answer is withheld (R196). -/
def withheld (tag kind : Byte) (n : Nat) (s : State) : State :=
  { s with
    outstanding := s.outstanding ++ [{ tag := tag, kind := kind, queued := false }]
    shiftedOut := quiet n }

/-! ### Console messages (R26, R32, R200, R201) -/

/-- A message on a custodian link is taken (R26, R200). -/
abbrev Takes (l : ConsoleLink) (s : State) : Prop :=
  s.running = true ∧ (s.console l).present = true ∧ (s.console l).answersDue < 4

/-- A message on a custodian link is taken, and no earlier request of the link is unanswered (R26). -/
abbrev Listens (l : ConsoleLink) (s : State) : Prop := Takes l s ∧ (s.console l).unanswered = false

/-- A custodian is logged on at a link. -/
abbrev LoggedOn (l : ConsoleLink) (c : Cust) (s : State) : Prop := (s.console l).logon.map Logon.who = some c

/-- What taking a message does to its link: the receiver is IDLE, and the idle timer of a logged-on custodian restarts with
the limit now in force (R32, R199). -/
def heard (l : ConsoleLink) (s : State) : State :=
  s.setConsole l
    { s.console l with
      rx := .idle
      logon := (s.console l).logon.map fun g => { g with idle := { count := 0, limit := custodianIdleLimit s } } }

/-- An ANSWER joins the transmit queue of a link (R26, R201). -/
def told (l : ConsoleLink) (kind : Byte) (st : Status) (body : AnswerBody) (s : State) : State :=
  s.setConsole l { s.console l with tx := joinConsoleQueue (s.console l).tx (.answer kind st body) }

/-- The kind code and link of a console message (R211). -/
def consoleMessage? : Instr → Option (ConsoleLink × Byte)
  | .logon l _ _ => some (l, 0x01)
  | .logoff l => some (l, 0x02)
  | .enrolFirst l _ _ _ => some (l, 0x03)
  | .zeroise l => some (l, 0x0A)
  | .query l => some (l, 0x09)
  | .openAssemble l _ _ _ _ _ => some (l, 0x04)
  | .openErase l _ => some (l, 0x04)
  | .openOpenLine l => some (l, 0x04)
  | .openEnrol l _ _ _ => some (l, 0x04)
  | .openRevoke l _ => some (l, 0x04)
  | .openUnlock l _ => some (l, 0x04)
  | .component l _ _ => some (l, 0x05)
  | .accept l => some (l, 0x06)
  | .reject l => some (l, 0x07)
  | .cancel l => some (l, 0x08)
  | .consoleBadMessage l kind => some (l, kind)
  | _ => none

/-- The console messages that need a logged-on custodian (R26). -/
def needsLogon : Instr → Bool
  | .logoff _ | .zeroise _ | .openAssemble .. | .openErase .. | .openOpenLine _ | .openEnrol .. | .openRevoke ..
  | .openUnlock .. | .component .. | .accept _ | .reject _ | .cancel _ => true
  | _ => false

/-- The OPEN messages (R42). -/
def opens : Instr → Bool
  | .openAssemble .. | .openErase .. | .openOpenLine _ | .openEnrol .. | .openRevoke .. | .openUnlock .. => true
  | _ => false

/-! ### Time (00_scope.md, Conventions: Time) -/

/-- A timer that has counted one more second. -/
def oneMore (t : Timer) : Timer := { t with count := t.count + 1 }

/-- A receiver that has waited one more second for a byte, while it assembles a frame (R199). -/
def receiverOneMore : Receiver → Receiver
  | .idle => .idle
  | .assembling bytes gap => .assembling bytes (gap + 1)

/-! ### Journal (R181, R182) -/

/-- The state after a granted reservation (R182, R187). -/
def reserved (h : ResHolder) (s : State) : State :=
  (s.setJournal { s.journal with reservations := s.journal.reservations ++ [h] }).setFlagIf
    (highMark s ≤ s.journal.occupancy + 1) .journalHigh

/-- The bodies of the journal's records, oldest first. -/
def recordBodies (s : State) : List RecordBody := s.journal.records.map Record.body

/-- The TAMPER records of the journal. -/
def tamperRecords (s : State) : List Record := s.journal.records.filter Record.isTamper

/-! ### Ceremonies (R39, R42, R53, R58) -/

/-- The ceremony context after an accepted OPEN by `opener`: in GATHERING, its window started, its opener's acceptance held
unless it is an ASSEMBLE (R42, R57). -/
def openedBy (opener : Person) (params : CeremonyParams) (s : State) : CeremonyWork where
  phase := .gathering
  opener := opener
  params := params
  underCheck := none
  held := []
  bound := []
  badEntries := 0
  combined := none
  acceptA := if params.kind ≠ .assemble ∧ opener.group = .a then some opener.cust else none
  acceptB := if params.kind ≠ .assemble ∧ opener.group = .b then some opener.cust else none
  window := some { count := 0, limit := match s.profile with | none => 300 | some p => p.params.window }

/-- The state after an accepted OPEN: the reservation held, the target of an ASSEMBLE reserved, the OPEN answered, the notice
sent (R12, R42, R62, R182). -/
def ceremonyOpened (l : ConsoleLink) (opener : Person) (params : CeremonyParams) (s : State) : State :=
  let w := openedBy opener params s
  let s1 : State := match params with
    | .assemble i _ _ _ _ => (reserved .ceremony s).setSlot i { s.slot i with content := .assembling .ceremony }
    | _ => reserved .ceremony s
  noticeAll (openNotice w .opened) (told l 0x04 .ok .nothing { s1 with ceremony := { run := .work w, last := none } })

/-- The context takes acceptances: VERIFYING, or GATHERING of a kind other than ASSEMBLE (R52, R55). -/
def awaitsAcceptance (w : CeremonyWork) : Prop :=
  w.phase = .verifying ∨ (w.phase = .gathering ∧ w.params.kind ≠ .assemble)

/-- The state after an abort, but for what it says to the consoles: the target given back, the reservation returned, the job
withdrawn, the outcome set, CEREMONY_END set (R14, R58, R136, R184). -/
def abortedTo (reason : AbortReason) (w : CeremonyWork) (s : State) : State :=
  let s1 : State := match w.params with
    | .assemble i _ _ _ _ =>
      if (s.slot i).content = .assembling .ceremony then s.setSlot i { s.slot i with content := .empty } else s
    | _ => s
  { s1 with
    store := { s1.store with
      journal := { s.journal with reservations := s.journal.reservations.erase .ceremony } }
    ceremony :=
      { run := if jobPlace 8 s = JobPlace.running then .settling w.params.kind w.opener else .idle
        last := some { kind := w.params.kind, aborted := some reason, named := w.params.named } }
    engine := (withdrawJob 8 s).engine
    flags := s.flags ||| 0x400#12 }

/-- The state after a completion, but for what it says to the consoles: the record written against the ceremony's reservation,
the context IDLE, the outcome set, CEREMONY_END set (R53, R178, R183). -/
def completedWith (body : RecordBody) (params : CeremonyParams) (s : State) : State :=
  { s with
    store := { s.store with
      journal :=
        { records := s.journal.records ++ [{ sequence := s.journal.nextSequence, body := body }]
          nextSequence := if s.journal.nextSequence = 4294967295 then 1 else s.journal.nextSequence + 1
          reservations := s.journal.reservations.erase .ceremony } }
    ceremony := { run := .idle, last := some { kind := params.kind, aborted := none, named := params.named } }
    flags := s.flags ||| 0x400#12 }

/-- The other group (R24). -/
def otherGroup : Group → Group
  | .a => .b
  | .b => .a

/-- The groups that would still lack a component with this sender's taken (R49). -/
def groupsLacking (held : List Component) (sender : Person) : Nat :=
  (if sender.group = .a ∨ (∃ x ∈ held, x.who.group = .a) then 0 else 1)
    + (if sender.group = .b ∨ (∃ x ∈ held, x.who.group = .b) then 0 else 1)

/-- The two custodians whose acceptances are held once the sender's has joined: the other group's and the sender (R53). -/
def approvedBy (sender : Person) (other : Cust) : Pair :=
  match sender.group with
  | .a => { a := sender.cust, b := other }
  | .b => { a := other, b := sender.cust }

/-- What an OPEN of a kind other than ASSEMBLE does once its conditions hold: refused JOURNAL_FULL, or the ceremony open with
the opener's acceptance (R42). -/
def OpensWith (c : Instr) (l : ConsoleLink) (who : Cust) (params : CeremonyParams) (s : State) : Prop :=
  (511 ≤ s.journal.occupancy → exec c s = .next
    (told l 0x04 .journalFull .nothing { heard l s with flags := s.flags ||| 0x008#12 }))
  ∧ (s.journal.occupancy < 511 → exec c s = .next (ceremonyOpened l (personOf who s) params (heard l s)))

/-- From `s` to `t`, the COMPONENT of `u`, if it was still unanswered, has been answered with this code, where its console is
there to have it (R33, R58). -/
def ComponentAnswered (code : Status) (u : UnderCheck) (s t : State) : Prop :=
  (s.console u.link).unanswered = true →
    (t.console u.link).unanswered = false
      ∧ ((t.console u.link).present = true → ConsoleOut.answer 0x05 code .nothing ∈ (t.console u.link).tx)

/-- From `s` to `t`, custodian `c` has gone from link `l`: the table and the other link's logon stay, and the ceremony is left
as it is, or aborts CUSTODIAN_LEFT when the leaver is bound to it, a COMPONENT under check being answered NOT_LOGGED_ON when it
is the leaver's and WRONG_STATE when it is another's (R30, R58, R59). -/
structure CustodianGone (l : ConsoleLink) (c : Cust) (s t : State) : Prop where
  gone : (t.console l).logon = none
  others : ∀ k, k ≠ l → (t.console k).logon = (s.console k).logon
  table : t.store.custodians = s.store.custodians
  unbound : (∀ w, s.ceremony.run = .work w → w.isBound c = false) → { t with consoles := s.consoles } = s
  bound : ∀ w, s.ceremony.run = .work w → w.isBound c = true →
    { t with consoles := s.consoles } = abortedTo .custodianLeft w s
      ∧ ∀ u, w.underCheck = some u →
        ComponentAnswered (if u.who.cust = c then .notLoggedOn else .wrongState) u s t

/-- The engine as the completion of its running job hands it to the requester (R137). -/
def jobTaken (s : State) : State := { s with engine := { s.engine with running := none } }

/-- What the completion of the orphaned job of an aborted ceremony does before the grant: the result is destroyed, the context is
IDLE, the last outcome and the events stay as the abort left them, and the notice is sent (R60, R62). What the notice
carries is the model's choice (log entry 14). -/
def orphanSettled (kind : CeremonyKind) (opener : Person) (s : State) : State :=
  noticeAll
    { state := .idle, event := .orphanDone, kind := some kind, opener := some opener
      named := match s.ceremony.last with | some o => o.named | none => .nothing
      componentCount := none, held := none, badEntries := none, acceptances := [], kcv := none, result := none }
    { jobTaken s with ceremony := { run := .idle, last := s.ceremony.last } }

/-! ### Bench messages (R150, R170, R200, R201) -/

/-- A message on a bench link is taken (R150, R200). -/
abbrev Hears (p : Port) (s : State) : Prop :=
  s.running = true ∧ (s.bench p).present = true ∧ (s.bench p).answersDue < 4 ∧ (s.ctx p).takesMessages = true

/-- A context whose idle timer runs, with the timer restarted (R170). -/
def restarted (t : Timer) : PortContext → PortContext
  | .identified ss _ => .identified ss t
  | .offered ss _ => .offered ss t
  | c => c

/-- What taking a message does to a bench link: the receiver is IDLE, and the idle timer of a session restarts from 0 with
the limit now in force (R170, R199). -/
def heardAt (p : Port) (s : State) : State :=
  s.setBench p { s.bench p with rx := .idle, ctx := restarted (sessionTimer s) (s.ctx p) }

/-- A message joins the transmit queue of a bench link (R201). -/
def sentTo (p : Port) (m : BenchOut) (s : State) : State :=
  s.setBench p { s.bench p with tx := (s.bench p).tx ++ [m] }

/-- A VERDICT without flags joins the transmit queue of a bench link (R150). -/
def verdictTo (p : Port) (st : Status) (s : State) : State := sentTo p (.verdict st false false) s

/-- The port of a bench message (R211). -/
def benchMessage? : Instr → Option Port
  | .hello p _ _ => some p
  | .fetch p _ => some p
  | .confirm p _ _ => some p
  | .bye p => some p
  | .benchBadMessage p => some p
  | _ => none

/-- A session is open at a port (R148). -/
def inSession : PortContext → Bool
  | .identified .. => true
  | .preparing _ => true
  | .offered .. => true
  | _ => false

/-- The code a context answers with to a request that its state does not take (R151). -/
def untakenCode : PortContext → Status
  | .preparing _ => .busy
  | .finished => .sessionEnded
  | .draining _ true => .busy
  | .draining _ false => .sessionEnded
  | _ => .sequence

/-- A context in which a request is taken by its own rule (R151). -/
def takenIn : Instr → PortContext → Bool
  | .hello .., .attached => true
  | .fetch .., .identified .. => true
  | .confirm .., .offered .. => true
  | .bye _, c => inSession c
  | _, _ => false

/-! ### Commands that only change a level -/

/-- The commands that are changes of an input line or of a supply; every other command is an arrival, an expiry or a job
completion, which the part takes only while it runs (R106). -/
def changesLevel : Instr → Bool
  | .consolePresentAsserted _ | .consolePresentDeasserted _ | .terminalPresentAsserted _ | .terminalPresentDeasserted _
  | .tamperLineAsserted | .tamperLineDeasserted | .tamperLatchSet | .powerOn | .powerOff | .resetPinAsserted
  | .resetPinReleased | .batteryLoss => true
  | _ => false

/-! ### Slots -/

/-- The next counter stands within the low margin of the committed profile (R10, R20). -/
def withinLowMargin (next : Nat) (s : State) : Bool :=
  match s.profile with
  | none => false
  | some p => 1048576 - p.params.lowMargin < next

/-- The base derivation fields of a held key: key set number and next counter (R1). -/
def derivationFields (x : Slot) : Option (Nat × Nat) :=
  match x.content.key? with
  | some k => match k.use with
    | .baseDerivation keySet next => some (keySet, next)
    | _ => none
  | none => none

/-- The claims of the step in flight at a port on a slot (R8). -/
def stepClaims (s : State) (i : SlotIx) (p : Port) : Nat :=
  match s.step p with
  | some ps => (if ps.facts.source = i then 1 else 0) + (if ps.facts.cover = i then 1 else 0)
  | none => 0

/-- The claim of the import in flight on a slot (R8). -/
def importClaims (s : State) (i : SlotIx) : Nat :=
  match s.importWork with
  | some w => if w.transport = i then 1 else 0
  | none => 0

/-- Every claim on a slot by work in flight (R8). -/
def claims (s : State) (i : SlotIx) : Nat := (allPorts.map (stepClaims s i)).sum + importClaims s i

/-! ### Invariants -/

/-- The four counts and bounds of the control port and the Attention Unit: RESPONSE_READY is set exactly while the response
queue is non-empty (R203), and both error counts stay at 255 or below (R196). -/
def ReadyFollowsQueue (s : State) : Prop :=
  (s.flags.getLsbD 0 = !s.responses.isEmpty) ∧ s.frameErrors ≤ 255 ∧ s.overruns ≤ 255

/-- The tags of the requests whose answers are withheld: the import in flight and the LINE_CLOSE of a CLOSING line (R195). -/
def withheldTags (s : State) : List Byte :=
  (match s.importWork with | some w => [w.tag] | none => [])
    ++ (match s.line with | .closing tag => [tag] | _ => [])

/-- An OPEN_LINE is open only while the line is SETUP (R45, R97). -/
def OpenLineNeedsSetup (s : State) : Prop :=
  ∀ w, s.ceremony.run = .work w → w.params = .openLine → s.line = .setup

/-- The control port's book-keeping (R195): at most 8 requests outstanding, no tag twice, the QUEUED records answer one to
one to the responses in the queue, and the WITHHELD ones to the import in flight and the withheld LINE_CLOSE. -/
structure PortBooked (s : State) : Prop where
  bound : s.outstanding.length ≤ 8
  tags : (s.outstanding.map Outstanding.tag).Nodup
  queued : ((s.outstanding.filter fun o => o.queued).map Outstanding.tag).Perm (s.responses.map Response.tag)
  withheld : ((s.outstanding.filter fun o => !o.queued).map Outstanding.tag).Perm (withheldTags s)
  openLine : OpenLineNeedsSetup s

/-- A context has a step in flight (R147). -/
def hasStep : PortContext → Bool
  | .preparing _ => true
  | .offered .. => true
  | .draining .. => true
  | _ => false

/-- A ceremony is open. -/
def ceremonyOpen (s : State) : Bool :=
  match s.ceremony.run with
  | .work _ => true
  | _ => false

/-- What the journal in the secure store keeps whatever happens to power (R181): one reservation at most for each holder, a
bench port's reservation together with the port's pending-step record, occupancy at most 511, one TAMPER record at most. -/
def StoreBooked (s : State) : Prop :=
  s.journal.reservations.Nodup
    ∧ (∀ p, ResHolder.bench p ∈ s.journal.reservations ↔ (s.step p).isSome = true)
    ∧ s.journal.occupancy ≤ 511
    ∧ (tamperRecords s).length ≤ 1

/-- An open ASSEMBLE holds its target slot, and in VERIFYING its combined key (R39, R42, R51). -/
def AssembleReady (s : State) (w : CeremonyWork) : Prop :=
  ∀ slot cls length count keySet, w.params = .assemble slot cls length count keySet →
    (s.slot slot).content = .assembling .ceremony ∧ (newKeyUse cls keySet).isSome = true
      ∧ (w.phase = .verifying → w.combined.isSome = true)

/-- An open ERASE names a slot that holds a key; one that is DRAINING has both acceptances and no window (R44, R54). -/
def EraseReady (s : State) (w : CeremonyWork) : Prop :=
  (∀ slot, w.params = .erase slot → (s.slot slot).content.key?.isSome = true)
    ∧ (w.phase = .draining → w.approvers.isSome = true ∧ w.window = none)

/-- A slot is ERASING only for the DRAINING ceremony that names it (R16, R54). -/
def ErasingOwned (s : State) : Prop :=
  ∀ i k, (s.slot i).content = .erasing k →
    ∃ w, s.ceremony.run = .work w ∧ w.params = .erase i ∧ w.phase = .draining

/-- A session is open only while the line is LIVE or PAUSED (R158). -/
def SessionsNeedLine (s : State) : Prop := ∀ p, inSession (s.ctx p) = true → s.line = .live ∨ s.line = .paused

/-- A stream is RECEIVING only while the line is SETUP (R96). -/
def StreamNeedsSetup (s : State) : Prop := s.stream ≠ none → s.line = .setup

/-- Each holder of a reservation holds it exactly while its work is in flight (R181), and what that rests on. -/
structure WorkBooked (s : State) : Prop where
  steps : ∀ p, hasStep (s.ctx p) = (s.step p).isSome
  ceremony : ResHolder.ceremony ∈ s.journal.reservations ↔ ceremonyOpen s = true
  importUnit : ResHolder.importUnit ∈ s.journal.reservations ↔ s.importWork.isSome = true
  advance : ResHolder.counterAdvance ∉ s.journal.reservations
  assemble : ∀ w, s.ceremony.run = .work w → AssembleReady s w
  erase : ∀ w, s.ceremony.run = .work w → EraseReady s w
  erasing : ErasingOwned s
  target : ∀ w, s.importWork = some w → w.zeroised = false → (s.slot w.target).content = .assembling .importUnit
  sessions : SessionsNeedLine s
  stream : StreamNeedsSetup s
  setup : s.line = .setup → ∀ p, hasStep (s.ctx p) = false

/-- The journal's book-keeping (R181): what the store keeps always holds, and while the part runs every reservation belongs
to work in flight. -/
def JournalBooked (s : State) : Prop := StoreBooked s ∧ (s.running = true → WorkBooked s)

/-- Every in-use count equals the claims of the work in flight (R8). -/
def CountsExact (s : State) : Prop := s.running = true → ∀ i, (s.slot i).inUse = claims s i

/-- The next counter of a base derivation key is below 1,048,576 in ACTIVE, is 1,048,576 in EXHAUSTED, and never exceeds it
(R1, R3, R10). -/
def CountersInRange (s : State) : Prop :=
  ∀ i keySet next, derivationFields (s.slot i) = some (keySet, next) →
    next ≤ 1048576
      ∧ (∀ k, (s.slot i).content = .active k → next < 1048576)
      ∧ (∀ k, (s.slot i).content = .exhausted k → next = 1048576)

/-- A ZEROISED part holds no key and does no work that could take one (R18, R103, R104). -/
def NothingHeld (s : State) : Prop :=
  s.line = .zeroised →
    (∀ i, (s.slot i).content = .empty) ∧ ceremonyOpen s = false ∧ s.stream = none
      ∧ ∀ w, s.importWork = some w → w.zeroised = true

/-- A place of the registry is in order: its entry stands in the row of its serial, no other place holds that serial, and it
is LOADING exactly when it is bound (R109, R110, R112). -/
def RegistryPlaced (s : State) : Prop :=
  ∀ i e, s.registry.get i = some e →
    i ∈ rowPositions (rowOf e.serial)
      ∧ (∀ j f, s.registry.get j = some f → f.serial = e.serial → j = i)
      ∧ (e.state = .loading ↔ e.boundPort.isSome = true)

/-- Logons are in order while the part runs: who is logged on is ENROLLED, at one link only, at a console that is present
(R27, R33). -/
def LogonsHeld (s : State) : Prop :=
  s.running = true → ∀ l c, LoggedOn l c s →
    (s.console l).present = true
      ∧ (∃ e, s.custodian c = some e ∧ e.lock = .enrolled)
      ∧ ∀ k, LoggedOn k c s → k = l

/-- The transmit queue of a custodian link holds at most 8 messages, at most 4 answers counting one withheld (R200, R201). -/
def ConsoleQueuesBounded (s : State) : Prop :=
  ∀ l, (s.console l).tx.length ≤ 8 ∧ (s.console l).answersDue ≤ 4

/-- The Cipher Engine's record is in order: it is never FREE while a job is pending, each pending job stands under its own
requester, and the running job is the one last granted (R132). -/
def EngineOrdered (s : State) : Prop :=
  (s.engine.running = none → ∀ r, s.engine.waiting.get r = none)
    ∧ (∀ r j, s.engine.waiting.get r = some j → j.requester = r)
    ∧ (∀ j, s.engine.running = some j → j.requester = s.engine.lastGranted)

/-! ### The end of an import (R13, R68, R70-R72, R143) -/

/-- A bank envelope is the wrap of some key under the transport key: its wrapped key is that key's, under the fields before it, and
its authenticator that of every field before it (R138). -/
def Authentic (transport : KeyBytes) (e : BankEnvelope) : Prop :=
  (∃ key, e.wrapped = wrappedBytes transport e.header key) ∧ e.authenticator = authenticator transport e.covered

/-- The second envelope is the first with something changed: its authenticator; or the fields before the wrapped key, any of them;
or up to 8 bytes of the wrapped key that stand together. -/
inductive Changed (e e' : BankEnvelope) : Prop where
  | authenticator : e'.covered = e.covered → e'.authenticator ≠ e.authenticator → Changed e e'
  | fields : e'.authenticator = e.authenticator → e'.wrapped = e.wrapped → e'.header ≠ e.header → Changed e e'
  | wrapped (before part changed after : List Byte) : e'.authenticator = e.authenticator → e'.header = e.header →
      e.wrapped = before ++ part ++ after → e'.wrapped = before ++ changed ++ after → part.length = changed.length →
      part.length ≤ 8 → part ≠ changed → Changed e e'

/-- What an authentic envelope gives can be installed in a target as the key `held`: its class is one of the three and in the
class set of the target's region, its length is 16 or 32 and the wrapped key's size less 8, and a key set number is there
exactly for BASE_DERIVATION, whose next counter starts at 0. The key is the one the transport key recovers (R13, R68, R138,
R143). -/
def Installable (target : SlotIx) (transport : KeyBytes) (e : BankEnvelope) (held : HeldKey) (s : State) : Prop :=
  ∃ c r, classOf? e.cls.toNat = some c ∧ regionOf target s = some r ∧ r.admits c = true
    ∧ (e.length = 16 ∨ e.length = 32) ∧ e.length + 8 = e.wrapped.length
    ∧ held.length = e.length ∧ held.material = recoveredKey transport e.header e.wrapped
    ∧ held.kcv = Config.kcv held.material
    ∧ ((c = .transport ∧ e.keySet = none ∧ held.use = .transport)
      ∨ (c = .working ∧ e.keySet = none ∧ held.use = .working)
      ∨ (c = .baseDerivation ∧ ∃ number, e.keySet = some number ∧ held.use = .baseDerivation number 0))

/-- The records of some bodies written one after the other, the first with this sequence number (R178). -/
def numbered : Nat → List RecordBody → List Record
  | _, [] => []
  | n, body :: rest => { sequence := n, body := body } :: numbered (if n = 4294967295 then 1 else n + 1) rest

/-- The import has failed: its target is given back, the IMPORT is answered, and no record is written but those `after`, which
the release of its transport slot may write (R14, R71, R72). -/
def ImportFailed (status : Status) (w : ImportWork) (after : List RecordBody) (s t : State) : Prop :=
  t.slot w.target = { s.slot w.target with
      content := if (s.slot w.target).content = .assembling .importUnit then .empty else (s.slot w.target).content }
    ∧ t.journal.records = s.journal.records ++ numbered s.journal.nextSequence after
    ∧ t.responses = s.responses ++
      [{ tag := w.tag, kind := 0x20, status := status, changed := false, body := .nothing }]

/-- The import has installed its key: the target is ACTIVE with it and its generation one higher, the record is written before
those `after`, and the IMPORT is answered OK (R13, R70, R72). -/
def ImportInstalled (held : HeldKey) (w : ImportWork) (after : List RecordBody) (s t : State) : Prop :=
  t.slot w.target = { s.slot w.target with content := .active held, generation := (s.slot w.target).generation + 1 }
    ∧ t.journal.records = s.journal.records ++ numbered s.journal.nextSequence
      (.keyInstalled w.target ((s.slot w.target).generation + 1) held.use.cls held.kcv
        (.imported w.transport w.transportGen) :: after)
    ∧ t.responses = s.responses ++
      [{ tag := w.tag, kind := 0x20, status := .ok, changed := false
         body := .imported w.target ((s.slot w.target).generation + 1) held.use.cls held.length held.kcv }]

/-- From `s` to `t`, an import has ended by the result of its UNWRAP job, decided in the order of R71. -/
structure ImportEnded (transport : KeyBytes) (e : BankEnvelope) (w : ImportWork) (after : List RecordBody) (s t : State) :
    Prop where
  zeroised : w.zeroised = true → ImportFailed .zeroised w after s t
  unauthentic : w.zeroised = false → ¬Authentic transport e → ImportFailed .authFailed w after s t
  unusable : w.zeroised = false → Authentic transport e → (∀ held, ¬Installable w.target transport e held s) →
    ImportFailed .wrongClass w after s t
  installed : ∀ held, w.zeroised = false → Authentic transport e → Installable w.target transport e held s →
    ImportInstalled held w after s t

/-! ### Frames (R199, R210, R211) -/

/-- The body of the request a command is (R210). -/
def requestBody? : Instr → Option (List Byte)
  | .profileBegin _ | .profileAbandon _ | .linePause _ | .lineResume _ | .lineClose _ | .lineReset _ => some []
  | .profileBlock _ body | .importKey _ body => some body
  | .profileCommit _ check => some (beBytes 4 check.toNat)
  | .slotQuery _ slot | .counterRead _ slot => some (b1 slot)
  | .regAdd _ serial recipe => some (bString serial ++ bOpt b1 recipe)
  | .regQuery _ serial => some (bString serial)
  | .regSetState _ serial expected new => some (bString serial ++ b1 expected ++ b1 new)
  | .regRemove _ serial expected => some (bString serial ++ b1 expected)
  | .regScan _ position count => some (b1 position ++ b1 count)
  | .counterAdvance _ slot value => some (b1 slot ++ beBytes 4 value)
  | .journalRead _ count => some (b1 count)
  | .journalRelease _ sequence => some (beBytes 4 sequence)
  | .status _ clearSet clearCounts => some (beBytes 2 clearSet.toNat ++ bFlag clearCounts)
  | .setMask _ mask => some (beBytes 2 mask.toNat)
  | _ => none

/-- A request frame: tag, kind, body length, body, CRC-16 over all before it (R210). -/
def requestFrame (tag kind : Byte) (body : List Byte) : List Byte :=
  let covered := tag :: kind :: beBytes 2 body.length ++ body
  covered ++ beBytes 2 (crc16 covered).toNat

/-- The link, kind and body of the serial message a command is (R211). -/
def linkMessage? : Instr → Option (LinkId × Nat × List Byte)
  | .logon l number credential => some (.console l, 0x01, b1 number ++ bString credential)
  | .logoff l => some (.console l, 0x02, [])
  | .enrolFirst l number group credential => some (.console l, 0x03, b1 number ++ b1 group ++ bString credential)
  | .openAssemble l slot cls length count keySet =>
      some (.console l, 0x04, b1 1 ++ b1 slot ++ b1 cls ++ b1 length ++ b1 count ++ bOpt (beBytes 4) keySet)
  | .openErase l slot => some (.console l, 0x04, b1 2 ++ b1 slot)
  | .openOpenLine l => some (.console l, 0x04, b1 3)
  | .openEnrol l number group credential => some (.console l, 0x04, b1 4 ++ b1 number ++ b1 group ++ bString credential)
  | .openRevoke l number => some (.console l, 0x04, b1 5 ++ b1 number)
  | .openUnlock l number => some (.console l, 0x04, b1 6 ++ b1 number)
  | .component l value check => some (.console l, 0x05, bString value ++ beBytes 3 check.toNat)
  | .accept l => some (.console l, 0x06, [])
  | .reject l => some (.console l, 0x07, [])
  | .cancel l => some (.console l, 0x08, [])
  | .query l => some (.console l, 0x09, [])
  | .zeroise l => some (.console l, 0x0A, [])
  | .hello p serial model => some (.bench p, 0x01, bString serial ++ beBytes 4 model.toNat)
  | .fetch p index => some (.bench p, 0x02, b1 index)
  | .confirm p index kcv => some (.bench p, 0x03, b1 index ++ beBytes 3 kcv.toNat)
  | .bye p => some (.bench p, 0x04, [])
  | _ => none

/-- The bytes of a serial frame after its start byte: kind, length, body, CRC-16 (R199). -/
def frameAfterStart (kind : Nat) (body : List Byte) : List Byte :=
  let covered := b1 kind ++ b1 body.length ++ body
  covered ++ beBytes 2 (crc16 covered).toNat

/-! ### The ends of sessions (R153, R166, R167, R173, R174) -/

/-- The context of a port after its session has ended for a reason that leaves the terminal present. -/
def endedBy (reason : VoidReason) (s : State) (p : Port) : PortContext :=
  match s.ctx p with
  | .identified .. => .finished
  | .offered .. => .finished
  | .preparing _ => if jobPlace (benchRequester p) s = .running then .draining reason false else .finished
  | c => c

/-- The step of a port ends with its session: it is offered, or its job is not running (R166). -/
def stepEnds (s : State) (p : Port) : Bool :=
  match s.ctx p with
  | .offered .. => true
  | .preparing _ => decide (jobPlace (benchRequester p) s ≠ .running)
  | _ => false

/-- The claims on a slot of the steps that end with their sessions (R8, R162). -/
def endedClaims (s : State) (i : SlotIx) : Nat := (allPorts.map fun p => if stepEnds s p then stepClaims s i p else 0).sum

/-- The session of a context, in the three states that have one (R147). -/
def sessionOf? : PortContext → Option Session
  | .identified ss _ => some ss
  | .preparing ss => some ss
  | .offered ss _ => some ss
  | _ => none

/-- The entry of a session whose binding has ended unfinished: EXPECTED or PARTIAL by its delivered set, and aging again when it
is DISCOVERED and EXPECTED (R121). -/
def unboundEntry (e : Entry) : Entry :=
  { e with
    boundPort := none
    state := if e.delivered = 0 then .expected else .partialLoad
    unboundSince := if e.delivered = 0 ∧ e.origin = .discovered then some 0 else none }

/-- From `s` to `t`, every session has ended for one reason (R121, R130, R162, R166, R167, R173). -/
structure SessionsEnded (reason : VoidReason) (s t : State) : Prop where
  /-- every context is where its session's end leaves it -/
  contexts : ∀ p, t.ctx p = endedBy reason s p
  /-- an offered step is voided with its expected KCV -/
  offered : ∀ p ss timer ps, s.ctx p = .offered ss timer → s.step p = some ps →
    t.step p = none ∧ RecordBody.voided ps.facts ps.expected reason ∈ recordBodies t
  /-- a step whose job was pending is voided with no KCV, and its job is gone -/
  waiting : ∀ p ss ps, s.ctx p = .preparing ss → jobPlace (benchRequester p) s ≠ .running → s.step p = some ps →
    t.step p = none ∧ RecordBody.voided ps.facts none reason ∈ recordBodies t
      ∧ t.engine.waiting.get (benchRequester p) = none
  /-- a step whose job runs stays in flight -/
  running : ∀ p ss, s.ctx p = .preparing ss → jobPlace (benchRequester p) s = .running → t.step p = s.step p
  /-- HALT goes to each terminal that is present -/
  halted : ∀ p, inSession (s.ctx p) = true → (s.bench p).present = true → BenchOut.halt reason ∈ (t.bench p).tx
  /-- the entry of each session is unbound, and every other place of the registry is as it was -/
  unbound : RegistryPlaced s → ∀ i,
    (∀ e p ss, s.registry.get i = some e → sessionOf? (s.ctx p) = some ss → ss.serial = e.serial →
      t.registry.get i = some (unboundEntry e))
    ∧ ((∀ e p ss, s.registry.get i = some e → sessionOf? (s.ctx p) = some ss → ss.serial ≠ e.serial) →
      t.registry.get i = s.registry.get i)
  /-- the claims of the steps that ended have been given back -/
  released : ∀ i, (t.slot i).inUse = (s.slot i).inUse - endedClaims s i

/-- The record of a step that ends stands in the journal against the port's reservation: written at the newest end, followed at
most by a KEY_ERASED record of the same event, and the reservation is used (R162, R183, R191). -/
def StepRecorded (p : Port) (body : RecordBody) (s t : State) : Prop :=
  t.step p = none
    ∧ (∃ erased, t.journal.records
        = s.journal.records ++ { sequence := s.journal.nextSequence, body := body } :: erased ∧ erased.length ≤ 1
        ∧ ∀ r ∈ erased, ∃ i generation pair, r.body = .keyErased i generation pair)
    ∧ ResHolder.bench p ∉ t.journal.reservations

/-- Every claim of a step on its slots has been given back, and no slot but its two has changed (R8, R11). -/
def StepReleased (facts : StepFacts) (s t : State) : Prop :=
  (facts.source ≠ facts.cover →
      (t.slot facts.source).inUse = (s.slot facts.source).inUse - 1
        ∧ (t.slot facts.cover).inUse = (s.slot facts.cover).inUse - 1)
    ∧ (∀ i, i ≠ facts.source → i ≠ facts.cover → t.slot i = s.slot i)
    ∧ ∀ i, (t.slot i).generation = (s.slot i).generation
      ∧ ((∀ k, (s.slot i).content ≠ .erasing k) → (t.slot i).content = (s.slot i).content)

/-- From `s` to `t`, the session of one port has ended: its entry unbound, its step disposed of, HALT sent where the reason
asks for it, the other ports untouched (R121, R162, R166, R167). -/
structure SessionEnded (reason : VoidReason) (p : Port) (ss : Session) (s t : State) : Prop where
  registry : t.registry = modifyEntry ss.serial Entry.unbound s.registry
  others : ∀ q, q ≠ p → t.bench q = s.bench q
  context :
    t.ctx p =
      match s.ctx p with
      | .preparing _ =>
        if jobPlace (benchRequester p) s = .running then .draining reason (reason = .detached)
        else if reason = .detached then .vacant else .finished
      | _ => if reason = .detached then .vacant else .finished
  offered : ∀ ss' timer ps, s.ctx p = .offered ss' timer → s.step p = some ps →
    StepRecorded p (.voided ps.facts ps.expected reason) s t ∧ StepReleased ps.facts s t
  waiting : ∀ ss' ps, s.ctx p = .preparing ss' → jobPlace (benchRequester p) s ≠ .running → s.step p = some ps →
    StepRecorded p (.voided ps.facts none reason) s t ∧ StepReleased ps.facts s t
      ∧ t.engine.waiting.get (benchRequester p) = none
  running : ∀ ss', s.ctx p = .preparing ss' → jobPlace (benchRequester p) s = .running →
    t.store.steps = s.store.steps ∧ t.store.slots = s.store.slots ∧ t.journal = s.journal
      ∧ t.engine.running = s.engine.running.map fun j => { j with orphaned := true }
  halted : (s.bench p).present = true → (BenchOut.halt reason ∈ (t.bench p).tx ↔
    BenchOut.halt reason ∈ (s.bench p).tx ∨ reason = .idleTimeout ∨ reason = .lineClosed ∨ reason = .zeroised)
  fault : t.flags.getLsbD 5 = (s.flags.getLsbD 5 || decide (reason = .idleTimeout))
  kept : t.store.custodians = s.store.custodians ∧ t.profile = s.profile ∧ t.line = s.line
    ∧ t.importWork = s.importWork

/-! ### Rows of the registry (R114) -/

/-- A way is the lowest free one of a serial's row. -/
def FreeWay (serial : Serial) (way : Fin 4) (r : Registry) : Prop :=
  r.get (position (rowOf serial) way) = none
    ∧ ∀ lower, lower < way → r.get (position (rowOf serial) lower) ≠ none

/-- A serial's row has no free way, and a way holds its DISCOVERED EXPECTED entry that has been unbound longest, the lowest
such way among equals. -/
def VictimWay (serial : Serial) (way : Fin 4) (e : Entry) (r : Registry) : Prop :=
  (∀ v, r.get (position (rowOf serial) v) ≠ none)
    ∧ r.get (position (rowOf serial) way) = some e ∧ e.origin = .discovered ∧ e.state = .expected
    ∧ ∀ v f, r.get (position (rowOf serial) v) = some f → f.origin = .discovered → f.state = .expected →
      (v < way → f.unboundSince.getD 0 < e.unboundSince.getD 0) ∧ f.unboundSince.getD 0 ≤ e.unboundSince.getD 0

/-- Every way of a serial's row holds an entry that may not be evicted. -/
def RowFull (serial : Serial) (r : Registry) : Prop :=
  ∀ v, ∃ e, r.get (position (rowOf serial) v) = some e ∧ ¬(e.origin = .discovered ∧ e.state = .expected)

/-- No place holds a serial. -/
def Absent (serial : Serial) (r : Registry) : Prop := ∀ i e, r.get i = some e → e.serial ≠ serial

/-! ### The staged blocks (R82, R88-R94, R214) -/

/-- A body is the line parameters `p`, every one in its range (R88, R214). -/
def ParamsBody (body : List Byte) (p : LineParams) : Prop :=
  body = b1 (match p.policy with | .manifestOnly => 1 | .openPolicy => 2) ++ beBytes 2 p.sessionIdle ++ b1 p.retry
      ++ beBytes 2 p.window ++ beBytes 2 p.custodianIdle ++ beBytes 2 p.ageLimit ++ beBytes 2 p.highMark
      ++ beBytes 2 p.lowMargin
    ∧ (5 ≤ p.sessionIdle ∧ p.sessionIdle ≤ 120) ∧ (1 ≤ p.retry ∧ p.retry ≤ 7) ∧ (30 ≤ p.window ∧ p.window ≤ 900)
    ∧ (60 ≤ p.custodianIdle ∧ p.custodianIdle ≤ 1800) ∧ (60 ≤ p.ageLimit ∧ p.ageLimit ≤ 3600)
    ∧ (16 ≤ p.highMark ∧ p.highMark ≤ 511) ∧ p.lowMargin ≤ 65535

/-- A body is a table of 8 port entries (R89, R214). -/
def PortsBody (body : List Byte) (ports : Tab PortEntry 8) : Prop :=
  body = ports.data.flatMap fun e => bFlag e.attach ++ beBytes 2 e.allowed.toNat

/-- A region descriptor as bytes (R214). -/
def regionBytes (r : Region) : List Byte :=
  b1 r.number ++ b1 r.base ++ b1 r.size ++ b1 r.classes.toNat ++ bFlag r.ceremonyWritable ++ bFlag r.importWritable
    ++ b1 r.ports.toNat

/-- A body is a table of 1 to 8 valid regions, no two with one number or one slot (R90, R214). -/
def RegionsBody (body : List Byte) (regions : List Region) : Prop :=
  body = bList regionBytes regions ∧ 1 ≤ regions.length ∧ regions.length ≤ 8
    ∧ (∀ r ∈ regions, r.number < 8 ∧ r.size ∈ [4, 8, 16, 32, 64] ∧ r.size ∣ r.base ∧ r.base + r.size ≤ 64)
    ∧ regions.Pairwise fun r q => r.number ≠ q.number ∧ (r.base + r.size ≤ q.base ∨ q.base + q.size ≤ r.base)

/-- A recipe step as bytes (R92, R214). -/
def stepBytes (x : RecipeStep) : List Byte :=
  b1 x.terminalSlot ++ b1 (match x.kind with | .shared => 1 | .derived => 2) ++ b1 x.source.val ++ b1 x.usage

/-- A body is a valid recipe (R91, R92, R214). -/
def RecipeBody (body : List Byte) (r : Recipe) : Prop :=
  body = b1 r.number.val ++ beBytes 2 r.version ++ beBytes 4 r.model.toNat ++ b1 r.cover.val ++ bList stepBytes r.steps
    ∧ 1 ≤ r.version ∧ r.version ≤ 65535 ∧ 1 ≤ r.steps.length ∧ r.steps.length ≤ 12
    ∧ (∀ x ∈ r.steps, x.terminalSlot < 32 ∧ x.usage < 16) ∧ (r.steps.map RecipeStep.terminalSlot).Nodup

/-- The body of the block staged at a place is 1 to 64 manifest lines with serials of 1 to 16 bytes (R94, R214). -/
def ManifestBody (place : Nat) (body : List Byte) (lines : List ManifestLine) : Prop :=
  body = bList (fun x => bString x.serial ++ bOpt (fun n : Fin 16 => b1 n.val) x.recipe) lines
    ∧ 1 ≤ lines.length ∧ lines.length ≤ 64
    ∧ ∀ x ∈ lines, x.place = place ∧ 1 ≤ x.serial.length ∧ x.serial.length ≤ 16

/-- The staged blocks with their staging positions, in staging order. -/
def positioned (staged : List StagedBlock) : List (Nat × StagedBlock) := (List.range staged.length).zip staged

/-- The staged blocks of a kind with their positions. -/
def blocksOf (kind : Byte) (staged : List StagedBlock) : List (Nat × StagedBlock) :=
  (positioned staged).filter fun x => x.2.kind == kind

/-- A kind every profile needs is not among the staged blocks (R82). -/
def MissingBlock (staged : List StagedBlock) : Prop := ∃ kind ∈ [1#8, 2#8, 3#8, 4#8], ∀ b ∈ staged, b.kind ≠ kind

/-- The block at position `k` is the second of a pair: of one table, or of recipes that carry one number (R82). A recipe body of no
byte carries none (log entry 33). -/
def Repeats (staged : List StagedBlock) (k : Nat) : Prop :=
  ∃ j x y, j < k ∧ staged[j]? = some x ∧ staged[k]? = some y ∧ x.kind = y.kind
    ∧ (x.kind ∈ [1#8, 2#8, 3#8] ∨ x.kind = 4 ∧ ∃ n, x.body.head? = some n ∧ y.body.head? = some n)

/-- The recipe at position `k` is not valid, or carries the model code of an earlier one (R82). -/
def BadRecipe (staged : List StagedBlock) (k : Nat) : Prop :=
  ∃ b, (k, b) ∈ blocksOf 4 staged
    ∧ ∀ r, RecipeBody b.body r → ∃ j c q, j < k ∧ (j, c) ∈ blocksOf 4 staged ∧ RecipeBody c.body q ∧ q.model = r.model

/-- The recipes staged are these, in staging order. -/
def RecipesStaged (staged : List StagedBlock) (recipes : List Recipe) : Prop :=
  List.Forall₂ (fun x r => RecipeBody x.2.body r) (blocksOf 4 staged) recipes

/-- A recipe number is that of one of these recipes. -/
def Names (recipes : List Recipe) (n : Fin 16) : Prop := ∃ r ∈ recipes, r.number = n

/-- The port table does not read, or allows a recipe that is not staged (R82, R89). -/
def BadPorts (recipes : List Recipe) (body : List Byte) : Prop :=
  ∀ ports, PortsBody body ports → ∃ p n, (ports.get p).allowed.getLsbD n.val = true ∧ ¬Names recipes n

/-- The manifest lines of the blocks before position `k`, in staging and line order. -/
def LinesBefore (staged : List StagedBlock) (k : Nat) (lines : List ManifestLine) : Prop :=
  ∃ parts, List.Forall₂ (fun x part => ManifestBody x.1 x.2.body part)
      ((blocksOf 5 staged).filter fun x => x.1 < k) parts ∧ lines = parts.flatten

/-- Lines that the manifest check passes: serials all different, 256 lines at most, recipe numbers staged (R82, R94). -/
def LinesGood (recipes : List Recipe) (lines : List ManifestLine) : Prop :=
  (lines.map ManifestLine.serial).Nodup ∧ lines.length ≤ 256 ∧ ∀ x ∈ lines, ∀ n, x.recipe = some n → Names recipes n

/-- The manifest block at position `k` does not read, or its lines fail the check after those before it (R82, R94). -/
def BadManifest (staged : List StagedBlock) (recipes : List Recipe) (k : Nat) : Prop :=
  ∃ b, (k, b) ∈ blocksOf 5 staged
    ∧ ∀ before lines, LinesBefore staged k before → ManifestBody k b.body lines → ¬LinesGood recipes (before ++ lines)

/-- The first position with a property. -/
def FirstWith (p : Nat → Prop) (k : Nat) : Prop := p k ∧ ∀ j, j < k → ¬p j

/-- The staged blocks read as this profile and these manifest lines and pass every check but the trial (R82, R88-R94). -/
structure Validates (staged : List StagedBlock) (profile : Profile) (lines : List ManifestLine) : Prop where
  present : ¬MissingBlock staged
  single : ∀ k, ¬Repeats staged k
  regions : ∃ x ∈ blocksOf 3 staged, RegionsBody x.2.body profile.regions
  recipes : RecipesStaged staged profile.recipes
  models : (profile.recipes.map Recipe.model).Nodup
  ports : ∃ x ∈ blocksOf 2 staged, PortsBody x.2.body profile.ports
  allowed : ∀ p n, (profile.ports.get p).allowed.getLsbD n.val = true → Names profile.recipes n
  params : ∃ x ∈ blocksOf 1 staged, ParamsBody x.2.body profile.params
  manifest : LinesBefore staged staged.length lines
  good : LinesGood profile.recipes lines

/-- Validation fails with a code and the position of the block it names, the checks taken in the order of R82. -/
inductive Invalid (staged : List StagedBlock) : Status → Option Nat → Prop
  | missing : MissingBlock staged → Invalid staged .missingBlock none
  | duplicate {k} : ¬MissingBlock staged → FirstWith (Repeats staged) k → Invalid staged .duplicateBlock (some k)
  | region {k b} : ¬MissingBlock staged → (∀ k, ¬Repeats staged k) → (k, b) ∈ blocksOf 3 staged →
      (∀ regions, ¬RegionsBody b.body regions) → Invalid staged .badRegion (some k)
  | recipe {k x regions} : ¬MissingBlock staged → (∀ k, ¬Repeats staged k) → x ∈ blocksOf 3 staged →
      RegionsBody x.2.body regions → FirstWith (BadRecipe staged) k → Invalid staged .badRecipe (some k)
  | port {k b x regions recipes} : ¬MissingBlock staged → (∀ k, ¬Repeats staged k) → x ∈ blocksOf 3 staged →
      RegionsBody x.2.body regions → (∀ k, ¬BadRecipe staged k) → RecipesStaged staged recipes →
      (k, b) ∈ blocksOf 2 staged → BadPorts recipes b.body → Invalid staged .badPort (some k)
  | range {k b x y regions recipes} : ¬MissingBlock staged → (∀ k, ¬Repeats staged k) → x ∈ blocksOf 3 staged →
      RegionsBody x.2.body regions → (∀ k, ¬BadRecipe staged k) → RecipesStaged staged recipes →
      y ∈ blocksOf 2 staged → ¬BadPorts recipes y.2.body → (k, b) ∈ blocksOf 1 staged →
      (∀ params, ¬ParamsBody b.body params) → Invalid staged .range (some k)
  | manifest {k x y z regions recipes params} : ¬MissingBlock staged → (∀ k, ¬Repeats staged k) →
      x ∈ blocksOf 3 staged → RegionsBody x.2.body regions → (∀ k, ¬BadRecipe staged k) →
      RecipesStaged staged recipes → y ∈ blocksOf 2 staged → ¬BadPorts recipes y.2.body → z ∈ blocksOf 1 staged →
      ParamsBody z.2.body params → FirstWith (BadManifest staged recipes) k → Invalid staged .badManifest (some k)

/-! ### The manifest and the registry (R83, R86, R115) -/

/-- First pass: the entry of a serial that the manifest names is pinned, and takes the recipe number given when it is EXPECTED;
every other entry stays (R86). -/
def Pinned (lines : List ManifestLine) (r pinned : Registry) : Prop :=
  ∀ i,
    (∀ e x, r.get i = some e → x ∈ lines → x.serial = e.serial →
      pinned.get i = some { e with
        origin := .manifest
        recipe := if e.state = .expected ∧ x.recipe ≠ none then x.recipe else e.recipe
        unboundSince := none })
    ∧ ((∀ e x, r.get i = some e → x ∈ lines → x.serial ≠ e.serial) → pinned.get i = r.get i)

/-- Second pass: each line whose serial is absent goes into the lowest free way of its row, or over the row's victim; the numbers
are those of the serials inserted and of the entries evicted (R83, R84, R86). -/
inductive Inserts : List ManifestLine → Registry → Registry → Nat → Nat → Prop
  | done {r} : Inserts [] r r 0 0
  | present {x rest r t n m} : ¬Absent x.serial r → Inserts rest r t n m → Inserts (x :: rest) r t n m
  | free {x rest r t n m way} : Absent x.serial r → FreeWay x.serial way r →
      Inserts rest (r.set (position (rowOf x.serial) way) (some (newEntry x.serial .manifest x.recipe))) t n m →
      Inserts (x :: rest) r t (n + 1) m
  | evict {x rest r t n m way e} : Absent x.serial r → VictimWay x.serial way e r →
      Inserts rest (r.set (position (rowOf x.serial) way) (some (newEntry x.serial .manifest x.recipe))) t n m →
      Inserts (x :: rest) r t (n + 1) (m + 1)

/-- The trial fails at a line of the block at position `k`: its serial is absent and its row is full once the lines before it have
been tried (R83). -/
def NoRoom (lines : List ManifestLine) (r : Registry) (k : Nat) : Prop :=
  ∃ before x after pinned t n m, lines = before ++ x :: after ∧ x.place = k ∧ Pinned lines r pinned
    ∧ Inserts before pinned t n m ∧ Absent x.serial t ∧ RowFull x.serial t

/-- A place of the registry once the entries that have waited the age limit are removed (R88, R115). -/
def notAged (limit : Nat) (e : Entry) : Option Entry :=
  match e.unboundSince with
  | some time => if limit ≤ time then none else some e
  | none => some e

/-! ### HELLO (R154-R157) -/

/-- A HELLO refused for the terminal: the VERDICT is sent and the context is FINISHED (R154). -/
def refusedTerminal (p : Port) (st : Status) (s : State) : State := (verdictTo p st s).setCtx p .finished

/-- The recipe resolved for an entry: its recipe number's, or the model code's when it has none (R156). -/
def resolvedRecipe (e : Entry) (model : ModelCode) (s : State) : Option Recipe :=
  match e.recipe with
  | some n => recipeNumbered n s
  | none => recipeForModel model s

/-- A recipe number is in the port's allowed recipe set (R89, R156). -/
def allowedAt (p : Port) (n : Fin 16) (s : State) : Prop :=
  ∃ pr, s.profile = some pr ∧ (pr.ports.get p).allowed.getLsbD n.val = true

/-- From `s`, where place `i` holds the EXPECTED or PARTIAL entry `e` of the HELLO, to `t`: the checks of R156 in order, and
the binding of R157. -/
structure HelloJudged (p : Port) (model : ModelCode) (i : RegIx) (e : Entry) (s t : State) : Prop where
  noSuchRecipe : resolvedRecipe e model s = none →
    t = refusedTerminal p (if e.recipe = none then .modelMismatch else .recipeNotAllowed) s
  notAllowed : ∀ r, resolvedRecipe e model s = some r → ¬allowedAt p r.number s →
    t = refusedTerminal p .recipeNotAllowed s
  otherModel : ∀ r, resolvedRecipe e model s = some r → allowedAt p r.number s → r.model ≠ model →
    t = refusedTerminal p .modelMismatch s
  changed : ∀ r, resolvedRecipe e model s = some r → allowedAt p r.number s → r.model = model →
    e.state ≠ .expected → e.version ≠ some r.version → t = refusedTerminal p .recipeChanged s
  /-- every step is in the delivered set: the entry becomes COMPLETE -/
  complete : ∀ r, resolvedRecipe e model s = some r → allowedAt p r.number s → r.model = model →
    e.state = .expected ∨ e.version = some r.version → (∀ k, k < r.steps.length → e.delivered.getLsbD k = true) →
    t = refusedTerminal p .alreadyComplete
      (s.setRegistry (s.registry.set i (some { e with state := .complete, unboundSince := none })))
  /-- a step is missing: the entry is LOADING at the port, the session is open -/
  opened : ∀ r, resolvedRecipe e model s = some r → allowedAt p r.number s → r.model = model →
    e.state = .expected ∨ e.version = some r.version → (∃ k, k < r.steps.length ∧ e.delivered.getLsbD k = false) →
    t = sentTo p
      (.welcome r.number r.version r.steps.length
        ((List.range r.steps.length).filter fun k => !e.delivered.getLsbD k))
      ((s.setRegistry (s.registry.set i (some
        { e with
          state := .loading
          boundPort := some p
          version := some r.version
          recipe := if e.state = .expected then some r.number else e.recipe
          unboundSince := none }))).setCtx p (.identified
        { serial := e.serial, recipe := r.number, version := r.version, stepCount := r.steps.length, cover := r.cover }
        { count := 0, limit := sessionIdleLimit s }))

/-- The class a step's type needs of its source key, and the key set number and counter a DERIVED step takes (R9, R10). -/
def SourceFits (kind : StepType) (key : HeldKey) (derivation : Option (Nat × Nat)) : Prop :=
  (kind = .shared ∧ key.use = .working ∧ derivation = none)
    ∨ (kind = .derived ∧ ∃ keySet next, key.use = .baseDerivation keySet next ∧ derivation = some (keySet, next))

/-- The slot's region grants the port (R6, R9). -/
def granted (i : SlotIx) (p : Port) (s : State) : Prop :=
  ∃ r, regionOf i s = some r ∧ r.ports.getLsbD p.val = true

/-- The inputs of the PREPARE job of an admitted step (R139, R140). -/
def prepareInputs (source cover : KeyBytes) (derivation : Option (Nat × Nat)) (terminalSlot usage : Nat) : JobInputs :=
  match derivation with
  | none => .prepareShared source cover terminalSlot usage
  | some (keySet, counter) => .prepareDerived source keySet counter cover terminalSlot usage

/-- An envelope carries a key wrapped under a cover key: 8 bytes longer than the key, which a holder of the cover key recovers, with
the authenticator of every field before it (R138, R144). -/
def WrappedUnder (cover : KeyBytes) (e : TerminalEnvelope) (key : KeyBytes) : Prop :=
  let header := terminalHeader e.terminalSlot e.usage e.length e.derivation
  e.wrapped = wrappedBytes cover header key ∧ e.wrapped.length = key.length + 8 ∧ recoveredKey cover header e.wrapped = key
    ∧ e.authenticator = authenticator cover (header ++ e.wrapped)

/-! ### Steps (R9, R10, R160) -/

/-- The journal reservation of a FETCH is granted and its admission made: both in-use counts rise, and a DERIVED step takes the
next counter of its source (R8, R9, R10, R159, R182, R187). -/
def admitted (p : Port) (source cover : SlotIx) (derivation : Option (Nat × Nat)) (s : State) : State :=
  let r := reserved (.bench p) s
  let raised := (r.setSlot source { s.slot source with inUse := (s.slot source).inUse + 1 }).setSlot cover
    { s.slot cover with inUse := (s.slot cover).inUse + 1 }
  match derivation with
  | none => raised
  | some (keySet, counter) =>
    State.setFlagIf (withinLowMargin (counter + 1) s) .counterLow
      (State.setFlagIf (counter = 1048575) .counterExhausted
        (raised.setSlot source
          { s.slot source with
            inUse := (s.slot source).inUse + 1
            content := match (s.slot source).content.key? with
              | some k =>
                if counter = 1048575 then .exhausted { k with use := .baseDerivation keySet (counter + 1) }
                else .active { k with use := .baseDerivation keySet (counter + 1) }
              | none => (s.slot source).content }))

/-- A job is requested: granted at once by a FREE engine, pending at a BUSY one (R134). -/
def requested (r : Fin 10) (inputs : JobInputs) (e : Engine) : Engine :=
  let job : Job := { requester := r, inputs := inputs, orphaned := false, zeroised := false }
  match e.running with
  | none => { e with running := some job, lastGranted := r }
  | some _ => { e with waiting := e.waiting.set r (some job) }

/-! ### Reset and zeroise (R103, R107) -/

/-- The VOIDED records of a reset, port 0 first (R175). -/
def voidedAtReset (cause : ResetCause) (s : State) : List RecordBody :=
  allPorts.filterMap fun p =>
    (s.step p).map fun ps =>
      .voided ps.facts ps.expected (if cause = .powerOn ∨ cause = .storeLost then .powerLost else .reset)

/-- The content of a slot after a reset, by the table of R22. -/
def slotReset : SlotContent → SlotContent
  | .empty => .empty
  | .assembling _ => .empty
  | .active k => .active k
  | .exhausted k => .exhausted k
  | .erasing k => if k.use.cls = .baseDerivation ∧ k.use.nextCounter? = some 1048576 then .exhausted k else .active k

/-- A place of the registry after a reset: a LOADING entry is EXPECTED or PARTIAL by its delivered set, every bound port is
removed, and a DISCOVERED entry with nothing delivered is gone in any state (R129). -/
def entryReset (e : Entry) : Option Entry :=
  if e.origin = .discovered ∧ e.delivered = 0 then none
  else if e.state = .loading then
    some { e with
      boundPort := none, state := if e.delivered = 0 then .expected else .partialLoad, unboundSince := none }
  else some { e with boundPort := none }

/-- The state of a port context after a reset (R87, R176). -/
def contextReset (profile : Option Profile) (p : Port) (present : Bool) : PortContext :=
  match profile with
  | none => .off
  | some pr => if (pr.ports.get p).attach = false then .off else if present then .attached else .vacant

/-- The records of the journal with the TAMPER record counted once more, up to 255 (R186). -/
def tamperCounted (s : State) : List RecordBody :=
  (recordBodies s).map fun body => match body with
    | .tamper cause n => .tamper cause (if n < 255 then n + 1 else n)
    | other => other

/-- From `s` to `t`, the part has been reset with its store intact (R107, and R22, R38, R64, R75, R76, R129, R146, R176,
R192, R195, R199, R201, R207). -/
structure ResetTo (cause : ResetCause) (s t : State) : Prop where
  reported : t.resetCause = cause
  running : t.running = true
  ceremony : t.ceremony = { run := .idle, last := none }
  importWork : t.importWork = none
  stream : t.stream = none
  engine : t.engine.running = none ∧ (∀ r, t.engine.waiting.get r = none) ∧ t.engine.lastGranted = 9
  port : t.outstanding = [] ∧ t.responses = []
  attention : t.mask = 0xA01#12 ∧ t.frameErrors = 0 ∧ t.overruns = 0
  consoles : ∀ l, t.console l = { s.console l with logon := none, unanswered := false, rx := .idle, tx := [] }
  benches : ∀ p, t.bench p =
    { s.bench p with ctx := contextReset s.profile p (s.bench p).present, rx := .idle, tx := [] }
  steps : ∀ p, t.step p = none
  reservations : t.journal.reservations = []
  counts : ∀ i, (t.slot i).inUse = 0 ∧ (t.slot i).generation = (s.slot i).generation
  registry : ∀ i, t.registry.get i = (s.registry.get i).bind entryReset
  kept : t.store.custodians = s.store.custodians ∧ t.profile = s.profile
  /-- with the latch clear and the cover closed the line is SETUP, and only the VOIDED records have joined the journal -/
  quiet : s.store.tamperLatch = false → s.tamperLine = false →
    t.line = .setup ∧ t.flags = 0x200#12 ∧ (∀ i, (t.slot i).content = slotReset (s.slot i).content)
      ∧ recordBodies t = recordBodies s ++ voidedAtReset cause s
  /-- with the latch set or the cover open a zeroise has followed: its TAMPER record stands after the VOIDED records, or the one
  the journal held is counted -/
  tampered : s.store.tamperLatch = true ∨ s.tamperLine = true →
    t.line = .zeroised ∧ t.flags = 0xA00#12 ∧ (∀ i, (t.slot i).content = .empty) ∧ t.store.tamperLatch = false
      ∧ (tamperRecords s = [] → recordBodies t = recordBodies s ++ voidedAtReset cause s
        ++ [.tamper (if s.store.tamperLatch then .tamperLine else .resetWhileAsserted) 1])
      ∧ (tamperRecords s ≠ [] → recordBodies t = tamperCounted s ++ voidedAtReset cause s)

/-- From `s` to `t`, the part has been zeroised for a cause (R103, R104). -/
structure ZeroisedTo (cause : TamperCause) (s t : State) : Prop where
  line : t.line = .zeroised
  slots : ∀ i, (t.slot i).content = .empty ∧ (t.slot i).generation = (s.slot i).generation
  ceremony : ceremonyOpen t = false
  aborted : ∀ w, s.ceremony.run = .work w →
    t.ceremony.last = some { kind := w.params.kind, aborted := some .zeroised, named := w.params.named }
      ∧ t.flags.getLsbD 10 = true
  /-- a COMPONENT that awaited its check is answered ZEROISED -/
  component : ∀ w u, s.ceremony.run = .work w → w.underCheck = some u → ComponentAnswered .zeroised u s t
  importWork : t.importWork = s.importWork.map fun w => { w with zeroised := true }
  stream : t.stream = none
  sessions : SessionsEnded .zeroised s t
  engine : (∀ j, t.engine.running = some j → j.zeroised = true)
    ∧ ∀ r j, t.engine.waiting.get r = some j → j.zeroised = true
  kept : t.store.custodians = s.store.custodians ∧ t.profile = s.profile ∧ t.mask = s.mask
  close : ∀ tag, s.line = .closing tag →
    { tag := tag, kind := 0x12, status := .zeroised, changed := false, body := .nothing } ∈ t.responses
  flags : t.flags.getLsbD 11 = true ∧ (s.line ≠ .zeroised → t.flags.getLsbD 9 = true)
  /-- the TAMPER record held is counted, or one with this cause and count 1 is written last -/
  tamper : (tamperRecords s = [] → t.journal.records.getLast?.map Record.body = some (.tamper cause 1))
    ∧ (tamperRecords s ≠ [] → tamperRecords t = (tamperRecords s).map Record.countTamper)

end Sys2Proof.Safety
end

