-- ==== Sys2Proof/Certificates/Slice0/Obligations.lean ====
section
/-! DEFINITION. The statements for the provers. Each names the rules of spec/ it rests on; where a clause rests on a choice of
the model, the docstring names the log entry. -/

open Sys2Proof Sys2Proof.Machine Sys2Proof.Safety

/-! ### The step -/

/-- The command at the front of the queue leaves it and runs. How commands wait is the model's choice (log entry 1). -/
def Obligations.StepRunsFrontCommand : Prop :=
  ∀ (c : Instr) (rest : List Instr) (s : State),
    step { s with pending := c :: rest } = exec c { s with pending := rest }

/-- With no command waiting, a part that does not run is left as it is, and one that runs counts one second (Conventions): the
idle timers of the logged-on custodians (R32) and of the sessions in IDENTIFIED and OFFERED (R170), the ceremony window (R57),
the wait of a receiver between two bytes (R199) and the unbound-since times (R115), those that run, rise by one, and nothing
else changes. The expiry row of each that has then counted its limit joins the queue once, and no other command does; a
receiver's limit is two seconds, an entry's the age limit of the profile. That a second is a step on an empty queue, and that
the order among the rows is left free, are the model's choices (log entries 1 and 3). -/
def Obligations.EmptyQueueCountsOneSecond : Prop :=
  ∀ s : State, s.pending = [] →
    (s.running = false → step s = .next s)
    ∧ (s.running = true → ∃ t, step s = .next t
      ∧ { t with
          pending := [], freeCount := s.freeCount, consoles := s.consoles, benches := s.benches, ceremony := s.ceremony
          store := { t.store with registry := s.registry } } = s
      ∧ (∀ l, t.console l = { s.console l with
          logon := (s.console l).logon.map fun g => { g with idle := oneMore g.idle }
          rx := receiverOneMore (s.console l).rx })
      ∧ (∀ p, t.bench p = { s.bench p with
          ctx := match s.ctx p with
            | .identified ss timer => .identified ss (oneMore timer)
            | .offered ss timer => .offered ss (oneMore timer)
            | other => other
          rx := receiverOneMore (s.bench p).rx })
      ∧ t.ceremony = { s.ceremony with run := match s.ceremony.run with
          | .work w => .work { w with window := w.window.map oneMore }
          | other => other }
      ∧ (∀ i, t.registry.get i =
        (s.registry.get i).map fun e => { e with unboundSince := e.unboundSince.map fun time => time + 1 })
      ∧ t.pending.Nodup
      ∧ ∀ c, c ∈ t.pending ↔
        (∃ l g, (s.console l).logon = some g ∧ g.idle.limit ≤ g.idle.count + 1 ∧ c = .custodianIdleExpiry l)
        ∨ (∃ p ss timer, (s.ctx p = .identified ss timer ∨ s.ctx p = .offered ss timer)
          ∧ timer.limit ≤ timer.count + 1 ∧ c = .sessionIdleExpiry p)
        ∨ (∃ w timer, s.ceremony.run = .work w ∧ w.window = some timer ∧ timer.limit ≤ timer.count + 1
          ∧ c = .windowExpiry)
        ∨ (∃ k bytes gap, receiver k s = .assembling bytes gap ∧ 2 ≤ gap + 1 ∧ c = .receiverTimeout k)
        ∨ ∃ i e time plan, s.registry.get i = some e ∧ e.unboundSince = some time ∧ s.profile = some plan
          ∧ plan.params.ageLimit ≤ time + 1 ∧ c = .entryAged i)

/-- Every command has an outcome of its own in every state: the part goes on, it never stops (R26, R197). A part that is
without main power, or held by the reset pin, takes no arrival, no expiry and no completion (R106; that an expiry or a
completion cannot come either is log entry 17). -/
def Obligations.EveryCommandIsAnswered : Prop :=
  ∀ (c : Instr) (s : State), (∃ t, exec c s = .next t)
    ∧ (s.running = false → changesLevel c = false → exec c s = .next s)

/-- The part right after reset, the secure store lost: every stored item at its initial value, the line SETUP, nothing
outstanding, LINE_STATE set and enabled (R108, R193, R195, R207). Which of the resets it stands for, and the levels of the
inputs, are the model's choice (log entry 4). -/
def Obligations.ResetStateValues : Prop :=
  State.reset.line = .setup ∧ State.reset.resetCause = .storeLost
    ∧ (∀ i, State.reset.slot i = { content := .empty, generation := 0, inUse := 0 })
    ∧ (∀ c, State.reset.custodian c = none) ∧ State.reset.profile = none ∧ (∀ i, State.reset.registry.get i = none)
    ∧ State.reset.journal = { records := [], nextSequence := 1, reservations := [] }
    ∧ (∀ p, State.reset.step p = none ∧ State.reset.ctx p = .off) ∧ State.reset.store.tamperLatch = false
    ∧ State.reset.ceremony = { run := .idle, last := none } ∧ State.reset.importWork = none ∧ State.reset.stream = none
    ∧ State.reset.engine.running = none ∧ (∀ r, State.reset.engine.waiting.get r = none)
    ∧ State.reset.engine.lastGranted = 9
    ∧ (∀ l, (State.reset.console l).logon = none ∧ (State.reset.console l).unanswered = false
      ∧ (State.reset.console l).rx = .idle ∧ (State.reset.console l).tx = [])
    ∧ (∀ p, (State.reset.bench p).rx = .idle ∧ (State.reset.bench p).tx = [])
    ∧ State.reset.outstanding = [] ∧ State.reset.responses = []
    ∧ State.reset.flags = 0x200#12 ∧ State.reset.mask = 0xA01#12
    ∧ State.reset.frameErrors = 0 ∧ State.reset.overruns = 0 ∧ State.reset.attentionLine = true

/-! ### The control port -/

/-- A request is discarded whole with 8 outstanding (OVERRUN), and with the tag of an outstanding request (FRAME_ERROR); the
counts stop at 255, 00h is shifted out throughout, and nothing else changes (R194, R196; the field that holds what is shifted
out is log entry 25). -/
def Obligations.RequestsDiscardedAtTheLimits : Prop :=
  ∀ (c : Instr) (r : Request) (s : State), request? c = some r → c.wf = true → s.running = true →
    (8 ≤ s.outstanding.length →
      exec c s = .next { s with
        overruns := if s.overruns < 255 then s.overruns + 1 else s.overruns
        flags := s.flags ||| 0x004#12
        shiftedOut := quiet r.length })
    ∧ (s.outstanding.length < 8 → (∃ o ∈ s.outstanding, o.tag = r.tag) →
      exec c s = .next { s with
        frameErrors := if s.frameErrors < 255 then s.frameErrors + 1 else s.frameErrors
        flags := s.flags ||| 0x002#12
        shiftedOut := quiet r.length })

/-- A request write whose bytes are no frame of the layout, and a transaction of another type, is a frame error; a
transaction of no byte changes nothing; type 02h is a response fetch; a good frame of a kind that is not laid out, or of a kind
other than PROFILE_BLOCK and IMPORT whose body does not read as its kind, is accepted and answered RANGE. Throughout a request
write 00h is shifted out; in a transaction of another type 00h while its type byte comes in, and what follows is open, one free
value for each byte (R194, R196, R210). That REQUEST_WRITE_DISCARD takes every transaction, the field that holds what is shifted
out, that a flag byte of another value than 00h and 01h makes a body unreadable, the free values, and that a code has one byte
are log entries 7, 25, 35, 38 and 39. -/
def Obligations.TransactionsAreJudged : Prop :=
  ∀ (s : State), s.running = true →
    exec (.requestWriteDiscard []) s = .next s
    ∧ (∀ (type : Byte) (sent : List Byte), type ≠ 1 → type ≠ 2 → ∃ free : List Byte, free.length = sent.length
      ∧ exec (.requestWriteDiscard (type :: sent)) s = .next { s with
        frameErrors := if s.frameErrors < 255 then s.frameErrors + 1 else s.frameErrors
        flags := s.flags ||| 0x002#12
        shiftedOut := 0 :: free
        freeCount := s.freeCount + sent.length })
    ∧ (∀ sent : List Byte, exec (.requestWriteDiscard (2 :: sent)) s = exec (.responseFetch sent.length) s)
    ∧ (∀ sent : List Byte, (∀ tag kind body, body.length ≤ 2048 → sent ≠ requestFrame tag kind body) →
      exec (.requestWriteDiscard (1 :: sent)) s = .next { s with
        frameErrors := if s.frameErrors < 255 then s.frameErrors + 1 else s.frameErrors
        flags := s.flags ||| 0x002#12
        shiftedOut := List.replicate (sent.length + 1) 0 })
    ∧ (∀ (tag kind : Byte) (body : List Byte), body.length ≤ 2048 → Accepts tag s → kind ≠ 0x02 → kind ≠ 0x20 →
      (∀ c r, request? c = some r → r.kind = kind → c.wf = true → requestBody? c ≠ some body) →
      exec (.requestWriteDiscard (1 :: requestFrame tag kind body)) s = .next (refused tag kind body.length .range s))

/-- A request write whose frame is laid out as a request does exactly what that request's row does (R196, R210): no bit of
the layout is dropped or read as another field. That REQUEST_WRITE_DISCARD takes such a transaction too is log entry 7, and that a
code has one byte is log entry 39. -/
def Obligations.RequestFramesRunAsTheirRows : Prop :=
  ∀ (c : Instr) (r : Request) (body : List Byte) (s : State), request? c = some r → requestBody? c = some body →
    c.wf = true →
    exec (.requestWriteDiscard (1 :: requestFrame r.tag r.kind body)) s = exec c s

/-- A response fetch shifts out 00h while its type byte comes in, then the oldest response (R194, R198); it leaves the queue only
when all of it was shifted out, its tag is then free, and RESPONSE_READY clears with the last; an empty queue gives the
empty-marker frame and changes nothing (R198). That a fetch is one event, and the field that holds what was shifted out, are the
model's choices (log entries 24 and 25). -/
def Obligations.ResponseFetchTakesTheOldest : Prop :=
  ∀ (clocks : Nat) (s : State), s.running = true →
    (s.responses = [] →
      exec (.responseFetch clocks) s = .next { s with
        shiftedOut := 0 :: (emptyMarker ++ List.replicate (clocks - emptyMarker.length) 0).take clocks })
    ∧ ∀ r rest, s.responses = r :: rest →
      (clocks < r.frame.length →
        exec (.responseFetch clocks) s = .next { s with shiftedOut := 0 :: r.frame.take clocks })
      ∧ (r.frame.length ≤ clocks →
        exec (.responseFetch clocks) s = .next { s with
          shiftedOut := 0 :: r.frame ++ List.replicate (clocks - r.frame.length) 0
          responses := rest
          outstanding := s.outstanding.filter fun o => o.tag != r.tag
          flags := if rest = [] then s.flags &&& ~~~0x001#12 else s.flags })

/-- STATUS reports the part as it stands, then clears the reported flags it lists, RESPONSE_READY passed over, and the counts
when asked (R205). SET_MASK replaces the mask and answers the old one (R206). In every state of a part that runs the attention
line is asserted exactly while some flag is both set and enabled (R204). -/
def Obligations.StatusAndMask : Prop :=
  (∀ s : State, s.running = true →
    (s.attentionLine = true ↔ ∃ k, k < 12 ∧ s.flags.getLsbD k = true ∧ s.mask.getLsbD k = true))
  ∧ ∀ (tag : Byte) (s : State), Accepts tag s →
    (∀ (clearSet : BitVec 12) (clearCounts : Bool),
      exec (.status tag clearSet clearCounts) s = .next (answered tag 0x60 3 .ok false
        (.status
          { line := s.line
            resetCause := s.resetCause
            flags := s.flags &&& s.mask
            mask := s.mask
            frameErrors := s.frameErrors
            overruns := s.overruns
            occupancy := (s.journal.records.filter fun r => !r.isTamper).length + s.journal.reservations.length
            records := (s.journal.records.filter fun r => !r.isTamper).length
            reservations := s.journal.reservations.length
            ceremony := s.ceremony.run.state
            contexts := allPorts.map fun p => (s.ctx p).state })
        { s with
          flags := s.flags &&& ~~~(s.flags &&& s.mask &&& clearSet &&& 0xFFE#12)
          frameErrors := if clearCounts then 0 else s.frameErrors
          overruns := if clearCounts then 0 else s.overruns }))
    ∧ ∀ mask : BitVec 12,
      exec (.setMask tag mask) s = .next (answered tag 0x61 2 .ok false (.oldMask s.mask) { s with mask := mask })

/-! ### The profile -/

/-- PROFILE_BEGIN in SETUP opens an empty, unspoilt stream whatever was staged, and is refused WRONG_STATE in every other
line state (R77); PROFILE_ABANDON closes the stream in every line state (R80). -/
def Obligations.ProfileBeginAndAbandon : Prop :=
  ∀ (tag : Byte) (s : State), Accepts tag s →
    (s.line = .setup →
      exec (.profileBegin tag) s = .next (answered tag 0x01 0 .ok false .nothing
        { s with stream := some { spoilt := false, staged := [] } }))
    ∧ (s.line ≠ .setup → exec (.profileBegin tag) s = .next (refused tag 0x01 0 .wrongState s))
    ∧ exec (.profileAbandon tag) s = .next (answered tag 0x04 0 .ok false .nothing { s with stream := none })

/-- PROFILE_BLOCK: the cases of R78 in order, and what each does to the stream (R78, R79). -/
def Obligations.ProfileBlockStagesOrSpoils : Prop :=
  ∀ (tag : Byte) (body : List Byte) (s : State), Accepts tag s → body.length ≤ 2048 →
    (s.stream = none → exec (.profileBlock tag body) s = .next (refused tag 0x02 body.length .noStream s))
    ∧ ∀ stream, s.stream = some stream →
      (stream.spoilt = true → exec (.profileBlock tag body) s = .next (refused tag 0x02 body.length .streamSpoilt s))
      ∧ (stream.spoilt = false →
        ((∀ k c3 c2 c1 c0 rest, body = k :: c3 :: c2 :: c1 :: c0 :: rest → k = 0 ∨ 5 < k.toNat) →
          exec (.profileBlock tag body) s = .next (refused tag 0x02 body.length .range
            { s with stream := some { stream with spoilt := true } }))
        ∧ ∀ k c3 c2 c1 c0 rest, body = k :: c3 :: c2 :: c1 :: c0 :: rest → k ≠ 0 → k.toNat ≤ 5 →
          (beNat [c3, c2, c1, c0] ≠ (crc32 (k :: rest)).toNat →
            exec (.profileBlock tag body) s = .next (refused tag 0x02 body.length .badCheck
              { s with stream := some { stream with spoilt := true } }))
          ∧ (beNat [c3, c2, c1, c0] = (crc32 (k :: rest)).toNat → 40 ≤ stream.staged.length →
            exec (.profileBlock tag body) s = .next (refused tag 0x02 body.length .stagingFull
              { s with stream := some { stream with spoilt := true } }))
          ∧ (beNat [c3, c2, c1, c0] = (crc32 (k :: rest)).toNat → stream.staged.length < 40 →
            exec (.profileBlock tag body) s = .next (answered tag 0x02 body.length .ok false (.staging stream.staged.length)
              { s with stream := some { stream with
                  staged := stream.staged ++ [{ kind := k, body := rest, check := crc32 (k :: rest) }] } })))

/-- PROFILE_COMMIT: the cases of R81 in order, with the code, the failing condition and the named block of each check of R82 in
the order of its table (R88-R92, R94, R214), and the trial of the manifest: the commit is refused REGISTRY_FULL where a line
finds its row full once the named serials present are pinned and the lines before it inserted (R83, R86, R114). A refused commit
changes nothing but the stream, which is gone in every case but NO_STREAM. The registry is in order, which `RegistryPlaced`
states. A RECIPE block with no body carries no recipe number: log entry 33; a flag byte other than 00h and 01h does not read:
log entry 35; a policy, a step type and a region's size have one byte: log entry
39. -/
def Obligations.ProfileCommitRefused : Prop :=
  ∀ (tag : Byte) (check : Check32) (s : State), Accepts tag s →
    (s.stream = none → exec (.profileCommit tag check) s = .next (refused tag 0x03 4 .noStream s))
    ∧ ∀ stream, s.stream = some stream →
      (stream.spoilt = true →
        exec (.profileCommit tag check) s = .next (refused tag 0x03 4 .streamSpoilt { s with stream := none }))
      ∧ (stream.spoilt = false → check ≠ crc32 (stream.staged.flatMap fun b => beBytes 4 b.check.toNat) →
        exec (.profileCommit tag check) s = .next (refused tag 0x03 4 .badCheck { s with stream := none }))
      ∧ (stream.spoilt = false → check = crc32 (stream.staged.flatMap fun b => beBytes 4 b.check.toNat) →
        (∀ code place, Invalid stream.staged code place →
          exec (.profileCommit tag check) s = .next (answered tag 0x03 4 code false
            (match place with | none => .nothing | some k => .staging k) { s with stream := none }))
        ∧ ∀ profile lines k, Validates stream.staged profile lines → RegistryPlaced s → NoRoom lines s.registry k →
          exec (.profileCommit tag check) s = .next (answered tag 0x03 4 .registryFull false (.staging k)
            { s with stream := none }))

/-- A commit whose blocks read as a profile and manifest that pass every check (R82, R83) puts them in force in one event: the
profile replaced whole; the manifest applied, a named serial that is present pinned, an absent one inserted into the lowest free
way of its row or over its victim, every other entry kept (R86, R114); entries past the new age limit removed (R88, R115); the
contexts set from the new port table (R85); JOURNAL_HIGH when the new mark is reached (R187); the stream gone; and the answer
with its numbers (R84). The registry is in order, which `RegistryPlaced` states. A policy, a step type and a region's size
have one byte: log entry 39. -/
def Obligations.ProfileCommitPutsInForce : Prop :=
  ∀ (tag : Byte) (check : Check32) (s : State) (stream : Stream) (profile : Profile) (lines : List ManifestLine)
    (pinned filled : Registry) (inserted evicted : Nat), Accepts tag s → s.stream = some stream → stream.spoilt = false →
    check = crc32 (stream.staged.flatMap fun b => beBytes 4 b.check.toNat) → Validates stream.staged profile lines →
    RegistryPlaced s → Pinned lines s.registry pinned → Inserts lines pinned filled inserted evicted →
    ∃ t, exec (.profileCommit tag check) s = .next t
      ∧ { t with benches := s.benches, store := { t.store with registry := s.registry } } =
        answered tag 0x03 4 .ok false
          (.committed profile.recipes.length lines.length inserted evicted check)
          { s with
            store := { s.store with profile := some profile }
            stream := none
            flags := if profile.params.highMark ≤ s.journal.occupancy then s.flags ||| 0x008#12 else s.flags }
      ∧ (∀ i, t.registry.get i = (filled.get i).bind (notAged profile.params.ageLimit))
      ∧ ∀ p, t.bench p = { s.bench p with
          ctx :=
            if (profile.ports.get p).attach = false then .off
            else if s.ctx p = .off then (if (s.bench p).present then .attached else .vacant)
            else s.ctx p }

/-! ### The line -/

/-- LINE_PAUSE takes a LIVE line to PAUSED and LINE_RESUME a PAUSED one to LIVE, each setting LINE_STATE and touching nothing
else; in every other line state each is refused WRONG_STATE and changes nothing (R98, R99). -/
def Obligations.LinePauseAndResume : Prop :=
  ∀ (tag : Byte) (s : State), Accepts tag s →
    (s.line = .live → exec (.linePause tag) s = .next (answered tag 0x10 0 .ok false .nothing
      { s with line := .paused, flags := s.flags ||| 0x200#12 }))
    ∧ (s.line ≠ .live → exec (.linePause tag) s = .next (refused tag 0x10 0 .wrongState s))
    ∧ (s.line = .paused → exec (.lineResume tag) s = .next (answered tag 0x11 0 .ok false .nothing
      { s with line := .live, flags := s.flags ||| 0x200#12 }))
    ∧ (s.line ≠ .paused → exec (.lineResume tag) s = .next (refused tag 0x11 0 .wrongState s))

/-- LINE_CLOSE is answered at once in SETUP, CLOSING and ZEROISED. In LIVE and PAUSED every session ends with LINE_CLOSED, its
entry unbound and the claims of a step that ends given back (R11, R121, R162); the answer is withheld while a context is DRAINING, and else given in the same event with the line SETUP (R100, R173). -/
def Obligations.LineCloseEndsEverySession : Prop :=
  ∀ (tag : Byte) (s : State), Accepts tag s →
    (s.line = .setup → exec (.lineClose tag) s = .next (answered tag 0x12 0 .ok false .nothing s))
    ∧ (∀ kept, s.line = .closing kept → exec (.lineClose tag) s = .next (refused tag 0x12 0 .busy s))
    ∧ (s.line = .zeroised → exec (.lineClose tag) s = .next (refused tag 0x12 0 .zeroised s))
    ∧ (s.line = .live ∨ s.line = .paused → ∃ t, exec (.lineClose tag) s = .next t
      ∧ SessionsEnded .lineClosed s t
      ∧ t.flags.getLsbD 9 = true
      ∧ t.store.custodians = s.store.custodians ∧ t.profile = s.profile ∧ t.importWork = s.importWork
      ∧ (∀ i, (t.slot i).generation = (s.slot i).generation)
      ∧ ((∃ p reason mark, t.ctx p = .draining reason mark) →
        t.line = .closing tag ∧ t.responses = s.responses
          ∧ t.outstanding = s.outstanding ++ [{ tag := tag, kind := 0x12, queued := false }])
      ∧ ((∀ p reason mark, t.ctx p ≠ .draining reason mark) →
        t.line = .setup
          ∧ t.responses = s.responses ++
            [{ tag := tag, kind := 0x12, status := .ok, changed := false, body := .nothing }]
          ∧ t.outstanding = s.outstanding ++ [{ tag := tag, kind := 0x12, queued := true }]))

/-- The tamper line becoming asserted while the part runs, and a ZEROISE from a logged-on custodian, zeroise the part with
their cause (R37, R102, R103, R104): every slot emptied, the ceremony aborted and its unanswered COMPONENT answered ZEROISED
(R18, R58, R61), the import and the engine's jobs marked (R74, R145), the stream gone, every session ended and its entry unbound
(R11, R121, R130, R162), a withheld close answered, and the TAMPER record written or counted (R186). -/
def Obligations.ZeroiseReachesEveryBlock : Prop :=
  ∀ s : State,
    (s.running = true → s.tamperLine = false → ∃ t, exec .tamperLineAsserted s = .next t
      ∧ t.tamperLine = true ∧ ZeroisedTo .tamperLine s t)
    ∧ ∀ l c, Listens l s → LoggedOn l c s → ∃ t, exec (.zeroise l) s = .next t
      ∧ ZeroisedTo (.custodian c) s t
      ∧ ConsoleOut.answer 0x0A .ok .nothing ∈ (t.console l).tx
      ∧ (∀ k, (t.console k).logon.map Logon.who = (s.console k).logon.map Logon.who)

/-- An accepted LINE_RESET, the release of the reset pin with main power present, and main power with the pin released reset
the part with the cause of each; the release that ends a power-on held by the pin has the power-on's cause (R106, R107), which
the model's field powerResetOwed remembers (log entry 27). That the battery is there again at POWER_ON is the model's choice
(log entry 20). The store is intact. What the reset leaves of slots, registry and contexts is that of R22, R129 and R176; a
zeroise that follows it has the cause TAMPER_LINE for the latch and RESET_WHILE_ASSERTED for the open cover (R105, R107, R186). -/
def Obligations.ResetsByTheirCause : Prop :=
  ∀ s : State, s.storeLost = false →
    (∀ tag, Accepts tag s → ∃ t, exec (.lineReset tag) s = .next t ∧ ResetTo .lineReset s t)
    ∧ (s.resetPin = true → s.power = true → s.powerResetOwed = false →
      ∃ t, exec .resetPinReleased s = .next t ∧ ResetTo .pin s t)
    ∧ (s.resetPin = true → s.power = true → s.powerResetOwed = true →
      ∃ t, exec .resetPinReleased s = .next t ∧ ResetTo .powerOn s t)
    ∧ (s.power = false → s.resetPin = false → ∃ t, exec .powerOn s = .next t ∧ ResetTo .powerOn s t)
    ∧ (s.power = false → s.resetPin = true → exec .powerOn s = .next { s with
        power := true, battery := true, powerResetOwed := true })

/-- Main power with the secure store lost gives every stored item its initial value, with cause STORE_LOST; where the reset pin
holds the power-on back, its release does so with the same cause (R23, R87, R106, R108, R131, R193); an asserted tamper line
zeroises at once (R107). The field that remembers the reset held back, and the battery that is there again at POWER_ON, are log
entries 27 and 20. -/
def Obligations.PowerOnAfterStoreLoss : Prop :=
  ∀ s : State, s.storeLost = true →
    (s.power = false → s.resetPin = true → exec .powerOn s = .next { s with
      power := true, battery := true, powerResetOwed := true })
    ∧ ∀ c, (c = .powerOn ∧ s.power = false ∧ s.resetPin = false)
        ∨ (c = .resetPinReleased ∧ s.power = true ∧ s.resetPin = true ∧ s.powerResetOwed = true) →
      ∃ t, exec c s = .next t
        ∧ t.running = true ∧ t.resetCause = .storeLost ∧ t.storeLost = false
        ∧ t.store.slots = Store.initial.slots ∧ t.store.custodians = Store.initial.custodians ∧ t.profile = none
        ∧ t.registry = Store.initial.registry ∧ t.store.steps = Store.initial.steps ∧ t.store.tamperLatch = false
        ∧ (∀ p, t.ctx p = .off)
        ∧ (s.tamperLine = false → t.line = .setup ∧ t.journal = Journal.initial)
        ∧ (s.tamperLine = true → t.line = .zeroised ∧ t.journal =
          { records := [{ sequence := 1, body := .tamper .resetWhileAsserted 1 }], nextSequence := 2
            reservations := [] })

/-- Power, battery, pin and cover as levels. Power off stops the part and loses the store when the battery is absent too; the
pin stops it; the cover closing changes nothing; the cover opening while the part does not run destroys the key material and
sets the latch (R102, R105, R106, R108). When the battery is taken out, and what a lost store shows before the next reset,
are log entries 20 and 21. -/
def Obligations.SuppliesPinAndCover : Prop :=
  ∀ s : State,
    exec .resetPinAsserted s = .next { s with resetPin := true }
    ∧ exec .tamperLineDeasserted s = .next { s with tamperLine := false }
    ∧ (s.power = true → s.battery = true →
      exec .powerOff s = .next { s with power := false, powerResetOwed := false })
    ∧ (s.power = true → s.battery = false →
      exec .powerOff s = .next { s with
        power := false, powerResetOwed := false, storeLost := true, store := Store.initial })
    ∧ (s.power = true → exec .batteryLoss s = .next { s with battery := false })
    ∧ (s.power = false → exec .batteryLoss s = .next { s with
        battery := false, storeLost := true, store := Store.initial })
    ∧ (s.running = false → s.tamperLine = false → s.storeLost = false → ∃ t,
      exec .tamperLatchSet s = .next t ∧ exec .tamperLineAsserted s = .next t
        ∧ t.tamperLine = true ∧ t.store.tamperLatch = true
        ∧ (∀ i k, (t.slot i).content.key? = some k → k.material = [])
        ∧ { t with tamperLine := false, store := s.store } = s
        ∧ t.store.custodians = s.store.custodians ∧ t.profile = s.profile ∧ t.registry = s.registry
        ∧ t.journal = s.journal ∧ t.store.steps = s.store.steps)

/-! ### Slots and counters -/

/-- SLOT_QUERY reports a slot as it stands, without key material, in every line state (R21). COUNTER_READ reports the counter
of a base derivation key, and refuses every other content by its code (R19). Neither changes anything. -/
def Obligations.SlotQueryAndCounterRead : Prop :=
  ∀ (tag : Byte) (n : Nat) (s : State), Accepts tag s →
    (64 ≤ n → exec (.slotQuery tag n) s = .next (refused tag 0x21 1 .range s)
      ∧ exec (.counterRead tag n) s = .next (refused tag 0x40 1 .range s))
    ∧ ∀ i : SlotIx, i.val = n →
      (∃ report : SlotReport, exec (.slotQuery tag n) s = .next (answered tag 0x21 1 .ok false (.slot report) s)
        ∧ report.slot = i ∧ report.content.code = (s.slot i).content.code
        ∧ report.content.holder? = (s.slot i).content.holder?
        ∧ report.content.key? = (s.slot i).content.key?.map (fun k => { k with material := [] })
        ∧ report.generation = (s.slot i).generation ∧ report.inUse = (s.slot i).inUse
        ∧ report.region = (regionOf i s).map Region.number)
      ∧ ((s.slot i).content.key? = none →
        exec (.counterRead tag n) s = .next (refused tag 0x40 1 .slotUnavailable s))
      ∧ (∀ k, (s.slot i).content.key? = some k → k.use.cls ≠ .baseDerivation →
        exec (.counterRead tag n) s = .next (refused tag 0x40 1 .wrongClass s))
      ∧ ∀ state k keySet next, (s.slot i).content.held? = some (state, k) → k.use = .baseDerivation keySet next →
        exec (.counterRead tag n) s = .next (answered tag 0x40 1 .ok false
          (.counter state (s.slot i).generation keySet next (1048576 - next)) s)

/-- COUNTER_ADVANCE: its checks in order, and a raise with its record, its events and the original next counter answered
(R20, R182, R183, R187). That no reservation of its own is held between events is a premise, which `WorkBooked` states. -/
def Obligations.CounterAdvanceRaises : Prop :=
  ∀ (tag : Byte) (n value : Nat) (s : State), Accepts tag s →
    (64 ≤ n ∨ 1048576 < value → exec (.counterAdvance tag n value) s = .next (refused tag 0x41 5 .range s))
    ∧ ∀ i : SlotIx, i.val = n → value ≤ 1048576 →
      ((s.slot i).content.key? = none →
        exec (.counterAdvance tag n value) s = .next (refused tag 0x41 5 .slotUnavailable s))
      ∧ (∀ k, (s.slot i).content.key? = some k → k.use.cls ≠ .baseDerivation →
        exec (.counterAdvance tag n value) s = .next (refused tag 0x41 5 .wrongClass s))
      ∧ ∀ k keySet next, k.use = .baseDerivation keySet next →
        ((s.slot i).content = .erasing k →
          exec (.counterAdvance tag n value) s = .next (refused tag 0x41 5 .slotUnavailable s))
        ∧ ((s.slot i).content = .active k ∨ (s.slot i).content = .exhausted k →
          (value ≤ next →
            exec (.counterAdvance tag n value) s = .next (answered tag 0x41 5 .ok false (.advance next) s))
          ∧ (next < value → 511 ≤ s.journal.occupancy →
            exec (.counterAdvance tag n value) s = .next (refused tag 0x41 5 .journalFull
              { s with flags := s.flags ||| 0x008#12 }))
          ∧ (next < value → s.journal.occupancy < 511 → ResHolder.counterAdvance ∉ s.journal.reservations →
            exec (.counterAdvance tag n value) s = .next (answered tag 0x41 5 .ok true (.advance next)
              (State.setFlagIf (withinLowMargin value s) .counterLow
                (State.setFlagIf (value = 1048576) .counterExhausted
                  (State.setFlagIf (highMark s ≤ s.journal.occupancy + 1) .journalHigh
                    ((s.setSlot i { s.slot i with
                      content :=
                        if value = 1048576 then .exhausted { k with use := .baseDerivation keySet value }
                        else .active { k with use := .baseDerivation keySet value } }).setJournal
                      { s.journal with
                        records := s.journal.records ++ [{
                          sequence := s.journal.nextSequence
                          body := .counterAdvanced i (s.slot i).generation next value }]
                        nextSequence :=
                          if s.journal.nextSequence = 4294967295 then 1
                          else s.journal.nextSequence + 1 })))))))

/-! ### Importing -/

/-- IMPORT: the checks of R66 in order, with those of R15 on the transport slot and of R12 on the target slot and the code of
each, and an accepted import, which claims both slots, holds a reservation and an UNWRAP job, and is not answered yet (R12, R15,
R66, R67, R134). -/
def Obligations.ImportStarts : Prop :=
  ∀ (tag : Byte) (body : List Byte) (s : State), Accepts tag s → body.length ≤ 2048 →
    let refusedWith (code : Status) : Prop :=
      exec (.importKey tag body) s = .next (refused tag 0x20 body.length code s)
    (s.importWork ≠ none → refusedWith .busy)
    ∧ (s.importWork = none → s.line = .zeroised ∨ (∃ kept, s.line = .closing kept) → refusedWith .wrongState)
    ∧ (s.importWork = none → s.line = .setup ∨ s.line = .live ∨ s.line = .paused →
      (readImportBody body = none → refusedWith .range)
      ∧ ∀ b, readImportBody body = some b →
        (b.envelope.version ≠ 1 ∨ (b.envelope.wrapped.length ≠ 24 ∧ b.envelope.wrapped.length ≠ 40) →
          refusedWith .range)
        ∧ (b.envelope.version = 1 → b.envelope.wrapped.length = 24 ∨ b.envelope.wrapped.length = 40 →
          (64 ≤ b.transport → refusedWith .range)
          ∧ ∀ transport : SlotIx, b.transport = transport.val →
            (regionOf transport s = none → refusedWith .notPermitted)
            ∧ (regionOf transport s ≠ none →
              ((∀ key, (s.slot transport).content ≠ .active key) → refusedWith .slotUnavailable)
              ∧ ∀ key, (s.slot transport).content = .active key →
                (key.use ≠ .transport → refusedWith .wrongClass)
                ∧ (key.use = .transport →
                  (64 ≤ b.target → refusedWith .range)
                  ∧ ∀ target : SlotIx, b.target = target.val →
                    ((s.slot target).content ≠ .empty → refusedWith .occupied)
                    ∧ ((s.slot target).content = .empty →
                      (regionOf target s = none → refusedWith .notPermitted)
                      ∧ ∀ r, regionOf target s = some r →
                        (r.importWritable = false ∨ 4294967295 ≤ (s.slot target).generation →
                          refusedWith .notPermitted)
                        ∧ (r.importWritable = true → (s.slot target).generation < 4294967295 →
                          (511 ≤ s.journal.occupancy →
                            exec (.importKey tag body) s = .next (refused tag 0x20 body.length .journalFull
                              { s with flags := s.flags ||| 0x008#12 }))
                          ∧ (s.journal.occupancy < 511 →
                            exec (.importKey tag body) s = .next (withheld tag 0x20 body.length
                              { (((reserved .importUnit s).setSlot transport
                                  { s.slot transport with inUse := (s.slot transport).inUse + 1 }).setSlot target
                                  { s.slot target with content := .assembling .importUnit }) with
                                importWork := some
                                  { tag := tag, target := target, transport := transport
                                    transportGen := (s.slot transport).generation, zeroised := false }
                                engine := requested 9 (.unwrap key.material b.envelope) s.engine }))))))))

/-- The completion of the UNWRAP job of an import in flight, decided in the order of R71: a zeroised import, a failed
authenticator and a key its target cannot take end it with ZEROISED, AUTH_FAILED and WRONG_CLASS and give the target, the
reservation and the transport claim back; an authentic key is installed with its record, and the IMPORT is answered at last (R13,
R14, R15, R70, R71, R138, R143). Where the claim was the last on an ERASING transport slot, the erasure completes in the same
event, KEY_ERASED standing after KEY_INSTALLED, and with it the ERASE that approved it (R17, R54, R72). Authentic is the wrap of a
key under the transport key and nothing else, so an envelope changed into what is no wrap fails; an authentic envelope that is
changed in its authenticator, in any fields before the wrapped key, or in up to 8 bytes of the wrapped key that stand together, is
authentic no more, wrap or not (R68, R138; that an authenticator of 8 bytes cannot tell every other change of one wrap into
another is log entry 37). -/
def Obligations.UnwrapDoneEndsTheImport : Prop :=
  (∀ (s : State) (job : Job) (w : ImportWork) (transport : KeyBytes) (envelope : BankEnvelope),
     s.running = true → s.engine.running = some job → s.importWork = some w → job.inputs = .unwrap transport envelope →
     w.target ≠ w.transport → (w.zeroised = false → (s.slot w.target).content = .assembling .importUnit) →
     ∃ t, exec .unwrapDone s = .next t
       ∧ t.importWork = none
       ∧ (t.slot w.transport).inUse = (s.slot w.transport).inUse - 1
       ∧ (t.slot w.transport).generation = (s.slot w.transport).generation
       ∧ t.store.custodians = s.store.custodians ∧ t.profile = s.profile ∧ t.registry = s.registry
       ∧ (∀ i, i ≠ w.target → i ≠ w.transport → t.slot i = s.slot i)
       ∧ ((∀ k, (s.slot w.transport).content ≠ .erasing k) ∨ 1 < (s.slot w.transport).inUse →
         ImportEnded transport envelope w [] s t
           ∧ (t.slot w.transport).content = (s.slot w.transport).content
           ∧ t.journal.reservations = s.journal.reservations.erase .importUnit
           ∧ t.ceremony = s.ceremony)
       ∧ ∀ k work pair, (s.slot w.transport).content = .erasing k → (s.slot w.transport).inUse = 1 →
         s.ceremony.run = .work work → work.approvers = some pair →
         ImportEnded transport envelope w [.keyErased w.transport (s.slot w.transport).generation pair] s t
           ∧ (t.slot w.transport).content = .empty
           ∧ t.journal.reservations = (s.journal.reservations.erase .importUnit).erase .ceremony
           ∧ t.ceremony =
             { run := .idle
               last := some { kind := work.params.kind, aborted := none, named := work.params.named } }
           ∧ t.flags.getLsbD 10 = true)
  ∧ ∀ (transport : KeyBytes) (e e' : BankEnvelope), Authentic transport e → Changed e e' → ¬Authentic transport e'

/-! ### The registry -/

/-- REG_ADD: the checks of R123 in order; an absent serial goes into the lowest free way of its row, or over the row's
longest-unbound DISCOVERED EXPECTED entry, the lowest way among equals, or is refused REGISTRY_FULL; a present one is pinned
(R110, R113, R114, R123). The registry is in order, which `RegistryPlaced` states. -/
def Obligations.RegAddInsertsOrPins : Prop :=
  ∀ (tag : Byte) (serial : Serial) (recipe : Option Nat) (s : State), Accepts tag s → serial.length < 256 →
    RegistryPlaced s →
    (serial.length = 0 ∨ 16 < serial.length ∨ (∃ n, recipe = some n ∧ 16 ≤ n) →
      exec (.regAdd tag serial recipe) s = .next (refused tag 0x30 (addLength serial recipe) .range s))
    ∧ ∀ number : Option (Fin 16), recipe = number.map Fin.val → 1 ≤ serial.length → serial.length ≤ 16 →
      ((∃ n, number = some n ∧ recipeNumbered n s = none) →
        exec (.regAdd tag serial recipe) s = .next (refused tag 0x30 (addLength serial recipe) .badRecipe s))
      ∧ ((∀ n, number = some n → recipeNumbered n s ≠ none) →
        (∀ i e, s.registry.get i = some e → e.serial = serial →
          exec (.regAdd tag serial recipe) s = .next (answered tag 0x30 (addLength serial recipe) .ok false (.regAdd i.val (some e) none)
            (s.setRegistry (s.registry.set i (some
              { e with
                origin := .manifest
                recipe := if e.state = .expected ∧ number ≠ none then number else e.recipe
                unboundSince := none })))))
        ∧ ((∀ i e, s.registry.get i = some e → e.serial ≠ serial) →
          (∀ way, FreeWay serial way s.registry →
            exec (.regAdd tag serial recipe) s = .next (answered tag 0x30 (addLength serial recipe) .ok true
              (.regAdd (position (rowOf serial) way).val none none)
              (s.setRegistry (s.registry.set (position (rowOf serial) way) (some (newEntry serial .manifest number))))))
          ∧ (∀ way e, VictimWay serial way e s.registry →
            exec (.regAdd tag serial recipe) s = .next (answered tag 0x30 (addLength serial recipe) .ok true
              (.regAdd (position (rowOf serial) way).val none (some e.serial))
              (s.setRegistry (s.registry.set (position (rowOf serial) way) (some (newEntry serial .manifest number))))))
          ∧ (RowFull serial s.registry →
            exec (.regAdd tag serial recipe) s = .next (refused tag 0x30 (addLength serial recipe) .registryFull s))))

/-- REG_QUERY answers the entry of a present serial and its position as they stand, NOT_FOUND for an absent one, RANGE for a
serial that is not 1-16 bytes (R122, R124). REG_SCAN answers the occupied places at or after the position, in increasing
order, up to the count, and the next position, absent at the end of the registry (R127). Neither changes anything. -/
def Obligations.RegQueryAndScanRead : Prop :=
  (∀ (tag : Byte) (serial : Serial) (s : State), Accepts tag s → serial.length < 256 → RegistryPlaced s →
    (serial.length = 0 ∨ 16 < serial.length →
      exec (.regQuery tag serial) s = .next (refused tag 0x31 (serial.length + 1) .range s))
    ∧ (1 ≤ serial.length → serial.length ≤ 16 →
      (∀ i e, s.registry.get i = some e → e.serial = serial →
        exec (.regQuery tag serial) s = .next (answered tag 0x31 (serial.length + 1) .ok false (.regEntry i.val e) s))
      ∧ ((∀ i e, s.registry.get i = some e → e.serial ≠ serial) →
        exec (.regQuery tag serial) s = .next (refused tag 0x31 (serial.length + 1) .notFound s))))
  ∧ ∀ (tag : Byte) (start count : Nat) (s : State), Accepts tag s →
    (255 < start ∨ count = 0 ∨ 8 < count →
      exec (.regScan tag start count) s = .next (refused tag 0x34 2 .range s))
    ∧ (start ≤ 255 → 1 ≤ count → count ≤ 8 → ∃ found next,
      exec (.regScan tag start count) s = .next (answered tag 0x34 2 .ok false (.regScan found next) s)
      ∧ found.length ≤ count
      ∧ (found.map Prod.fst).Pairwise (· < ·)
      ∧ (∀ x ∈ found, start ≤ x.1 ∧ ∃ i : RegIx, i.val = x.1 ∧ s.registry.get i = some x.2)
      ∧ (∀ (i : RegIx) e, start ≤ i.val → s.registry.get i = some e →
        (i.val, e) ∈ found ∨ (found.length = count ∧ ∀ x ∈ found, x.1 < i.val))
      ∧ next = (match found.getLast? with
        | none => none
        | some last => if found.length < count ∨ last.1 = 255 then none else some (last.1 + 1)))

/-- REG_SET_STATE: the table of R125 in order, and the entry after a change. The BUSY and WRONG_STATE of a present entry carry
nothing (log entry 16). -/
def Obligations.RegSetStateCompares : Prop :=
  ∀ (tag : Byte) (serial : Serial) (expected new : Nat) (s : State), Accepts tag s → serial.length < 256 →
    RegistryPlaced s →
    (serial.length = 0 ∨ 16 < serial.length ∨ entryStateOf? expected = none ∨ entryStateOf? new = none →
      exec (.regSetState tag serial expected new) s = .next (refused tag 0x32 (serial.length + 3) .range s))
    ∧ ∀ old target, entryStateOf? expected = some old → entryStateOf? new = some target →
      1 ≤ serial.length → serial.length ≤ 16 →
      ((old, target) ∉ [(.expected, .rejected), (.partialLoad, .rejected), (.rejected, .expected),
          (.rejected, .partialLoad)] →
        exec (.regSetState tag serial expected new) s = .next (refused tag 0x32 (serial.length + 3) .wrongState s))
      ∧ ((old, target) ∈ [(.expected, .rejected), (.partialLoad, .rejected), (.rejected, .expected),
          (.rejected, .partialLoad)] →
        ((∀ i e, s.registry.get i = some e → e.serial ≠ serial) →
          exec (.regSetState tag serial expected new) s = .next (refused tag 0x32 (serial.length + 3) .notFound s))
        ∧ ∀ i e, s.registry.get i = some e → e.serial = serial →
          (e.boundPort ≠ none → exec (.regSetState tag serial expected new) s = .next (refused tag 0x32 (serial.length + 3) .busy s))
          ∧ (e.boundPort = none → e.state ≠ old →
            exec (.regSetState tag serial expected new) s = .next
              (answered tag 0x32 (serial.length + 3) .ok false (.regEntry i.val e) s))
          ∧ (e.boundPort = none → e.state = old →
            (old = .rejected ∧ (target = .expected ∧ e.delivered ≠ 0 ∨ target = .partialLoad ∧ e.delivered = 0) →
              exec (.regSetState tag serial expected new) s = .next (refused tag 0x32 (serial.length + 3) .wrongState s))
            ∧ (¬(old = .rejected ∧ (target = .expected ∧ e.delivered ≠ 0 ∨ target = .partialLoad ∧ e.delivered = 0)) →
              exec (.regSetState tag serial expected new) s = .next
                (answered tag 0x32 (serial.length + 3) .ok true (.regEntry i.val e)
                  (s.setRegistry (s.registry.set i (some { e with
                    state := target
                    mismatches := if target = .rejected then e.mismatches else 0
                    unboundSince :=
                      if target = .expected ∧ e.origin = .discovered then some 0 else none })))))))

/-- REG_REMOVE: the table of R126 in order; the removed entry is reported as it stood and its way becomes free (R126).
That the BUSY of a present, bound entry carries nothing is log entry 16. -/
def Obligations.RegRemoveCompares : Prop :=
  ∀ (tag : Byte) (serial : Serial) (expected : Nat) (s : State), Accepts tag s → serial.length < 256 →
    RegistryPlaced s →
    (serial.length = 0 ∨ 16 < serial.length ∨ entryStateOf? expected = none →
      exec (.regRemove tag serial expected) s = .next (refused tag 0x33 (serial.length + 2) .range s))
    ∧ ∀ old, entryStateOf? expected = some old → 1 ≤ serial.length → serial.length ≤ 16 →
      ((∀ i e, s.registry.get i = some e → e.serial ≠ serial) →
        exec (.regRemove tag serial expected) s = .next (refused tag 0x33 (serial.length + 2) .notFound s))
      ∧ ∀ i e, s.registry.get i = some e → e.serial = serial →
        (e.boundPort ≠ none → exec (.regRemove tag serial expected) s = .next (refused tag 0x33 (serial.length + 2) .busy s))
        ∧ (e.boundPort = none → e.state ≠ old →
          exec (.regRemove tag serial expected) s = .next (answered tag 0x33 (serial.length + 2) .ok false (.regEntry i.val e) s))
        ∧ (e.boundPort = none → e.state = old →
          exec (.regRemove tag serial expected) s = .next
            (answered tag 0x33 (serial.length + 2) .ok true (.regEntry i.val e) (s.setRegistry (s.registry.set i none))))

/-- An aging entry whose unbound-since time has reached the age limit of the profile is removed, and nothing else changes
(R115). A place where nothing ages, or where the time is below the limit, has no such expiry (log entry 2). -/
def Obligations.AgedEntryIsRemoved : Prop :=
  ∀ (i : RegIx) (s : State), s.running = true →
    (∀ e time plan, s.registry.get i = some e → e.unboundSince = some time → s.profile = some plan →
      (plan.params.ageLimit ≤ time → exec (.entryAged i) s = .next (s.setRegistry (s.registry.set i none)))
      ∧ (time < plan.params.ageLimit → exec (.entryAged i) s = .next s))
    ∧ (∀ e, s.registry.get i = some e → e.unboundSince = none → exec (.entryAged i) s = .next s)
    ∧ (s.registry.get i = none → exec (.entryAged i) s = .next s)

/-! ### The journal -/

/-- JOURNAL_READ answers the oldest records, how many there are, the reservations and the next sequence number, and changes
nothing (R188). JOURNAL_RELEASE removes the named record and every older one by their place in the list (R189). -/
def Obligations.JournalReadAndRelease : Prop :=
  ∀ (tag : Byte) (s : State), Accepts tag s →
    (∀ count, count = 0 ∨ 8 < count → exec (.journalRead tag count) s = .next (refused tag 0x50 1 .range s))
    ∧ (∀ count, 1 ≤ count → count ≤ 8 →
      exec (.journalRead tag count) s = .next (answered tag 0x50 1 .ok false
        (.journalRead (s.journal.records.take count) s.journal.records.length s.journal.reservations.length
          s.journal.nextSequence) s))
    ∧ exec (.journalRelease tag 0) s = .next (refused tag 0x51 4 .range s)
    ∧ (∀ number, number ≠ 0 → (∀ r ∈ s.journal.records, r.sequence ≠ number) →
      exec (.journalRelease tag number) s = .next (refused tag 0x51 4 .notFound s))
    ∧ ∀ number old r kept, number ≠ 0 → s.journal.records = old ++ r :: kept → r.sequence = number →
      (∀ x ∈ old, x.sequence ≠ number) →
      exec (.journalRelease tag number) s = .next (answered tag 0x51 4 .ok false
        (.journalRelease (old.length + 1) kept.length) (s.setJournal { s.journal with records := kept }))

/-! ### Consoles and custodians -/

/-- Every console message: discarded without an answer while its console is absent or 4 answers are due, answered BUSY while
an earlier request of the link is unanswered, and answered NOT_LOGGED_ON when it needs a logged-on custodian and the link
has none; a message taken restarts the link's idle timer (R26, R32, R200). An OPEN of any kind is refused BUSY while the
context is not IDLE, and then ZEROISED on a ZEROISED line (R42). That the receiver is IDLE after a whole message, and that
the link's BUSY comes before every other check, are log entries 9 and 10. -/
def Obligations.ConsoleMessagesAreGated : Prop :=
  ∀ (c : Instr) (l : ConsoleLink) (kind : Byte) (s : State), consoleMessage? c = some (l, kind) → s.running = true →
    ((s.console l).present = false ∨ 4 ≤ (s.console l).answersDue →
      exec c s = .next (s.setConsole l { s.console l with rx := .idle }))
    ∧ (Takes l s → (s.console l).unanswered = true → exec c s = .next (told l kind .busy .nothing (heard l s)))
    ∧ (Listens l s → needsLogon c = true → (s.console l).logon = none →
      exec c s = .next (told l kind .notLoggedOn .nothing (heard l s)))
    ∧ (Listens l s → opens c = true → (s.console l).logon ≠ none →
      (s.ceremony.run ≠ .idle → exec c s = .next (told l kind .busy .nothing (heard l s)))
      ∧ (s.ceremony.run = .idle → s.line = .zeroised →
        exec c s = .next (told l kind .zeroised .nothing (heard l s))))

/-- QUERY answers who is logged on, the table without digests, and the ceremony as it stands, and changes nothing but the
idle timer (R36, R63); a console message that does not read is answered WRONG_STATE (R200). That the acceptance of group A stands
first is log entry 40. -/
def Obligations.QueryAndBadMessage : Prop :=
  ∀ (l : ConsoleLink) (s : State), Listens l s →
    (∀ kind, exec (.consoleBadMessage l kind) s = .next (told l kind .wrongState .nothing (heard l s)))
    ∧ ∃ report, exec (.query l) s = .next (told l 0x09 .ok (.query report) (heard l s))
      ∧ report.link1 = (s.console 0).logon.map (fun g => personOf g.who s)
      ∧ report.link2 = (s.console 1).logon.map (fun g => personOf g.who s)
      ∧ report.table = s.store.custodians.data.map
        (Option.map fun e => { group := e.group, lock := e.lock, fails := e.fails })
      ∧ report.state = s.ceremony.run.state ∧ report.last = s.ceremony.last
      ∧ (∀ w, s.ceremony.run = .work w →
        report.kind = some w.params.kind ∧ report.opener = some w.opener ∧ report.params = some w.params.shown
          ∧ report.componentCount = w.params.componentCount?
          ∧ report.held = (if w.params.kind = .assemble then some (w.held.map Component.who) else none)
          ∧ report.underCheck = w.underCheck.map (fun u => u.who.cust)
          ∧ report.badEntries = (if w.params.kind = .assemble then some w.badEntries else none)
          ∧ report.acceptances =
            (w.acceptA.toList.map fun c => { cust := c, group := .a }) ++ (w.acceptB.toList.map fun c => { cust := c, group := .b })
          ∧ report.kcv = (if w.phase = .verifying then w.combined.map CombinedKey.kcv else none)
          ∧ report.windowLeft = w.window.map (fun t => t.limit - t.count)
          ∧ report.checkPending =
            (if w.phase = .gathering ∧ w.params.kind = .assemble then some w.underCheck.isSome else none))
      ∧ (∀ kind opener, s.ceremony.run = .settling kind opener →
        report.kind = some kind ∧ report.opener = some opener ∧ report.params = none ∧ report.acceptances = [])

/-- LOGON: the checks of R27 in order, the fail count of R28, and a logon with its idle timer (R25, R27, R28, R32). -/
def Obligations.LogonChecks : Prop :=
  ∀ (l : ConsoleLink) (number : Nat) (credential : List Byte) (s : State), Listens l s →
    ((s.console l).logon ≠ none →
      exec (.logon l number credential) s = .next (told l 0x01 .busy .nothing (heard l s)))
    ∧ ((s.console l).logon = none →
      (number = 0 ∨ 8 < number →
        exec (.logon l number credential) s = .next (told l 0x01 .notFound .nothing (heard l s)))
      ∧ ∀ c : Cust, number = c.val + 1 →
        (s.custodian c = none →
          exec (.logon l number credential) s = .next (told l 0x01 .notFound .nothing (heard l s)))
        ∧ ∀ e, s.custodian c = some e →
          ((∃ k, LoggedOn k c s) →
            exec (.logon l number credential) s = .next (told l 0x01 .alreadyPresent .nothing (heard l s)))
          ∧ ((∀ k, ¬LoggedOn k c s) →
            (e.lock = .locked →
              exec (.logon l number credential) s = .next (told l 0x01 .locked .nothing (heard l s)))
            ∧ (e.lock = .enrolled → 8 ≤ credential.length → credential.length ≤ 32 →
              Config.digest credential = e.digest →
              exec (.logon l number credential) s = .next
                (told l 0x01 .ok (.person { cust := c, group := e.group })
                  (((heard l s).setCustodian c (some { e with fails := 0 })).setConsole l
                    { (heard l s).console l with
                      logon := some { who := c, idle := { count := 0, limit := custodianIdleLimit s } } })))
            ∧ (e.lock = .enrolled →
              credential.length < 8 ∨ 32 < credential.length ∨ Config.digest credential ≠ e.digest →
              exec (.logon l number credential) s = .next
                (told l 0x01 .denied .nothing
                  ((heard l s).setCustodian c (some
                    { e with fails := e.fails + 1, lock := if 5 ≤ e.fails + 1 then .locked else .enrolled }))))))

/-- ENROL_FIRST: the checks of R34 in order, and the entry it makes present (R25, R34). -/
def Obligations.EnrolFirstFillsAGroup : Prop :=
  ∀ (l : ConsoleLink) (number group : Nat) (credential : List Byte) (s : State), Listens l s →
    (group ≠ 1 → group ≠ 2 →
      exec (.enrolFirst l number group credential) s = .next (told l 0x03 .wrongState .nothing (heard l s)))
    ∧ ∀ g : Group, group = g.code →
      ((∃ c e, s.custodian c = some e ∧ e.group = g) →
        exec (.enrolFirst l number group credential) s = .next (told l 0x03 .wrongState .nothing (heard l s)))
      ∧ ((∀ c e, s.custodian c = some e → e.group ≠ g) →
        (number = 0 ∨ 8 < number →
          exec (.enrolFirst l number group credential) s = .next (told l 0x03 .notFound .nothing (heard l s)))
        ∧ ∀ c : Cust, number = c.val + 1 →
          (s.custodian c ≠ none →
            exec (.enrolFirst l number group credential) s = .next (told l 0x03 .wrongState .nothing (heard l s)))
          ∧ (s.custodian c = none →
            ((∃ w g' d, s.ceremony.run = .work w ∧ w.params = .enrol c g' d) →
              exec (.enrolFirst l number group credential) s = .next (told l 0x03 .busy .nothing (heard l s)))
            ∧ ((∀ w g' d, s.ceremony.run = .work w → w.params ≠ .enrol c g' d) →
              (credential.length < 8 ∨ 32 < credential.length →
                exec (.enrolFirst l number group credential) s = .next (told l 0x03 .denied .nothing (heard l s)))
              ∧ (8 ≤ credential.length → credential.length ≤ 32 →
                exec (.enrolFirst l number group credential) s = .next
                  (told l 0x03 .ok .nothing ((heard l s).setCustodian c (some
                    { group := g, digest := Config.digest credential, lock := .enrolled, fails := 0 })))))))

/-- A logon ends by LOGOFF, by its idle expiry and by its console's departure: the custodian is absent from that link, the
table and the other link's logon stay; a ceremony the leaver is not bound to is left as it is, one the leaver is bound to
aborts CUSTODIAN_LEFT, its unanswered COMPONENT answered NOT_LOGGED_ON when the leaver sent it and WRONG_STATE when another did
(R29, R30, R32, R33, R58, R59, R201). An idle timer that has not counted its limit does not expire (R32). A console that comes changes only its level; one with no logged-on
custodian that goes loses its queue and its receiver; with no logon there is no idle timer (R33, R199, R201, R202; log
entries 2, 17, 18). -/
def Obligations.LogonEnds : Prop :=
  ∀ (l : ConsoleLink) (s : State),
    (∀ c, LoggedOn l c s →
      (Listens l s → ∃ t, exec (.logoff l) s = .next t
        ∧ ConsoleOut.answer 0x02 .ok .nothing ∈ (t.console l).tx ∧ CustodianGone l c s t)
      ∧ (∀ g, s.running = true → (s.console l).logon = some g →
        (g.idle.limit ≤ g.idle.count → ∃ t, exec (.custodianIdleExpiry l) s = .next t ∧ CustodianGone l c s t)
        ∧ (g.idle.count < g.idle.limit → exec (.custodianIdleExpiry l) s = .next s))
      ∧ (s.running = true → (s.console l).present = true → ∃ t, exec (.consolePresentDeasserted l) s = .next t
        ∧ t.console l =
          { present := false, logon := none, unanswered := false, rx := .idle, tx := [], sent := (s.console l).sent }
        ∧ CustodianGone l c s t))
    ∧ exec (.consolePresentAsserted l) s = .next (s.setConsole l { s.console l with present := true })
    ∧ (s.running = true → (s.console l).present = true → (s.console l).logon = none →
      exec (.consolePresentDeasserted l) s = .next (s.setConsole l
        { present := false, logon := none, unanswered := false, rx := .idle, tx := [], sent := (s.console l).sent }))
    ∧ (s.running = true → (s.console l).logon = none → exec (.custodianIdleExpiry l) s = .next s)

/-! ### Ceremonies -/

/-- OPEN of an ASSEMBLE: the parameter check, the line, the Key Store's checks and the journal in their order, and the ceremony
it opens, whose target slot is ASSEMBLING (R7, R12, R42, R43). That the answer stands before the notice in the link's queue is
log entry 12. -/
def Obligations.OpenAssembleReservesItsSlot : Prop :=
  ∀ (l : ConsoleLink) (who : Cust) (slot cls length count : Nat) (keySet : Option Nat) (s : State), Listens l s →
    LoggedOn l who s → s.ceremony.run = .idle → s.line ≠ .zeroised →
    (classOf? cls = none ∨ (length ≠ 16 ∧ length ≠ 32) ∨ (count ≠ 2 ∧ count ≠ 3)
        ∨ (∃ c, classOf? cls = some c ∧ ¬(keySet ≠ none ↔ c = .baseDerivation)) ∨ (∃ kept, s.line = .closing kept) →
      exec (.openAssemble l slot cls length count keySet) s = .next (told l 0x04 .wrongState .nothing (heard l s)))
    ∧ ∀ c, classOf? cls = some c → length = 16 ∨ length = 32 → count = 2 ∨ count = 3 →
      (keySet ≠ none ↔ c = .baseDerivation) → (∀ kept, s.line ≠ .closing kept) →
      (64 ≤ slot →
        exec (.openAssemble l slot cls length count keySet) s = .next (told l 0x04 .notFound .nothing (heard l s)))
      ∧ ∀ i : SlotIx, slot = i.val →
        ((s.slot i).content ≠ .empty ∨ regionOf i s = none
            ∨ (∃ r, regionOf i s = some r ∧ ¬(r.ceremonyWritable = true ∧ r.admits c = true)) →
          exec (.openAssemble l slot cls length count keySet) s = .next
            (told l 0x04 .wrongState .nothing (heard l s)))
        ∧ ∀ r, (s.slot i).content = .empty → regionOf i s = some r → r.ceremonyWritable = true → r.admits c = true →
          (4294967295 ≤ (s.slot i).generation →
            exec (.openAssemble l slot cls length count keySet) s = .next
              (told l 0x04 .generationSpent .nothing (heard l s)))
          ∧ ((s.slot i).generation < 4294967295 → 511 ≤ s.journal.occupancy →
            exec (.openAssemble l slot cls length count keySet) s = .next
              (told l 0x04 .journalFull .nothing { heard l s with flags := s.flags ||| 0x008#12 }))
          ∧ ((s.slot i).generation < 4294967295 → s.journal.occupancy < 511 →
            exec (.openAssemble l slot cls length count keySet) s = .next
              (ceremonyOpened l (personOf who s) (.assemble i c length count keySet) (heard l s)))

/-- OPEN of the other five kinds: the conditions of each and its refusals, and the ceremony it opens (R42, R44, R45, R46, R47,
R48). That the answer stands before the notice in the link's queue is log entry 12. -/
def Obligations.OpenOtherKinds : Prop :=
  ∀ (l : ConsoleLink) (who : Cust) (s : State), Listens l s → LoggedOn l who s → s.ceremony.run = .idle →
    s.line ≠ .zeroised →
    (∀ slot, 64 ≤ slot → exec (.openErase l slot) s = .next (told l 0x04 .notFound .nothing (heard l s)))
    ∧ (∀ i : SlotIx, ((s.slot i).content.held?.map Prod.fst ∈ [some .active, some .exhausted] →
        OpensWith (.openErase l i.val) l who (.erase i) s)
      ∧ ((s.slot i).content.held?.map Prod.fst ∉ [some .active, some .exhausted] →
        exec (.openErase l i.val) s = .next (told l 0x04 .wrongState .nothing (heard l s))))
    ∧ (s.line = .setup → s.profile ≠ none → OpensWith (.openOpenLine l) l who .openLine s)
    ∧ (s.line ≠ .setup ∨ s.profile = none →
      exec (.openOpenLine l) s = .next (told l 0x04 .wrongState .nothing (heard l s)))
    ∧ (∀ number group credential, number = 0 ∨ 8 < number →
      exec (.openEnrol l number group credential) s = .next (told l 0x04 .notFound .nothing (heard l s)))
    ∧ (∀ (c : Cust) group credential,
      (s.custodian c ≠ none ∨ (group ≠ 1 ∧ group ≠ 2) →
        exec (.openEnrol l (c.val + 1) group credential) s = .next (told l 0x04 .wrongState .nothing (heard l s)))
      ∧ ∀ g : Group, s.custodian c = none → group = g.code →
        (credential.length < 8 ∨ 32 < credential.length →
          exec (.openEnrol l (c.val + 1) group credential) s = .next (told l 0x04 .denied .nothing (heard l s)))
        ∧ (8 ≤ credential.length → credential.length ≤ 32 →
          OpensWith (.openEnrol l (c.val + 1) group credential) l who
            (.enrol c g (Config.digest credential)) s))
    ∧ (∀ number, number = 0 ∨ 8 < number ∨ (∃ c : Cust, number = c.val + 1 ∧ s.custodian c = none) →
      exec (.openRevoke l number) s = .next (told l 0x04 .notFound .nothing (heard l s))
        ∧ exec (.openUnlock l number) s = .next (told l 0x04 .notFound .nothing (heard l s)))
    ∧ (∀ (c : Cust) e, s.custodian c = some e →
      (c = who → exec (.openRevoke l (c.val + 1)) s = .next (told l 0x04 .wrongState .nothing (heard l s)))
      ∧ (c ≠ who → (∀ d f, d ≠ c → s.custodian d = some f → f.group = e.group → f.lock = .locked) →
        exec (.openRevoke l (c.val + 1)) s = .next (told l 0x04 .lastOfGroup .nothing (heard l s)))
      ∧ (c ≠ who → (∃ d f, d ≠ c ∧ s.custodian d = some f ∧ f.group = e.group ∧ f.lock = .enrolled) →
        OpensWith (.openRevoke l (c.val + 1)) l who (.revoke c) s)
      ∧ (e.lock = .enrolled →
        exec (.openUnlock l (c.val + 1)) s = .next (told l 0x04 .wrongState .nothing (heard l s)))
      ∧ (e.lock = .locked → OpensWith (.openUnlock l (c.val + 1)) l who (.unlock c) s))

/-- COMPONENT: the checks of R49 in order; a value of the wrong length is a bad entry; a good one goes under check with its
answer withheld and its job requested (R49, R58, R134). That BAD_CHECK stands before the notice in the link's queue is log entry
12. -/
def Obligations.ComponentGoesUnderCheck : Prop :=
  ∀ (l : ConsoleLink) (who : Cust) (value : KeyBytes) (check : Kcv) (s : State), Listens l s → LoggedOn l who s →
    ((∀ w, s.ceremony.run = .work w → ¬(w.phase = .gathering ∧ w.params.kind = .assemble)) →
      exec (.component l value check) s = .next (told l 0x05 .wrongState .nothing (heard l s)))
    ∧ ∀ w slot cls length count keySet, s.ceremony.run = .work w → w.phase = .gathering →
      w.params = .assemble slot cls length count keySet →
      (w.underCheck ≠ none → exec (.component l value check) s = .next (told l 0x05 .busy .nothing (heard l s)))
      ∧ (w.underCheck = none →
        ((∃ x ∈ w.held, x.who.cust = who) →
          exec (.component l value check) s = .next (told l 0x05 .alreadyContributed .nothing (heard l s)))
        ∧ ((∀ x ∈ w.held, x.who.cust ≠ who) →
          (count - (w.held.length + 1) < groupsLacking w.held (personOf who s) →
            exec (.component l value check) s = .next (told l 0x05 .sameGroup .nothing (heard l s)))
          ∧ (groupsLacking w.held (personOf who s) ≤ count - (w.held.length + 1) →
            (value.length ≠ length → w.badEntries + 1 < 3 →
              exec (.component l value check) s = .next
                (noticeAll (openNotice { w with badEntries := w.badEntries + 1 } .failed)
                  ((told l 0x05 .badCheck .nothing (heard l s)).setCeremony
                    (.work { w with badEntries := w.badEntries + 1 }))))
            ∧ (value.length ≠ length → 3 ≤ w.badEntries + 1 → ∃ t,
              exec (.component l value check) s = .next t
                ∧ { t with consoles := s.consoles } = abortedTo .tooManyBad w s
                ∧ ConsoleOut.answer 0x05 .badCheck .nothing ∈ (t.console l).tx)
            ∧ (value.length = length →
              exec (.component l value check) s = .next
                { (((heard l s).setConsole l { (heard l s).console l with unanswered := true }).setCeremony
                    (.work { w with underCheck := some {
                      who := personOf who s, value := value, check := check, link := l } })) with
                  engine := requested 8 (.checkComponent value check) s.engine }))))

/-- CHECK_COMPONENT completes: a match joins the components held, answered with how many are held and due, and the last of them
starts COMBINING with its COMBINE job pending before the grant; a mismatch is a bad entry, and the third aborts; the result of an
orphaned job is destroyed, the context is IDLE, the last outcome stays, no event is set and the notice is sent (R50, R58, R60,
R137, R141, R142). The answer standing before the notice, the link that is answered and what the orphan's notice carries are log
entries 12, 31 and 14. -/
def Obligations.CheckComponentDoneJudges : Prop :=
  ∀ (s : State) (job : Job) (value : KeyBytes) (check : Kcv), s.running = true → s.engine.running = some job →
    job.inputs = .checkComponent value check →
    (∀ kind opener, job.orphaned = true → s.ceremony.run = .settling kind opener →
      exec .checkComponentDone s = .next (grantNext (orphanSettled kind opener s)))
    ∧ ∀ w u slot cls length count keySet, job.orphaned = false → job.zeroised = false →
      s.ceremony.run = .work w → w.underCheck = some u → w.params = .assemble slot cls length count keySet →
      (s.console u.link).unanswered = true → (s.console u.link).present = true →
      let answers (st : Status) (body : AnswerBody) : State :=
        told u.link 0x05 st body
          ((jobTaken s).setConsole u.link { s.console u.link with unanswered := false })
      let held := w.held ++ [{ who := u.who, value := u.value }]
      (Config.kcv value = check → held.length < count →
        exec .checkComponentDone s = .next (grantNext
          (noticeAll (openNotice { w with underCheck := none, held := held } .passed)
            ((answers .ok (.component held.length (count - held.length))).setCeremony
              (.work { w with underCheck := none, held := held })))))
      ∧ (Config.kcv value = check → count ≤ held.length →
        let w' : CeremonyWork := { w with
          phase := .combining
          underCheck := none
          held := held
          bound := (held.map fun x => x.who.cust).filter fun c => loggedOn c s }
        exec .checkComponentDone s = .next (grantNext
          (noticeAll (openNotice w' .lastPassed)
            { (answers .ok (.component held.length (count - held.length))).setCeremony (.work w') with
              engine := { s.engine with
                running := none
                waiting := s.engine.waiting.set 8 (some
                  { requester := 8, inputs := .combine (held.map Component.value), orphaned := false
                    zeroised := false }) } })))
      ∧ (Config.kcv value ≠ check → w.badEntries + 1 < 3 →
        exec .checkComponentDone s = .next (grantNext
          (noticeAll (openNotice { w with underCheck := none, badEntries := w.badEntries + 1 } .failed)
            ((answers .badCheck .nothing).setCeremony
              (.work { w with underCheck := none, badEntries := w.badEntries + 1 })))))
      ∧ (Config.kcv value ≠ check → 3 ≤ w.badEntries + 1 → ∃ t, exec .checkComponentDone s = .next t
        ∧ ConsoleOut.answer 0x05 .badCheck .nothing ∈ (t.console u.link).tx
        ∧ t.ceremony =
          { run := .idle
            last := some { kind := .assemble, aborted := some .tooManyBad, named := .slot slot } }
        ∧ t.store = (abortedTo .tooManyBad w s).store ∧ t.flags.getLsbD 10 = true)

/-- COMBINE completes: the context takes the combined key and its KCV, the components are destroyed, the notice shows the KCV;
the result of an orphaned job is destroyed, the context is IDLE, the last outcome stays, no event is set and the notice is sent
(R51, R60, R142). The combined key depends on the set of components alone, and is as long as they are (R138, R142). What the
orphan's notice carries is log entry 14. -/
def Obligations.CombineDoneShowsTheKcv : Prop :=
  (∀ (s : State) (job : Job) (components : List KeyBytes), s.running = true → s.engine.running = some job →
    job.inputs = .combine components →
    (∀ kind opener, job.orphaned = true → s.ceremony.run = .settling kind opener →
      exec .combineDone s = .next (grantNext (orphanSettled kind opener s)))
    ∧ ∀ w, job.orphaned = false → job.zeroised = false → s.ceremony.run = .work w → w.phase = .combining →
      let w' : CeremonyWork := { w with
        phase := .verifying
        held := []
        combined := some { key := combineKeys components, kcv := Config.kcv (combineKeys components) } }
      exec .combineDone s = .next (grantNext
        (noticeAll (openNotice w' .combined) ((jobTaken s).setCeremony (.work w')))))
  ∧ ∀ (l m : List KeyBytes) (n : Nat), l ≠ [] → (∀ k ∈ l, k.length = n) → (∀ k, k ∈ l ↔ k ∈ m) →
    combineKeys l = combineKeys m ∧ (combineKeys l).length = n

/-- ACCEPT: the checks of R52 in order, and the first acceptance of an ASSEMBLE, which is held (R52, R62). That the
answer stands before the notice in the link's queue is log entry 12. -/
def Obligations.AcceptChecksAndHolds : Prop :=
  ∀ (l : ConsoleLink) (who : Cust) (s : State), Listens l s → LoggedOn l who s →
    ((∀ w, s.ceremony.run = .work w → ¬awaitsAcceptance w) →
      exec (.accept l) s = .next (told l 0x06 .wrongState .nothing (heard l s)))
    ∧ ∀ w, s.ceremony.run = .work w → awaitsAcceptance w →
      (w.acceptA = some who ∨ w.acceptB = some who →
        exec (.accept l) s = .next (told l 0x06 .alreadyContributed .nothing (heard l s)))
      ∧ (w.acceptA ≠ some who → w.acceptB ≠ some who →
        (w.acceptanceOf (personOf who s).group ≠ none →
          exec (.accept l) s = .next (told l 0x06 .sameGroup .nothing (heard l s)))
        ∧ (w.acceptanceOf (personOf who s).group = none →
          (w.params = .revoke who → exec (.accept l) s = .next (told l 0x06 .wrongState .nothing (heard l s)))
          ∧ (∀ c, w.params = .revoke c → c ≠ who →
            (∀ d f, d ≠ c → s.custodian d = some f → f.group = (personOf c s).group → f.lock = .locked) →
            exec (.accept l) s = .next (told l 0x06 .lastOfGroup .nothing (heard l s)))
          ∧ ((∀ c, w.params ≠ .revoke c) → w.acceptA = none → w.acceptB = none →
            exec (.accept l) s = .next
              (noticeAll (openNotice (w.withAcceptance (personOf who s)) .acceptanceHeld)
                ((told l 0x06 .ok .nothing (heard l s)).setCeremony (.work (w.withAcceptance (personOf who s))))))))

/-- The ACCEPT that gives a key ceremony both groups: an ASSEMBLE installs the combined key under the next generation with its
KEY_INSTALLED record; an ERASE of a slot not in use erases it with its KEY_ERASED record; an ERASE of a slot in use makes it
ERASING and waits (R13, R16, R17, R53, R54). -/
def Obligations.AcceptCompletesKeyCeremonies : Prop :=
  ∀ (l : ConsoleLink) (who other : Cust) (s : State) (w : CeremonyWork), Listens l s → LoggedOn l who s →
    s.ceremony.run = .work w → awaitsAcceptance w → w.acceptA ≠ some who → w.acceptB ≠ some who →
    w.acceptanceOf (personOf who s).group = none →
    w.acceptanceOf (otherGroup (personOf who s).group) = some other →
    w.params.kind = .assemble ∨ w.params.kind = .erase →
    ∃ t, exec (.accept l) s = .next t ∧ ConsoleOut.answer 0x06 .ok .nothing ∈ (t.console l).tx
      ∧ (∀ k, (t.console k).logon.map Logon.who = (s.console k).logon.map Logon.who)
      ∧ (∀ slot cls length count keySet combined use, w.params = .assemble slot cls length count keySet →
        w.combined = some combined → newKeyUse cls keySet = some use →
        (s.slot slot).content = .assembling .ceremony →
        { t with consoles := s.consoles } =
          (completedWith
            (.keyInstalled slot ((s.slot slot).generation + 1) cls combined.kcv
              (.ceremony (approvedBy (personOf who s) other))) w.params s).setSlot slot
            { s.slot slot with
              content := .active { use := use, length := length, material := combined.key, kcv := combined.kcv }
              generation := (s.slot slot).generation + 1 })
      ∧ (∀ slot, w.params = .erase slot → (s.slot slot).inUse = 0 →
        { t with consoles := s.consoles } =
          (completedWith
            (.keyErased slot (s.slot slot).generation (approvedBy (personOf who s) other)) w.params s).setSlot slot
            { s.slot slot with content := .empty })
      ∧ (∀ slot k, w.params = .erase slot → (s.slot slot).inUse ≠ 0 → (s.slot slot).content.key? = some k →
        { t with consoles := s.consoles } =
          (s.setSlot slot { s.slot slot with content := .erasing k }).setCeremony
            (.work { w.withAcceptance (personOf who s) with phase := .draining, window := none }))

/-- The ACCEPT that gives a ceremony of another kind both groups: OPEN_LINE takes the line from SETUP to LIVE and ends any stream;
ENROL, REVOKE and UNLOCK make the table change, each with its record; a revoked custodian's logon ends (R35, R53, R80, R97). -/
def Obligations.AcceptCompletesOtherCeremonies : Prop :=
  ∀ (l : ConsoleLink) (who other : Cust) (s : State) (w : CeremonyWork), Listens l s → LoggedOn l who s →
    s.ceremony.run = .work w → awaitsAcceptance w → w.acceptA ≠ some who → w.acceptB ≠ some who →
    w.acceptanceOf (personOf who s).group = none →
    w.acceptanceOf (otherGroup (personOf who s).group) = some other →
    let pair := approvedBy (personOf who s) other
    ∃ t, exec (.accept l) s = .next t
      ∧ (w.params = .openLine → s.line = .setup →
        ConsoleOut.answer 0x06 .ok .nothing ∈ (t.console l).tx
        ∧ { t with consoles := s.consoles } =
          { completedWith (.lineOpened pair) w.params s with
            line := .live, stream := none, flags := s.flags ||| 0x600#12 })
      ∧ (∀ c g digest, w.params = .enrol c g digest →
        ConsoleOut.answer 0x06 .ok .nothing ∈ (t.console l).tx
        ∧ { t with consoles := s.consoles } =
          (completedWith (.custodianChanged .enrol c pair) w.params s).setCustodian c
            (some { group := g, digest := digest, lock := .enrolled, fails := 0 }))
      ∧ (∀ c e, w.params = .unlock c → s.custodian c = some e →
        ConsoleOut.answer 0x06 .ok .nothing ∈ (t.console l).tx
        ∧ { t with consoles := s.consoles } =
          (completedWith (.custodianChanged .unlock c pair) w.params s).setCustodian c
            (some { e with lock := .enrolled, fails := 0 }))
      ∧ (∀ c d f, w.params = .revoke c → c ≠ who → d ≠ c → s.custodian d = some f →
        f.group = (personOf c s).group → f.lock = .enrolled →
        ConsoleOut.answer 0x06 .ok .nothing ∈ (t.console l).tx
        ∧ { t with consoles := s.consoles } =
          (completedWith (.custodianChanged .revoke c pair) w.params s).setCustodian c none
        ∧ ∀ k, ¬LoggedOn k c t)

/-- REJECT, CANCEL and the window's expiry abort the open ceremony with their reason in the states that take them, and are
refused WRONG_STATE in every other; a COMPONENT that awaits its check is answered WRONG_STATE (R55, R56, R57, R58). A window that
does not run, or has not counted its limit, does not expire (R57; log entry 2). -/
def Obligations.RejectCancelAndWindow : Prop :=
  ∀ (s : State),
    (∀ l who, Listens l s → LoggedOn l who s →
      (∀ w, s.ceremony.run = .work w → awaitsAcceptance w → ∃ t, exec (.reject l) s = .next t
        ∧ { t with consoles := s.consoles } = abortedTo .rejected w s
        ∧ ConsoleOut.answer 0x07 .ok .nothing ∈ (t.console l).tx)
      ∧ ((∀ w, s.ceremony.run = .work w → ¬awaitsAcceptance w) →
        exec (.reject l) s = .next (told l 0x07 .wrongState .nothing (heard l s)))
      ∧ (∀ w, s.ceremony.run = .work w → w.opener.cust = who → w.phase ≠ .draining →
        ∃ t, exec (.cancel l) s = .next t
          ∧ { t with consoles := s.consoles } = abortedTo .cancelled w s
          ∧ ConsoleOut.answer 0x08 .ok .nothing ∈ (t.console l).tx
          ∧ ∀ u, w.underCheck = some u → ComponentAnswered .wrongState u s t)
      ∧ ((∀ w, s.ceremony.run = .work w → w.opener.cust ≠ who ∨ w.phase = .draining) →
        exec (.cancel l) s = .next (told l 0x08 .wrongState .nothing (heard l s))))
    ∧ (s.running = true →
      (∀ w timer, s.ceremony.run = .work w → w.window = some timer →
        (timer.limit ≤ timer.count → ∃ t, exec .windowExpiry s = .next t
          ∧ { t with consoles := s.consoles } = abortedTo .timeout w s
          ∧ ∀ u, w.underCheck = some u → ComponentAnswered .wrongState u s t)
        ∧ (timer.count < timer.limit → exec .windowExpiry s = .next s))
      ∧ ((∀ w, s.ceremony.run = .work w → w.window = none) → exec .windowExpiry s = .next s))

/-! ### The Cipher Engine -/

/-- A grant goes round robin: to the first requester after the last granted one that has a pending job, wrapping after 9; with no
job pending the engine becomes FREE (R135, R137). -/
def Obligations.GrantsGoRoundRobin : Prop :=
  ∀ (s : State),
    ((∀ r, s.engine.waiting.get r = none) → (grantNext s).engine = { s.engine with running := none })
    ∧ ∀ (k : Nat) (r : Fin 10), k < 10 → r.val = (s.engine.lastGranted.val + 1 + k) % 10 →
      s.engine.waiting.get r ≠ none →
      (∀ (j : Nat) (q : Fin 10), j < k → q.val = (s.engine.lastGranted.val + 1 + j) % 10 →
        s.engine.waiting.get q = none) →
      (grantNext s).engine =
        { running := s.engine.waiting.get r, waiting := s.engine.waiting.set r none, lastGranted := r }

/-- A PREPARE job completes: for its waiting context it sends KEY and awaits the CONFIRM, the expected KCV being that of the
source key, or of the key derived from the base key, its key set number and the counter; orphaned, it ends the step with
the reason kept and lets the context out of DRAINING, and a close that waited for the last drain is answered (R100, R137,
R139, R140, R161, R168). A holder of the cover key recovers the key from the envelope (R138, R144). That its length field has
one byte is log entry 39. -/
def Obligations.PrepareDoneOffersOrDrains : Prop :=
  ∀ (s : State) (job : Job) (p : Port) (c : Instr), s.running = true → s.engine.running = some job →
    job.requester = benchRequester p →
    (c = .prepareSharedDone ∧ job.inputs.isPrepareShared = true
      ∨ c = .prepareDerivedDone ∧ job.inputs.isPrepareDerived = true) →
    (∀ ss ps, job.orphaned = false → job.zeroised = false → s.ctx p = .preparing ss → s.step p = some ps →
      (s.bench p).present = true → ∃ envelope kcv,
        exec c s = .next (grantNext (sentTo p (.key ps.facts.index envelope)
          (((jobTaken s).setStep p (some { ps with expected := some kcv })).setCtx p
            (.offered ss { count := 0, limit := sessionIdleLimit s }))))
        ∧ (∀ source cover slot usage, job.inputs = .prepareShared source cover slot usage →
          kcv = Config.kcv source ∧ envelope.terminalSlot = slot ∧ envelope.usage = usage
            ∧ envelope.length = source.length ∧ envelope.derivation = none
            ∧ WrappedUnder cover envelope source)
        ∧ (∀ base keySet counter cover slot usage,
          job.inputs = .prepareDerived base keySet counter cover slot usage →
          kcv = Config.kcv (deriveKey base keySet counter) ∧ envelope.terminalSlot = slot ∧ envelope.usage = usage
            ∧ envelope.length = base.length ∧ envelope.derivation = some (keySet, counter)
            ∧ WrappedUnder cover envelope (deriveKey base keySet counter)))
    ∧ (∀ reason mark ps, job.orphaned = true → s.ctx p = .draining reason mark → s.step p = some ps →
      s.journal.reservations.Nodup → ∃ t, exec c s = .next t
        ∧ StepRecorded p (.voided ps.facts none reason) s t ∧ StepReleased ps.facts s t
        ∧ t.ctx p =
          (if (s.bench p).present = false then .vacant else if mark then .attached else .finished)
        ∧ (∀ q, q ≠ p → t.bench q = s.bench q)
        ∧ (∀ tag, s.line = .closing tag →
          ((∃ q reason' mark', t.ctx q = .draining reason' mark') → t.line = s.line ∧ t.responses = s.responses)
          ∧ ((∀ q reason' mark', t.ctx q ≠ .draining reason' mark') →
            t.line = .setup ∧ t.responses = s.responses ++
              [{ tag := tag, kind := 0x12, status := .ok, changed := false, body := .nothing }]))
        ∧ ((∀ tag, s.line ≠ .closing tag) → t.line = s.line ∧ t.responses = s.responses))

/-! ### Bench sessions -/

/-- Every bench message: discarded without an answer while its terminal is absent, 4 answers are due or the context is OFF or
VACANT; answered by the code of its context's state where that state does not take it; answered SEQUENCE when it does not
read. A message taken restarts the idle timer of a session (R150, R151, R170, R200; that the receiver is IDLE after it, log
entry 9). -/
def Obligations.BenchMessagesByState : Prop :=
  ∀ (c : Instr) (p : Port) (s : State), benchMessage? c = some p → s.running = true →
    ((s.bench p).present = false ∨ 4 ≤ (s.bench p).answersDue ∨ s.ctx p = .off ∨ s.ctx p = .vacant →
      exec c s = .next (s.setBench p { s.bench p with rx := .idle }))
    ∧ (Hears p s → c ≠ .benchBadMessage p → takenIn c (s.ctx p) = false →
      exec c s = .next (verdictTo p (untakenCode (s.ctx p)) (heardAt p s)))
    ∧ (Hears p s → exec (.benchBadMessage p) s = .next (verdictTo p .sequence (heardAt p s)))

/-- HELLO in ATTACHED: the line, the serial, what the registry finds, with discovery under the OPEN policy, and the recipe
checks that end in a session or in FINISHED (R114, R117, R154, R155, R156, R157). -/
def Obligations.HelloOpensOrRefuses : Prop :=
  ∀ (p : Port) (serial : Serial) (model : ModelCode) (s : State), Hears p s → s.ctx p = .attached → RegistryPlaced s →
    let u := heardAt p s
    (s.line = .paused → exec (.hello p serial model) s = .next (verdictTo p .paused u))
    ∧ (s.line ≠ .live → s.line ≠ .paused → exec (.hello p serial model) s = .next (verdictTo p .notLive u))
    ∧ (s.line = .live → serial.length = 0 ∨ 16 < serial.length →
      exec (.hello p serial model) s = .next (refusedTerminal p .unknownTerminal u))
    ∧ (s.line = .live → 1 ≤ serial.length → serial.length ≤ 16 →
      (∀ i e, s.registry.get i = some e → e.serial = serial →
        (e.state = .loading → exec (.hello p serial model) s = .next
          (refusedTerminal p .duplicateSerial { u with flags := s.flags ||| 0x040#12 }))
        ∧ (e.state = .complete → exec (.hello p serial model) s = .next (refusedTerminal p .alreadyComplete u))
        ∧ (e.state = .rejected → exec (.hello p serial model) s = .next (refusedTerminal p .rejectedTerminal u))
        ∧ (e.state = .expected ∨ e.state = .partialLoad →
          ∃ t, exec (.hello p serial model) s = .next t ∧ HelloJudged p model i e u t))
      ∧ ((∀ i e, s.registry.get i = some e → e.serial ≠ serial) →
        ((∀ pr, s.profile = some pr → pr.params.policy = .manifestOnly) →
          exec (.hello p serial model) s = .next (refusedTerminal p .unknownTerminal u))
        ∧ ∀ pr, s.profile = some pr → pr.params.policy = .openPolicy →
          (recipeForModel model s = none →
            exec (.hello p serial model) s = .next (refusedTerminal p .modelMismatch u))
          ∧ ∀ r, recipeForModel model s = some r →
            let e := newEntry serial .discovered (some r.number)
            (RowFull serial s.registry →
              exec (.hello p serial model) s = .next (refusedTerminal p .registryFull u))
            ∧ ∀ way, FreeWay serial way s.registry ∨ (∃ old, VictimWay serial way old s.registry) →
              let i := position (rowOf serial) way
              ∃ t, exec (.hello p serial model) s = .next t
                ∧ HelloJudged p model i e (u.setRegistry (s.registry.set i (some e))) t))

/-- FETCH in IDENTIFIED: its checks in order, and an admitted step, which holds a reservation, its claims on both slots, its
counter when DERIVED, its record in the store and its job (R8, R9, R10, R149, R158, R159, R160). That no reservation of the
port is held without a step is a premise, which `JournalBooked` states. -/
def Obligations.FetchAdmitsOrRefuses : Prop :=
  ∀ (p : Port) (index : Nat) (ss : Session) (timer : Timer) (s : State), Hears p s → s.ctx p = .identified ss timer →
    RegistryPlaced s → ResHolder.bench p ∉ s.journal.reservations →
    let u := heardAt p s
    (s.line ≠ .live → exec (.fetch p index) s = .next (verdictTo p .paused u))
    ∧ (s.line = .live →
      (ss.stepCount ≤ index ∨ (∀ r, recipeNumbered ss.recipe s = some r → r.steps.length ≤ index) →
        exec (.fetch p index) s = .next (verdictTo p .noSuchStep u))
      ∧ ∀ r st i e, index < ss.stepCount → recipeNumbered ss.recipe s = some r → r.steps[index]? = some st →
        s.registry.get i = some e → e.serial = ss.serial →
        (e.delivered.getLsbD index = true → exec (.fetch p index) s = .next (verdictTo p .alreadyDelivered u))
        ∧ (e.delivered.getLsbD index = false →
          (511 ≤ s.journal.occupancy →
            exec (.fetch p index) s = .next (verdictTo p .wait { u with flags := s.flags ||| 0x008#12 }))
          ∧ (s.journal.occupancy < 511 →
            let refusedWith (code : Status) : Prop :=
              exec (.fetch p index) s = .next (verdictTo p code { u with flags := (reserved (.bench p) s).flags })
            (¬granted st.source p s → refusedWith .notPermitted)
            ∧ (granted st.source p s →
              (st.kind = .derived → (∃ k, (s.slot st.source).content = .exhausted k) → refusedWith .counterExhausted)
              ∧ (¬(st.kind = .derived ∧ ∃ k, (s.slot st.source).content = .exhausted k) →
                (¬∃ k d, (s.slot st.source).content = .active k ∧ SourceFits st.kind k d) →
                refusedWith .slotUnavailable)
              ∧ ∀ k d, (s.slot st.source).content = .active k → SourceFits st.kind k d →
                (¬granted ss.cover p s → refusedWith .notPermitted)
                ∧ (granted ss.cover p s →
                  ((¬∃ c, (s.slot ss.cover).content = .active c ∧ c.use = .transport) → refusedWith .slotUnavailable)
                  ∧ ∀ c, (s.slot ss.cover).content = .active c → c.use = .transport →
                    exec (.fetch p index) s = .next
                      { (((admitted p st.source ss.cover d u).setStep p (some
                          { facts :=
                              { port := p, serial := ss.serial, recipe := ss.recipe, version := ss.version, index := index
                                terminalSlot := st.terminalSlot, source := st.source
                                sourceGen := (s.slot st.source).generation, cover := ss.cover
                                coverGen := (s.slot ss.cover).generation, counter := d.map Prod.snd }
                            usage := st.usage
                            keySet := d.map Prod.fst
                            expected := none })).setCtx p (.preparing ss)) with
                        engine := requested (benchRequester p)
                          (prepareInputs k.material c.material d st.terminalSlot st.usage) s.engine })))))

/-- CONFIRM in OFFERED: another step index is refused SEQUENCE; a KCV equal to the expected one delivers the step, and with the
last step the terminal is done; another KCV voids it, and at the retry limit rejects the terminal (R119, R120, R162, R163,
R164). -/
def Obligations.ConfirmEndsTheStep : Prop :=
  ∀ (p : Port) (index : Nat) (kcv : Kcv) (ss : Session) (timer : Timer) (ps : PendingStep) (s : State), Hears p s →
    s.ctx p = .offered ss timer → s.step p = some ps →
    (ps.facts.index ≠ index → exec (.confirm p index kcv) s = .next (verdictTo p .sequence (heardAt p s)))
    ∧ ∀ i e, ps.facts.index = index → RegistryPlaced s → s.journal.reservations.Nodup →
      s.registry.get i = some e → e.serial = ss.serial → e.state = .loading →
      ∃ t, exec (.confirm p index kcv) s = .next t
        ∧ StepReleased ps.facts s t ∧ (∀ q, q ≠ p → t.bench q = s.bench q)
        ∧ t.line = s.line ∧ t.profile = s.profile ∧ t.store.custodians = s.store.custodians
        ∧ t.engine = s.engine ∧ t.responses = s.responses
        ∧ (ps.expected = some kcv → StepRecorded p (.delivered ps.facts kcv) s t
          ∧ let d := e.delivered ||| BitVec.twoPow 12 index
            ((∀ k, k < ss.stepCount → d.getLsbD k = true) →
              t.registry = s.registry.set i (some { e with delivered := d, state := .complete, boundPort := none })
                ∧ t.ctx p = .finished ∧ (t.bench p).tx = (s.bench p).tx ++ [.verdict .ok true false]
                ∧ t.flags.getLsbD 4 = true)
            ∧ ((∃ k, k < ss.stepCount ∧ d.getLsbD k = false) →
              t.registry = s.registry.set i (some { e with delivered := d })
                ∧ t.ctx p = .identified ss { count := 0, limit := sessionIdleLimit s }
                ∧ (t.bench p).tx = (s.bench p).tx ++ [.verdict .ok false false]
                ∧ t.flags.getLsbD 4 = s.flags.getLsbD 4))
        ∧ (ps.expected ≠ some kcv → StepRecorded p (.voided ps.facts ps.expected .kcvMismatch) s t
          ∧ (e.mismatches + 1 < retryLimit s →
            t.registry = s.registry.set i (some { e with mismatches := e.mismatches + 1 })
              ∧ t.ctx p = .identified ss { count := 0, limit := sessionIdleLimit s }
              ∧ (t.bench p).tx = (s.bench p).tx ++ [.verdict .kcvMismatch false false]
              ∧ t.flags.getLsbD 5 = s.flags.getLsbD 5)
          ∧ (retryLimit s ≤ e.mismatches + 1 →
            t.registry = s.registry.set i (some
                { e with mismatches := e.mismatches + 1, state := .rejected, boundPort := none })
              ∧ t.ctx p = .finished ∧ (t.bench p).tx = (s.bench p).tx ++ [.verdict .kcvMismatch false true]
              ∧ t.flags.getLsbD 5 = true))

/-- BYE, the idle expiry and the terminal's departure end a session by the common procedure, each with its reason; the BYE is
then answered CLOSED (R153, R165, R166, R167, R171). A timer below its limit, as one that a request has restarted, does not
expire (R169, R171). Without a session the terminal's departure and arrival move the context alone, and no idle timer runs (R152,
R153; log entry 2). -/
def Obligations.SessionsEndByTheirReason : Prop :=
  ∀ (p : Port) (s : State),
    let gone := s.setBench p { s.bench p with present := false, rx := .idle, tx := [] }
    (∀ ss, sessionOf? (s.ctx p) = some ss → s.journal.reservations.Nodup →
      (Hears p s → ∃ t, exec (.bye p) s = .next (verdictTo p .closed t)
        ∧ SessionEnded .abandoned p ss (heardAt p s) t)
      ∧ (∀ timer, s.running = true → s.ctx p = .identified ss timer ∨ s.ctx p = .offered ss timer →
        (timer.limit ≤ timer.count → ∃ t, exec (.sessionIdleExpiry p) s = .next t
          ∧ SessionEnded .idleTimeout p ss s t)
        ∧ (timer.count < timer.limit → exec (.sessionIdleExpiry p) s = .next s))
      ∧ (s.running = true → (s.bench p).present = true → ∃ t, exec (.terminalPresentDeasserted p) s = .next t
        ∧ SessionEnded .detached p ss gone t))
    ∧ ((∀ ss timer, s.ctx p ≠ .identified ss timer ∧ s.ctx p ≠ .offered ss timer) → s.running = true →
      exec (.sessionIdleExpiry p) s = .next s)
    ∧ (sessionOf? (s.ctx p) = none → s.running = true → (s.bench p).present = true →
      exec (.terminalPresentDeasserted p) s = .next (gone.setCtx p
        (match s.ctx p with
          | .attached => .vacant
          | .finished => .vacant
          | .draining reason _ => .draining reason true
          | c => c)))
    ∧ (s.running = true → (s.bench p).present = false →
      exec (.terminalPresentAsserted p) s = .next (s.setBench p
        { s.bench p with present := true, ctx := if s.ctx p = .vacant then .attached else s.ctx p }))

/-! ### Links -/

/-- The receivers and the transmit queues (R199, R201): A5h starts a frame and another byte in IDLE is dropped; a byte of a
frame still short is collected and the gap timer restarts; a frame with a wrong CRC, a frame judged bad and two seconds without
a byte leave the receiver IDLE and nothing else changed, and a receiver that has not waited so long has no such expiry (log entry
2); the oldest message leaves its queue when it has been sent whole. That the
bytes sent are kept is the model's choice (log entry 25). -/
def Obligations.ReceiversAndTransmitters : Prop :=
  ∀ (k : LinkId) (s : State), s.running = true →
    exec (.linkBadFrame k) s = .next (setReceiver k .idle s)
    ∧ (∀ bytes gap, receiver k s = .assembling bytes gap → 2 ≤ gap →
      exec (.receiverTimeout k) s = .next (setReceiver k .idle s))
    ∧ ((receiver k s = .idle ∨ ∃ bytes gap, receiver k s = .assembling bytes gap ∧ gap < 2) →
      exec (.receiverTimeout k) s = .next s)
    ∧ (receiver k s = .idle →
      exec (.linkByteReceived k 0xA5) s = .next (setReceiver k (.assembling [] 0) s)
      ∧ ∀ x, x ≠ 0xA5 → exec (.linkByteReceived k x) s = .next s)
    ∧ (∀ bytes gap x, receiver k s = .assembling bytes gap →
      ((bytes ++ [x]).length < 2 →
        exec (.linkByteReceived k x) s = .next (setReceiver k (.assembling (bytes ++ [x]) 0) s))
      ∧ ∀ kind len rest, bytes ++ [x] = kind :: len :: rest →
        (rest.length < len.toNat + 2 →
          exec (.linkByteReceived k x) s = .next (setReceiver k (.assembling (bytes ++ [x]) 0) s))
        ∧ (rest.length = len.toNat + 2 →
          rest.drop len.toNat ≠ beBytes 2 (crc16 (kind :: len :: rest.take len.toNat)).toNat →
          exec (.linkByteReceived k x) s = .next (setReceiver k .idle s)))
    ∧ (∀ l, k = .console l →
      ((s.console l).tx = [] → exec (.transmitDone k) s = .next s)
      ∧ ∀ m rest, (s.console l).tx = m :: rest →
        exec (.transmitDone k) s = .next (s.setConsole l { s.console l with tx := rest, sent := m.bytes }))
    ∧ (∀ p, k = .bench p →
      ((s.bench p).tx = [] → exec (.transmitDone k) s = .next s)
      ∧ ∀ m rest, (s.bench p).tx = m :: rest →
        exec (.transmitDone k) s = .next (s.setBench p { s.bench p with tx := rest, sent := m.bytes }))

/-- The byte that completes a serial frame laid out as a message does exactly what that message's row does (R199, R211): no bit
of the layout is dropped or read as another field. A good frame that spells no message does what the bad-message row of its
link does (R150, R200; log entry 8), but for an OPEN whose ceremony kind is not one of the six, whatever follows the kind: from a
link with no logged-on custodian it is answered NOT_LOGGED_ON, while a ceremony is open BUSY, on a ZEROISED line ZEROISED, and
otherwise WRONG_STATE (R26, R42; log entry 11). That a code and a key length have one byte is log entry
39. -/
def Obligations.LinkFramesRunAsTheirRows : Prop :=
  ∀ (k : LinkId) (x : Byte) (collected : List Byte) (gap : Nat) (s : State), s.running = true →
    receiver k s = .assembling collected gap →
    (∀ c kind body, linkMessage? c = some (k, kind, body) → c.wf = true →
      collected ++ [x] = frameAfterStart kind body →
      exec (.linkByteReceived k x) s = exec c s)
    ∧ (∀ (kind : Byte) body, body.length ≤ 255 → collected ++ [x] = frameAfterStart kind.toNat body →
      (∀ c, c.wf = true → linkMessage? c ≠ some (k, kind.toNat, body)) →
      ¬(kind = 0x04 ∧ (∃ l, k = .console l) ∧ ∃ ceremony rest, body = ceremony :: rest ∧ ceremony.toNat ∉ [1, 2, 3, 4, 5, 6]) →
      exec (.linkByteReceived k x) s =
        (match k with
          | .console l => exec (.consoleBadMessage l kind) s
          | .bench p => exec (.benchBadMessage p) s))
    ∧ ∀ l (ceremony : Byte) rest, k = .console l → rest.length ≤ 254 → ceremony.toNat ∉ [1, 2, 3, 4, 5, 6] →
      collected ++ [x] = frameAfterStart 0x04 (ceremony :: rest) →
      let answers (code : Status) : Prop :=
        exec (.linkByteReceived k x) s = .next (told l 0x04 code .nothing (heard l s))
      ((s.console l).present = false ∨ 4 ≤ (s.console l).answersDue →
        exec (.linkByteReceived k x) s = .next (s.setConsole l { s.console l with rx := .idle }))
      ∧ (Takes l s → (s.console l).unanswered = true → answers .busy)
      ∧ (Listens l s → ((s.console l).logon = none → answers .notLoggedOn)
        ∧ ((s.console l).logon ≠ none → (s.ceremony.run ≠ .idle → answers .busy)
          ∧ (s.ceremony.run = .idle → (s.line = .zeroised → answers .zeroised)
            ∧ (s.line ≠ .zeroised → answers .wrongState))))

/-! ### Invariants -/

/-- Every step keeps the control port's book-keeping: at most 8 requests outstanding, no tag twice, each outstanding request
either with its response in the queue or withheld by the import or the close that answers for it (R195); RESPONSE_READY set
exactly while the response queue is non-empty (R203), and the error counts at most 255 (R196). -/
def Obligations.StepKeepsPortBooked : Prop :=
  ∀ s t : State, PortBooked s → step s = .next t → PortBooked t ∧ (ReadyFollowsQueue s → ReadyFollowsQueue t)

/-- Every step keeps the journal's book-keeping: occupancy at most 511, one reservation at most for each holder and exactly
while its work is in flight, at most one TAMPER record (R181, R182, R186). -/
def Obligations.StepKeepsJournalBooked : Prop :=
  ∀ s t : State, JournalBooked s → step s = .next t → JournalBooked t

/-- Every step keeps every in-use count equal to the claims of the steps and the import in flight (R8). -/
def Obligations.StepKeepsCountsExact : Prop :=
  ∀ s t : State, JournalBooked s → CountsExact s → step s = .next t → CountsExact t

/-- A ZEROISED part stays without keys: every step keeps it so (R18, R97, R103, R104). -/
def Obligations.StepKeepsNothingHeld : Prop :=
  ∀ s t : State, NothingHeld s → step s = .next t → NothingHeld t

/-- Every step keeps the range of the next counters (R1, R10), and the registry in order: an entry in the row of its serial, one
place for a serial, LOADING exactly when bound (R109, R110, R112). -/
def Obligations.StepKeepsCountersAndRegistry : Prop :=
  ∀ s t : State, step s = .next t →
    (CountersInRange s → CountersInRange t) ∧ (RegistryPlaced s → RegistryPlaced t)

/-- Every step keeps the logons in order (R27, R33), the transmit queues of the custodian links within 8 messages and 4 answers
(R200, R201), and the Cipher Engine's record in order (R132). -/
def Obligations.StepKeepsLinksAndEngine : Prop :=
  ∀ s t : State, step s = .next t →
    (LogonsHeld s → LogonsHeld t) ∧ (ConsoleQueuesBounded s → ConsoleQueuesBounded t)
      ∧ (EngineOrdered s → EngineOrdered t)

/-- Counters and delivered sets only grow. While a slot keeps its generation, a base derivation key in it keeps its key set number
and its next counter never falls (R10, R20). While a place of the registry keeps its serial, no step index
leaves its delivered set (R112). -/
def Obligations.CountersAndDeliveredSetsOnlyGrow : Prop :=
  ∀ s t : State, step s = .next t →
    (∀ i keySet next keySet' next', (t.slot i).generation = (s.slot i).generation →
      derivationFields (s.slot i) = some (keySet, next) → derivationFields (t.slot i) = some (keySet', next') →
      keySet' = keySet ∧ next ≤ next')
    ∧ ∀ i e e', s.registry.get i = some e → t.registry.get i = some e' → e'.serial = e.serial →
      ∀ k, e.delivered.getLsbD k = true → e'.delivered.getLsbD k = true

/-- The state right after reset has every invariant: the registry, the journal, the control port and the Attention Unit as a reset
leaves them (R193, R195, R207) in a part whose secure store was lost (R108). Which reset State.reset stands for, and the levels of
its inputs, are log entry 4. -/
def Obligations.InvariantsHoldAtReset : Prop :=
  PortBooked State.reset ∧ ReadyFollowsQueue State.reset ∧ JournalBooked State.reset ∧ CountsExact State.reset
    ∧ NothingHeld State.reset ∧ CountersInRange State.reset ∧ RegistryPlaced State.reset ∧ LogonsHeld State.reset
    ∧ ConsoleQueuesBounded State.reset ∧ EngineOrdered State.reset
end

