-- ==== Sys2Proof/Laws/Blocks.lean ====
section
/-! SUPPORT. The staged blocks: what each reading operation reads, as the bytes that it takes for each value, and what the checks
of PROFILE_COMMIT make of them. -/

namespace Sys2Proof.Machine

open Sys2Proof.Safety

/-! ### Reading fields out of bytes (R208, R209) -/

/-- A reading operation takes exactly the bytes `enc a` for each value `a` that has `P`, whatever follows them. -/
def Reads {α : Type} (item : List Byte → Option (α × List Byte)) (P : α → Prop) (enc : α → List Byte) : Prop :=
  ∀ b a r, item b = some (a, r) ↔ P a ∧ b = enc a ++ r

theorem beBytes_length (w n : Nat) : (beBytes w n).length = w := by
  induction w with
  | zero => rfl
  | succ w ih => simp [beBytes, ih]

theorem beNat_append (a b : List Byte) : beNat (a ++ b) = beNat a * 256 ^ b.length + beNat b := by
  induction b using List.reverseRecOn with
  | nil => simp [beNat]
  | append_singleton b x ih =>
    rw [← List.append_assoc]
    have h1 : ∀ (l : List Byte) (y : Byte), beNat (l ++ [y]) = beNat l * 256 + y.toNat := by
      intro l y; simp [beNat]
    rw [h1, h1, ih, List.length_append, List.length_singleton, pow_succ]
    ring

theorem beNat_cons (x : Byte) (b : List Byte) : beNat (x :: b) = x.toNat * 256 ^ b.length + beNat b := by
  have := beNat_append [x] b
  simpa [beNat] using this

theorem beNat_lt (b : List Byte) : beNat b < 256 ^ b.length := by
  induction b with
  | nil => simp [beNat]
  | cons x b ih =>
    rw [beNat_cons, List.length_cons, pow_succ]
    have := x.isLt
    nlinarith

theorem beNat_beBytes {w n : Nat} (h : n < 256 ^ w) : beNat (beBytes w n) = n := by
  have key : ∀ w n, beNat (beBytes w n) = n % 256 ^ w := by
    intro w
    induction w with
    | zero => intro n; simp [beBytes, beNat, Nat.mod_one]
    | succ w ih =>
      intro n
      have hx : (BitVec.ofNat 8 (n / 256 ^ w)).toNat = n / 256 ^ w % 256 := by simp
      rw [beBytes, beNat_cons, beBytes_length, ih, hx, pow_succ, Nat.mod_mul]
      ring
  rw [key, Nat.mod_eq_of_lt h]

theorem beBytes_beNat (b : List Byte) : beBytes b.length (beNat b) = b := by
  induction b with
  | nil => rfl
  | cons x b ih =>
    have hlt := beNat_lt b
    have hpos : 0 < 256 ^ b.length := Nat.pow_pos (by omega)
    have hdiv : beNat (x :: b) / 256 ^ b.length = x.toNat := by
      rw [beNat_cons, Nat.mul_comm, Nat.mul_add_div hpos, Nat.div_eq_of_lt hlt, Nat.add_zero]
    have hrest : ∀ w n m, n % 256 ^ w = m % 256 ^ w → beBytes w n = beBytes w m := by
      intro w
      induction w with
      | zero => intros; rfl
      | succ w ih =>
        intro n m h
        have hd : n / 256 ^ w % 256 = m / 256 ^ w % 256 := by
          rw [pow_succ] at h
          have := congrArg (· / 256 ^ w) h
          simpa [Nat.mod_mul_right_div_self] using this
        have hm : n % 256 ^ w = m % 256 ^ w := by
          have := congrArg (· % 256 ^ w) h
          simpa [pow_succ, Nat.mod_mul_right_mod] using this
        rw [beBytes, beBytes, ih n m hm]
        congr 1
        apply BitVec.eq_of_toNat_eq
        simpa using hd
    rw [List.length_cons, beBytes, hdiv, BitVec.ofNat_toNat, BitVec.setWidth_eq]
    congr 1
    rw [hrest _ _ (beNat b) (by rw [beNat_cons, Nat.mul_comm, Nat.mul_add_mod]), ih]

theorem readNat_reads (w : Nat) : Reads (readNat w) (· < 256 ^ w) (beBytes w) := by
  intro b a r
  constructor
  · intro h
    simp only [readNat, readBytes, Option.map_eq_some_iff, Prod.exists, Prod.mk.injEq, Option.ite_none_right_eq_some,
      Option.some.injEq] at h
    obtain ⟨x, rest, ⟨hl, rfl, rfl⟩, rfl, rfl⟩ := h
    have hx : (b.take w).length = w := by simp [hl]
    refine ⟨by simpa [hx] using beNat_lt (b.take w), ?_⟩
    have := beBytes_beNat (b.take w)
    rw [hx] at this
    rw [this, List.take_append_drop]
  · rintro ⟨ha, rfl⟩
    have hw := beBytes_length w a
    simp only [readNat, readBytes, List.length_append, hw, Nat.le_add_right, if_true, Option.map_some]
    rw [List.take_left' hw, List.drop_left' hw, beNat_beBytes ha]

theorem readByte_reads : Reads readByte (· < 256) b1 := readNat_reads 1

theorem readFlag_reads : Reads readFlag (fun _ => True) bFlag := by
  intro b a r
  cases b with
  | nil => cases a <;> simp [readFlag, bFlag]
  | cons x b =>
    simp only [readFlag]
    split_ifs with h0 h1
    · subst h0; cases a <;> simp [bFlag]
    · subst h1; cases a <;> simp [bFlag]
    · cases a
      · simpa [bFlag] using fun h => absurd h h0
      · simpa [bFlag] using fun h => absurd h h1

theorem readString_reads : Reads readString (fun x => x.length < 256) bString := by
  intro b a r
  simp only [readString]
  constructor
  · intro h
    cases hn : readNat 1 b with
    | none => simp [hn] at h
    | some x =>
      obtain ⟨n, rest⟩ := x
      obtain ⟨hlt, rfl⟩ := (readNat_reads 1 b n rest).1 hn
      simp only [hn, readBytes, Option.ite_none_right_eq_some, Option.some.injEq, Prod.mk.injEq] at h
      obtain ⟨hl, rfl, rfl⟩ := h
      have hx : (rest.take n).length = n := by simp [hl]
      refine ⟨by simpa [hx] using hlt, ?_⟩
      rw [bString, hx, b1, List.append_assoc, List.take_append_drop]
  · rintro ⟨ha, rfl⟩
    have hn := (readNat_reads 1 (bString a ++ r) a.length (a ++ r)).2 ⟨by simpa using ha, by simp [bString, b1]⟩
    simp [hn, readBytes]

theorem readOptNat_reads (k : Nat) : Reads (readOptNat k) (fun o => ∀ n, o = some n → n < 256 ^ k) (bOpt (beBytes k)) := by
  intro b a r
  simp only [readOptNat]
  constructor
  · intro h
    cases hf : readFlag b with
    | none => simp [hf] at h
    | some x =>
      obtain ⟨f, rest⟩ := x
      obtain ⟨-, rfl⟩ := (readFlag_reads b f rest).1 hf
      cases f with
      | false =>
        simp only [hf, Option.some.injEq, Prod.mk.injEq] at h
        obtain ⟨rfl, rfl⟩ := h
        simp [bOpt, bFlag]
      | true =>
        simp only [hf, Option.map_eq_some_iff, Prod.exists, Prod.mk.injEq] at h
        obtain ⟨n, q, hq, rfl, rfl⟩ := h
        obtain ⟨hn, rfl⟩ := (readNat_reads k rest n q).1 hq
        refine ⟨by intro m hm; cases hm; exact hn, by simp [bOpt, bFlag]⟩
  · rintro ⟨ha, rfl⟩
    cases a with
    | none => simp [bOpt, readFlag]
    | some n =>
      have hn := (readNat_reads k (beBytes k n ++ r) n r).2 ⟨ha n rfl, rfl⟩
      simp [bOpt, readFlag, hn]

theorem readMany_reads {α : Type} {item : List Byte → Option (α × List Byte)} {P : α → Prop} {enc : α → List Byte}
    (hi : Reads item P enc) (n : Nat) :
    Reads (readMany item n) (fun l => l.length = n ∧ ∀ a ∈ l, P a) (fun l => l.flatMap enc) := by
  induction n with
  | zero =>
    intro b a r
    simp only [readMany, Option.some.injEq, Prod.mk.injEq]
    constructor
    · rintro ⟨rfl, rfl⟩; simp
    · rintro ⟨⟨h, -⟩, rfl⟩
      rw [List.length_eq_zero_iff] at h; subst h; simp
  | succ n ih =>
    intro b a r
    simp only [readMany]
    constructor
    · intro h
      cases h1 : item b with
      | none => simp [h1] at h
      | some x =>
        obtain ⟨a1, rest⟩ := x
        obtain ⟨hp, rfl⟩ := (hi b a1 rest).1 h1
        cases h2 : readMany item n rest with
        | none => simp [h1, h2] at h
        | some y =>
          obtain ⟨as, q⟩ := y
          obtain ⟨⟨hl, hall⟩, rfl⟩ := (ih rest as q).1 h2
          simp only [h1, h2, Option.some.injEq, Prod.mk.injEq] at h
          obtain ⟨rfl, rfl⟩ := h
          exact ⟨⟨by simp [hl], by simpa using ⟨hp, hall⟩⟩, by simp⟩
    · rintro ⟨⟨hl, hall⟩, rfl⟩
      cases a with
      | nil => simp at hl
      | cons a1 as =>
        have h1 := (hi ((a1 :: as).flatMap enc ++ r) a1 (as.flatMap enc ++ r)).2 ⟨hall a1 (by simp), by simp⟩
        have h2 := (ih (as.flatMap enc ++ r) as r).2 ⟨⟨by simpa using hl, fun x hx => hall x (by simp [hx])⟩, rfl⟩
        simp only [h1, h2]

theorem readList_reads {α : Type} {item : List Byte → Option (α × List Byte)} {P : α → Prop} {enc : α → List Byte}
    (hi : Reads item P enc) : Reads (readList item) (fun l => l.length < 256 ∧ ∀ a ∈ l, P a) (bList enc) := by
  intro b a r
  simp only [readList]
  constructor
  · intro h
    cases hn : readNat 1 b with
    | none => simp [hn] at h
    | some x =>
      obtain ⟨n, rest⟩ := x
      obtain ⟨hlt, rfl⟩ := (readNat_reads 1 b n rest).1 hn
      simp only [hn] at h
      obtain ⟨⟨rfl, hall⟩, rfl⟩ := (readMany_reads hi n rest a r).1 h
      exact ⟨⟨by simpa using hlt, hall⟩, by simp [bList, b1]⟩
  · rintro ⟨⟨hl, hall⟩, rfl⟩
    have hn := (readNat_reads 1 (bList enc a ++ r) a.length (a.flatMap enc ++ r)).2
      ⟨by simpa using hl, by simp [bList, b1]⟩
    simp only [hn]
    exact (readMany_reads hi a.length _ a r).2 ⟨⟨rfl, hall⟩, rfl⟩

/-- A whole body reads as a value exactly when it is that value's bytes. -/
theorem readWhole_eq_some {α : Type} {item : List Byte → Option (α × List Byte)} {P : α → Prop} {enc : α → List Byte}
    (hi : Reads item P enc) (b : List Byte) (a : α) : readWhole item b = some a ↔ P a ∧ b = enc a := by
  have hb := hi b a []
  rw [List.append_nil] at hb
  rw [← hb]
  unfold readWhole
  cases h : item b with
  | none => simp
  | some x => obtain ⟨x, r⟩ := x; cases r <;> simp

theorem readWhole_eq_none {α : Type} {item : List Byte → Option (α × List Byte)} {P : α → Prop} {enc : α → List Byte}
    (hi : Reads item P enc) (b : List Byte) : readWhole item b = none ↔ ∀ a, P a → b ≠ enc a := by
  rw [Option.eq_none_iff_forall_ne_some]
  exact forall_congr' fun a => by rw [ne_eq, readWhole_eq_some hi]; tauto

/-! ### The tables (R88-R92, R94, R214) -/

theorem within_iff {low high n : Nat} : within low high n = true ↔ low ≤ n ∧ n ≤ high := by simp [within]

theorem readParams_reads : Reads readParams
    (fun x => x.policy < 256 ∧ x.sessionIdle < 65536 ∧ x.retry < 256 ∧ x.window < 65536 ∧ x.custodianIdle < 65536
      ∧ x.ageLimit < 65536 ∧ x.highMark < 65536 ∧ x.lowMargin < 65536)
    (fun x => b1 x.policy ++ beBytes 2 x.sessionIdle ++ b1 x.retry ++ beBytes 2 x.window ++ beBytes 2 x.custodianIdle
      ++ beBytes 2 x.ageLimit ++ beBytes 2 x.highMark ++ beBytes 2 x.lowMargin) := by
  intro b a r
  simp only [readParams, Option.bind_eq_bind, Option.bind_eq_some_iff, Prod.exists, readByte_reads _ _ _,
    readNat_reads 2 _ _ _, Option.some.injEq, Prod.mk.injEq]
  constructor
  · rintro ⟨_, _, ⟨h1, rfl⟩, _, _, ⟨h2, rfl⟩, _, _, ⟨h3, rfl⟩, _, _, ⟨h4, rfl⟩, _, _, ⟨h5, rfl⟩, _, _, ⟨h6, rfl⟩, _, _,
      ⟨h7, rfl⟩, _, _, ⟨h8, rfl⟩, rfl, rfl⟩
    exact ⟨⟨h1, h2, h3, h4, h5, h6, h7, h8⟩, by simp only [List.append_assoc]⟩
  · rintro ⟨⟨h1, h2, h3, h4, h5, h6, h7, h8⟩, rfl⟩
    simp only [List.append_assoc]
    exact ⟨_, _, ⟨h1, rfl⟩, _, _, ⟨h2, rfl⟩, _, _, ⟨h3, rfl⟩, _, _, ⟨h4, rfl⟩, _, _, ⟨h5, rfl⟩, _, _, ⟨h6, rfl⟩, _, _,
      ⟨h7, rfl⟩, _, _, ⟨h8, rfl⟩, rfl, rfl⟩

/-- The line parameters are read from a body exactly when it is theirs. -/
theorem readLineParams_eq_some (body : List Byte) (p : LineParams) :
    (readWhole readParams body).bind paramsInRange = some p ↔ ParamsBody body p := by
  simp only [Option.bind_eq_some_iff, readWhole_eq_some readParams_reads, ParamsBody]
  constructor
  · rintro ⟨x, ⟨hx, rfl⟩, h⟩
    unfold paramsInRange at h
    have hq : ∀ q, policyOf? x.policy = some q → x.policy = match q with | .manifestOnly => 1 | .openPolicy => 2 := by
      intro q h
      unfold policyOf? at h
      split at h <;> cases h <;> assumption
    cases hp : policyOf? x.policy with
    | none => simp [hp] at h
    | some q =>
      simp only [hp, Option.ite_none_right_eq_some, Bool.and_eq_true, within_iff, Option.some.injEq] at h
      obtain ⟨⟨⟨⟨⟨⟨h1, h2⟩, h3⟩, h4⟩, h5⟩, h6⟩, rfl⟩ := h
      refine ⟨?_, h1, h2, h3, h4, h5, h6, Nat.le_of_lt_succ hx.2.2.2.2.2.2.2⟩
      cases q <;> rw [hq _ hp]
  · rintro ⟨rfl, h1, h2, h3, h4, h5, h6, h7⟩
    refine ⟨{ policy := match p.policy with | .manifestOnly => 1 | .openPolicy => 2, sessionIdle := p.sessionIdle
              retry := p.retry, window := p.window, custodianIdle := p.custodianIdle, ageLimit := p.ageLimit
              highMark := p.highMark, lowMargin := p.lowMargin }, ⟨⟨?_, ?_, ?_, ?_, ?_, ?_, ?_, ?_⟩, rfl⟩, ?_⟩
    · cases p.policy <;> exact of_decide_eq_true rfl
    all_goals try (dsimp only; omega)
    have hp : policyOf? (match p.policy with | .manifestOnly => 1 | .openPolicy => 2) = some p.policy := by
      cases p.policy <;> rfl
    simp only [paramsInRange, hp]
    rw [if_pos]
    simp only [Bool.and_eq_true, within_iff]
    exact ⟨⟨⟨⟨⟨h1, h2⟩, h3⟩, h4⟩, h5⟩, h6⟩

theorem ofNat_toNat_of_lt {w n : Nat} (h : n < 2 ^ w) : (BitVec.ofNat w n).toNat = n := by simp [Nat.mod_eq_of_lt h]

theorem readPortEntry_reads : Reads readPortEntry (fun _ => True) (fun e => bFlag e.attach ++ beBytes 2 e.allowed.toNat) := by
  intro b a r
  simp only [readPortEntry, Option.bind_eq_bind, Option.bind_eq_some_iff, Prod.exists, readFlag_reads _ _ _,
    readNat_reads 2 _ _ _, Option.some.injEq, Prod.mk.injEq]
  constructor
  · rintro ⟨_, _, ⟨-, rfl⟩, n, _, ⟨h2, rfl⟩, rfl, rfl⟩
    refine ⟨trivial, ?_⟩
    rw [ofNat_toNat_of_lt h2, List.append_assoc]
  · rintro ⟨-, rfl⟩
    rw [List.append_assoc]
    exact ⟨_, _, ⟨trivial, rfl⟩, _, _, ⟨a.allowed.isLt, rfl⟩, by simp, rfl⟩

/-- The port table is read from a body exactly when it is its bytes. -/
theorem readPortTable_eq_some (body : List Byte) (ports : Tab PortEntry 8) :
    readPortTable body = some ports ↔ PortsBody body ports := by
  unfold readPortTable PortsBody
  constructor
  · intro h
    cases hr : readWhole (readMany readPortEntry 8) body with
    | none => simp [hr] at h
    | some l =>
      obtain ⟨-, hb⟩ := (readWhole_eq_some (readMany_reads readPortEntry_reads 8) body l).1 hr
      simp only [hr] at h
      split at h
      · cases h; exact hb
      · cases h
  · intro hb
    have hr := (readWhole_eq_some (readMany_reads readPortEntry_reads 8) body ports.data).2
      ⟨⟨ports.size, fun _ _ => trivial⟩, hb⟩
    simp only [hr]
    rw [dif_pos ports.size]

theorem readRegion_reads : Reads readRegion (fun x => x.number < 256 ∧ x.base < 256 ∧ x.size < 256) regionBytes := by
  intro b a r
  simp only [readRegion, Option.bind_eq_bind, Option.bind_eq_some_iff, Prod.exists, readFlag_reads _ _ _,
    readByte_reads _ _ _, Option.ite_none_right_eq_some, Option.some.injEq, Prod.mk.injEq]
  constructor
  · rintro ⟨_, _, ⟨h1, rfl⟩, _, _, ⟨h2, rfl⟩, _, _, ⟨h3, rfl⟩, _, _, ⟨-, rfl⟩, _, _, ⟨-, rfl⟩, _, _, ⟨-, rfl⟩, _, _,
      ⟨h7, rfl⟩, h4, rfl, rfl⟩
    refine ⟨⟨h1, h2, h3⟩, ?_⟩
    rw [regionBytes, ofNat_toNat_of_lt h4, ofNat_toNat_of_lt h7]
    simp only [List.append_assoc]
  · rintro ⟨⟨h1, h2, h3⟩, rfl⟩
    have hc := a.classes.isLt
    simp only [regionBytes, List.append_assoc]
    exact ⟨_, _, ⟨h1, rfl⟩, _, _, ⟨h2, rfl⟩, _, _, ⟨h3, rfl⟩, _, _, ⟨by omega, rfl⟩, _, _, ⟨trivial, rfl⟩, _, _,
      ⟨trivial, rfl⟩, _, _, ⟨a.ports.isLt, rfl⟩, hc, by simp, rfl⟩

theorem region_valid_iff (r : Region) :
    r.valid = true ↔ r.number < 8 ∧ r.size ∈ [4, 8, 16, 32, 64] ∧ r.size ∣ r.base ∧ r.base + r.size ≤ 64 := by
  simp only [Region.valid, Bool.and_eq_true, decide_eq_true_eq, List.contains_iff_mem, beq_iff_eq, Nat.dvd_iff_mod_eq_zero,
    and_assoc]

theorem region_apart_iff (r q : Region) :
    r.apart q = true ↔ r.number ≠ q.number ∧ (r.base + r.size ≤ q.base ∨ q.base + q.size ≤ r.base) := by
  simp [Region.apart]

theorem regionsValid_iff (l : List Region) :
    regionsValid l = true ↔ (∀ r ∈ l, r.valid = true) ∧ l.Pairwise fun r q => r.apart q = true := by
  induction l with
  | nil => simp [regionsValid]
  | cons a l ih =>
    simp only [regionsValid, Bool.and_eq_true, List.all_eq_true, ih, List.forall_mem_cons, List.pairwise_cons]
    tauto

/-- The region table is read from a body exactly when it is the table's. -/
theorem readRegionTable_eq_some (body : List Byte) (regions : List Region) :
    readRegionTable body = some regions ↔ RegionsBody body regions := by
  unfold readRegionTable RegionsBody
  have hv : regionsValid regions = true ↔
      (∀ r ∈ regions, r.number < 8 ∧ r.size ∈ [4, 8, 16, 32, 64] ∧ r.size ∣ r.base ∧ r.base + r.size ≤ 64)
        ∧ regions.Pairwise fun r q => r.number ≠ q.number ∧ (r.base + r.size ≤ q.base ∨ q.base + q.size ≤ r.base) := by
    simp only [regionsValid_iff, region_valid_iff, region_apart_iff]
  constructor
  · intro h
    cases hr : readWhole (readList readRegion) body with
    | none => simp [hr] at h
    | some l =>
      obtain ⟨-, hb⟩ := (readWhole_eq_some (readList_reads readRegion_reads) body l).1 hr
      simp only [hr, Option.ite_none_right_eq_some, Bool.and_eq_true, within_iff, Option.some.injEq] at h
      obtain ⟨⟨⟨h1, h8⟩, h⟩, rfl⟩ := h
      exact ⟨hb, h1, h8, hv.1 h⟩
  · rintro ⟨hb, h1, h8, hall, hpair⟩
    have hr := (readWhole_eq_some (readList_reads readRegion_reads) body regions).2
      ⟨⟨by omega, fun x hx => ?_⟩, hb⟩
    · simp only [hr]
      rw [if_pos]
      simp only [Bool.and_eq_true, within_iff]
      exact ⟨⟨h1, h8⟩, hv.2 ⟨hall, hpair⟩⟩
    · obtain ⟨h1, -, -, h4⟩ := hall x hx
      exact ⟨by omega, by omega, by omega⟩

theorem slotIx?_eq_some {n : Nat} {i : SlotIx} : slotIx? n = some i ↔ n = i.val := by
  unfold slotIx?
  split
  · simp [Fin.ext_iff]
  · rename_i h; simp; omega

theorem recipeIx?_eq_some {n : Nat} {i : Fin 16} : recipeIx? n = some i ↔ n = i.val := by
  unfold recipeIx?
  split
  · simp [Fin.ext_iff]
  · rename_i h; simp; omega

theorem stepTypeOf?_eq_some {n : Nat} {k : StepType} :
    stepTypeOf? n = some k ↔ n = match k with | .shared => 1 | .derived => 2 := by
  unfold stepTypeOf?
  cases k <;> split <;> simp_all

theorem readRecipeStep_reads : Reads readRecipeStep (fun x => x.terminalSlot < 32 ∧ x.usage < 16) stepBytes := by
  intro b a r
  simp only [readRecipeStep, Option.bind_eq_bind, Option.bind_eq_some_iff, Prod.exists, readByte_reads _ _ _,
    slotIx?_eq_some, stepTypeOf?_eq_some, Option.ite_none_right_eq_some, Option.some.injEq, Prod.mk.injEq,
    Bool.and_eq_true, decide_eq_true_eq]
  constructor
  · rintro ⟨_, _, ⟨-, rfl⟩, _, _, ⟨-, rfl⟩, _, _, ⟨-, rfl⟩, _, _, ⟨-, rfl⟩, k, rfl, i, rfl, ⟨h1, h2⟩, rfl, rfl⟩
    refine ⟨⟨h1, h2⟩, ?_⟩
    cases k <;> simp only [stepBytes, List.append_assoc]
  · rintro ⟨⟨h1, h2⟩, rfl⟩
    simp only [stepBytes, List.append_assoc]
    have h3 := a.source.isLt
    exact ⟨_, _, ⟨by omega, rfl⟩, _, _, ⟨by cases a.kind <;> decide, rfl⟩, _, _, ⟨by omega, rfl⟩, _, _, ⟨by omega, rfl⟩,
      _, rfl, _, rfl, ⟨h1, h2⟩, rfl, rfl⟩

theorem terminalSlotsDistinct_iff (l : List RecipeStep) :
    terminalSlotsDistinct l = true ↔ (l.map RecipeStep.terminalSlot).Nodup := by
  induction l with
  | nil => simp [terminalSlotsDistinct]
  | cons a l ih => simp [terminalSlotsDistinct, ih]

theorem readRecipeFields_reads : Reads readRecipeFields
    (fun x => 1 ≤ x.version ∧ x.version ≤ 65535 ∧ 1 ≤ x.steps.length ∧ x.steps.length ≤ 12
      ∧ (∀ y ∈ x.steps, y.terminalSlot < 32 ∧ y.usage < 16) ∧ (x.steps.map RecipeStep.terminalSlot).Nodup)
    (fun x => b1 x.number.val ++ beBytes 2 x.version ++ beBytes 4 x.model.toNat ++ b1 x.cover.val ++ bList stepBytes x.steps) := by
  intro b a r
  simp only [readRecipeFields, Option.bind_eq_bind, Option.bind_eq_some_iff, Prod.exists, readByte_reads _ _ _,
    readNat_reads 2 _ _ _, readNat_reads 4 _ _ _, readList_reads readRecipeStep_reads _ _ _,
    slotIx?_eq_some, recipeIx?_eq_some, Option.ite_none_right_eq_some, Option.some.injEq, Prod.mk.injEq,
    Bool.and_eq_true, decide_eq_true_eq, within_iff, terminalSlotsDistinct_iff]
  constructor
  · rintro ⟨_, _, ⟨-, rfl⟩, _, _, ⟨h2, rfl⟩, _, _, ⟨h3, rfl⟩, _, _, ⟨-, rfl⟩, _, _, ⟨⟨-, h5⟩, rfl⟩, k, rfl, i, rfl,
      ⟨⟨h6, h7⟩, h8⟩, rfl, rfl⟩
    refine ⟨⟨h6, by dsimp only; omega, h7.1, h7.2, h5, h8⟩, ?_⟩
    rw [ofNat_toNat_of_lt h3]
    simp only [List.append_assoc]
  · rintro ⟨⟨h1, h2, h3, h4, h5, h6⟩, rfl⟩
    simp only [List.append_assoc]
    have hn := a.number.isLt
    have hc := a.cover.isLt
    exact ⟨_, _, ⟨by omega, rfl⟩, _, _, ⟨by omega, rfl⟩, _, _, ⟨a.model.isLt, rfl⟩, _, _, ⟨by omega, rfl⟩, _, _,
      ⟨⟨by omega, h5⟩, rfl⟩, _, rfl, _, rfl, ⟨⟨h1, h3, h4⟩, h6⟩, by simp, rfl⟩

/-- A recipe is read from a body exactly when it is its bytes and valid. -/
theorem readRecipe_eq_some (body : List Byte) (r : Recipe) : readRecipe body = some r ↔ RecipeBody body r := by
  rw [readRecipe, readWhole_eq_some readRecipeFields_reads, RecipeBody]
  tauto

theorem readManifestLine_reads (place : Nat) : Reads (readManifestLine place)
    (fun x => x.place = place ∧ 1 ≤ x.serial.length ∧ x.serial.length ≤ 16)
    (fun x => bString x.serial ++ bOpt (fun n : Fin 16 => b1 n.val) x.recipe) := by
  intro b a r
  obtain ⟨place', serial, recipe⟩ := a
  have hv : ∀ x : Serial, serialValid x = true ↔ 1 ≤ x.length ∧ x.length ≤ 16 := by simp [serialValid]
  simp only [readManifestLine, Option.bind_eq_bind, Option.bind_eq_some_iff, Prod.exists, readString_reads _ _ _,
    readOptNat_reads 1 _ _ _]
  constructor
  · rintro ⟨x, _, ⟨-, rfl⟩, o, q, ⟨-, rfl⟩, h⟩
    cases o with
    | none =>
      simp only [Option.ite_none_right_eq_some, hv, Option.some.injEq, Prod.mk.injEq, ManifestLine.mk.injEq] at h
      obtain ⟨hs, ⟨rfl, rfl, rfl⟩, rfl⟩ := h
      exact ⟨⟨rfl, hs⟩, by simp [bOpt]⟩
    | some n =>
      cases hn : recipeIx? n with
      | none => simp [hn] at h
      | some i =>
        simp only [hn, Option.ite_none_right_eq_some, hv, Option.some.injEq, Prod.mk.injEq, ManifestLine.mk.injEq] at h
        obtain ⟨hs, ⟨rfl, rfl, rfl⟩, rfl⟩ := h
        rw [recipeIx?_eq_some] at hn
        subst hn
        exact ⟨⟨rfl, hs⟩, by simp [bOpt, b1]⟩
  · rintro ⟨⟨rfl, h1, h2⟩, rfl⟩
    refine ⟨serial, _, ⟨by omega, by rw [List.append_assoc]⟩, recipe.map Fin.val, r, ⟨?_, ?_⟩, ?_⟩
    · intro n hn
      cases recipe with
      | none => cases hn
      | some i => cases hn; have := i.isLt; omega
    · cases recipe <;> rfl
    · cases recipe with
      | none => simp [hv, h1, h2]
      | some i => simp [recipeIx?_eq_some.2 (rfl : i.val = i.val), hv, h1, h2]

/-- The lines of the block staged at a place are read from its body exactly when it is their bytes. -/
theorem readManifest_eq_some (place : Nat) (body : List Byte) (lines : List ManifestLine) :
    readManifest place body = some lines ↔ ManifestBody place body lines := by
  unfold readManifest ManifestBody
  constructor
  · intro h
    cases hr : readWhole (readList (readManifestLine place)) body with
    | none => simp [hr] at h
    | some l =>
      obtain ⟨⟨-, hall⟩, hb⟩ := (readWhole_eq_some (readList_reads (readManifestLine_reads place)) body l).1 hr
      simp only [hr, Option.ite_none_right_eq_some, within_iff, Option.some.injEq] at h
      obtain ⟨⟨h1, h64⟩, rfl⟩ := h
      exact ⟨hb, h1, h64, hall⟩
  · rintro ⟨hb, h1, h64, hall⟩
    have hr := (readWhole_eq_some (readList_reads (readManifestLine_reads place)) body lines).2
      ⟨⟨by omega, hall⟩, hb⟩
    simp only [hr]
    rw [if_pos]
    exact within_iff.2 ⟨h1, h64⟩

end Sys2Proof.Machine
end

