-- ==== Sys2Proof/Laws/State.lean ====
section
/-! SUPPORT. One lemma for each field of the state under each update, true by rfl, so that no proof unfolds a record update;
and what a table reads after a write. -/

namespace Sys2Proof.Machine

/-! ### Tables -/

namespace Tab

variable {α β : Type} {n : Nat}

@[simp] theorem get_set_self (t : Tab α n) (i : Fin n) (a : α) : (t.set i a).get i = a := by
  simp [get, set]

theorem get_set_other (t : Tab α n) (i j : Fin n) (a : α) (h : i ≠ j) : (t.set i a).get j = t.get j := by
  have h' : i.val ≠ j.val := fun e => h (Fin.ext e)
  simp [get, set, h']

theorem get_set (t : Tab α n) (i j : Fin n) (a : α) : (t.set i a).get j = if i = j then a else t.get j := by
  by_cases h : i = j
  · subst h; simp
  · simp [get_set_other t i j a h, h]

@[simp] theorem get_fill (a : α) (i : Fin n) : (fill n a).get i = a := by
  simp [get, fill]

@[simp] theorem get_map (f : α → β) (t : Tab α n) (i : Fin n) : (t.map f).get i = f (t.get i) := by
  simp [get, map]

@[simp] theorem get_modify_self (t : Tab α n) (i : Fin n) (f : α → α) : (t.modify i f).get i = f (t.get i) := by
  simp [modify]

theorem get_modify_other (t : Tab α n) (i j : Fin n) (f : α → α) (h : i ≠ j) : (t.modify i f).get j = t.get j := by
  simp [modify, get_set_other t i j _ h]

@[simp] theorem set_set (t : Tab α n) (i : Fin n) (a b : α) : (t.set i a).set i b = t.set i b := by
  simp [set]

@[simp] theorem set_get_self (t : Tab α n) (i : Fin n) : t.set i (t.get i) = t := by
  cases t with
  | mk d h => simp [set, get]

theorem set_comm (t : Tab α n) (i j : Fin n) (a b : α) (h : i ≠ j) : (t.set i a).set j b = (t.set j b).set i a := by
  have h' : i.val ≠ j.val := fun e => h (Fin.ext e)
  simp only [set, Tab.mk.injEq]
  exact List.set_comm a b h'

/-- Two tables with the same readings are the same table. -/
theorem ext_get (t u : Tab α n) (h : ∀ i, t.get i = u.get i) : t = u := by
  cases t with
  | mk d hd =>
    cases u with
    | mk e he =>
      have : d = e := by
        apply List.ext_getElem (by rw [hd, he])
        intro k h1 h2
        exact h ⟨k, hd ▸ h1⟩
      subst this
      rfl

end Tab

namespace State


/-! ### setFlag -/

@[simp] theorem setFlag_store (e : Event) (s : State) : (s.setFlag e).store = s.store := rfl
@[simp] theorem setFlag_line (e : Event) (s : State) : (s.setFlag e).line = s.line := rfl
@[simp] theorem setFlag_resetCause (e : Event) (s : State) : (s.setFlag e).resetCause = s.resetCause := rfl
@[simp] theorem setFlag_stream (e : Event) (s : State) : (s.setFlag e).stream = s.stream := rfl
@[simp] theorem setFlag_ceremony (e : Event) (s : State) : (s.setFlag e).ceremony = s.ceremony := rfl
@[simp] theorem setFlag_importWork (e : Event) (s : State) : (s.setFlag e).importWork = s.importWork := rfl
@[simp] theorem setFlag_engine (e : Event) (s : State) : (s.setFlag e).engine = s.engine := rfl
@[simp] theorem setFlag_consoles (e : Event) (s : State) : (s.setFlag e).consoles = s.consoles := rfl
@[simp] theorem setFlag_benches (e : Event) (s : State) : (s.setFlag e).benches = s.benches := rfl
@[simp] theorem setFlag_outstanding (e : Event) (s : State) : (s.setFlag e).outstanding = s.outstanding := rfl
@[simp] theorem setFlag_responses (e : Event) (s : State) : (s.setFlag e).responses = s.responses := rfl
@[simp] theorem setFlag_flags (e : Event) (s : State) : (s.setFlag e).flags = s.flags ||| e.only := rfl
@[simp] theorem setFlag_mask (e : Event) (s : State) : (s.setFlag e).mask = s.mask := rfl
@[simp] theorem setFlag_frameErrors (e : Event) (s : State) : (s.setFlag e).frameErrors = s.frameErrors := rfl
@[simp] theorem setFlag_overruns (e : Event) (s : State) : (s.setFlag e).overruns = s.overruns := rfl
@[simp] theorem setFlag_power (e : Event) (s : State) : (s.setFlag e).power = s.power := rfl
@[simp] theorem setFlag_resetPin (e : Event) (s : State) : (s.setFlag e).resetPin = s.resetPin := rfl
@[simp] theorem setFlag_tamperLine (e : Event) (s : State) : (s.setFlag e).tamperLine = s.tamperLine := rfl
@[simp] theorem setFlag_battery (e : Event) (s : State) : (s.setFlag e).battery = s.battery := rfl
@[simp] theorem setFlag_powerResetOwed (e : Event) (s : State) : (s.setFlag e).powerResetOwed = s.powerResetOwed := rfl
@[simp] theorem setFlag_storeLost (e : Event) (s : State) : (s.setFlag e).storeLost = s.storeLost := rfl
@[simp] theorem setFlag_shiftedOut (e : Event) (s : State) : (s.setFlag e).shiftedOut = s.shiftedOut := rfl
@[simp] theorem setFlag_freeCount (e : Event) (s : State) : (s.setFlag e).freeCount = s.freeCount := rfl
@[simp] theorem setFlag_pending (e : Event) (s : State) : (s.setFlag e).pending = s.pending := rfl

/-! ### clearFlag -/

@[simp] theorem clearFlag_store (e : Event) (s : State) : (s.clearFlag e).store = s.store := rfl
@[simp] theorem clearFlag_line (e : Event) (s : State) : (s.clearFlag e).line = s.line := rfl
@[simp] theorem clearFlag_resetCause (e : Event) (s : State) : (s.clearFlag e).resetCause = s.resetCause := rfl
@[simp] theorem clearFlag_stream (e : Event) (s : State) : (s.clearFlag e).stream = s.stream := rfl
@[simp] theorem clearFlag_ceremony (e : Event) (s : State) : (s.clearFlag e).ceremony = s.ceremony := rfl
@[simp] theorem clearFlag_importWork (e : Event) (s : State) : (s.clearFlag e).importWork = s.importWork := rfl
@[simp] theorem clearFlag_engine (e : Event) (s : State) : (s.clearFlag e).engine = s.engine := rfl
@[simp] theorem clearFlag_consoles (e : Event) (s : State) : (s.clearFlag e).consoles = s.consoles := rfl
@[simp] theorem clearFlag_benches (e : Event) (s : State) : (s.clearFlag e).benches = s.benches := rfl
@[simp] theorem clearFlag_outstanding (e : Event) (s : State) : (s.clearFlag e).outstanding = s.outstanding := rfl
@[simp] theorem clearFlag_responses (e : Event) (s : State) : (s.clearFlag e).responses = s.responses := rfl
@[simp] theorem clearFlag_flags (e : Event) (s : State) : (s.clearFlag e).flags = s.flags &&& ~~~e.only := rfl
@[simp] theorem clearFlag_mask (e : Event) (s : State) : (s.clearFlag e).mask = s.mask := rfl
@[simp] theorem clearFlag_frameErrors (e : Event) (s : State) : (s.clearFlag e).frameErrors = s.frameErrors := rfl
@[simp] theorem clearFlag_overruns (e : Event) (s : State) : (s.clearFlag e).overruns = s.overruns := rfl
@[simp] theorem clearFlag_power (e : Event) (s : State) : (s.clearFlag e).power = s.power := rfl
@[simp] theorem clearFlag_resetPin (e : Event) (s : State) : (s.clearFlag e).resetPin = s.resetPin := rfl
@[simp] theorem clearFlag_tamperLine (e : Event) (s : State) : (s.clearFlag e).tamperLine = s.tamperLine := rfl
@[simp] theorem clearFlag_battery (e : Event) (s : State) : (s.clearFlag e).battery = s.battery := rfl
@[simp] theorem clearFlag_powerResetOwed (e : Event) (s : State) : (s.clearFlag e).powerResetOwed = s.powerResetOwed := rfl
@[simp] theorem clearFlag_storeLost (e : Event) (s : State) : (s.clearFlag e).storeLost = s.storeLost := rfl
@[simp] theorem clearFlag_shiftedOut (e : Event) (s : State) : (s.clearFlag e).shiftedOut = s.shiftedOut := rfl
@[simp] theorem clearFlag_freeCount (e : Event) (s : State) : (s.clearFlag e).freeCount = s.freeCount := rfl
@[simp] theorem clearFlag_pending (e : Event) (s : State) : (s.clearFlag e).pending = s.pending := rfl

/-! ### setConsole -/

@[simp] theorem setConsole_store (l : ConsoleLink) (c : Console) (s : State) : (s.setConsole l c).store = s.store := rfl
@[simp] theorem setConsole_line (l : ConsoleLink) (c : Console) (s : State) : (s.setConsole l c).line = s.line := rfl
@[simp] theorem setConsole_resetCause (l : ConsoleLink) (c : Console) (s : State) : (s.setConsole l c).resetCause = s.resetCause := rfl
@[simp] theorem setConsole_stream (l : ConsoleLink) (c : Console) (s : State) : (s.setConsole l c).stream = s.stream := rfl
@[simp] theorem setConsole_ceremony (l : ConsoleLink) (c : Console) (s : State) : (s.setConsole l c).ceremony = s.ceremony := rfl
@[simp] theorem setConsole_importWork (l : ConsoleLink) (c : Console) (s : State) : (s.setConsole l c).importWork = s.importWork := rfl
@[simp] theorem setConsole_engine (l : ConsoleLink) (c : Console) (s : State) : (s.setConsole l c).engine = s.engine := rfl
@[simp] theorem setConsole_consoles (l : ConsoleLink) (c : Console) (s : State) : (s.setConsole l c).consoles = s.consoles.set l c := rfl
@[simp] theorem setConsole_benches (l : ConsoleLink) (c : Console) (s : State) : (s.setConsole l c).benches = s.benches := rfl
@[simp] theorem setConsole_outstanding (l : ConsoleLink) (c : Console) (s : State) : (s.setConsole l c).outstanding = s.outstanding := rfl
@[simp] theorem setConsole_responses (l : ConsoleLink) (c : Console) (s : State) : (s.setConsole l c).responses = s.responses := rfl
@[simp] theorem setConsole_flags (l : ConsoleLink) (c : Console) (s : State) : (s.setConsole l c).flags = s.flags := rfl
@[simp] theorem setConsole_mask (l : ConsoleLink) (c : Console) (s : State) : (s.setConsole l c).mask = s.mask := rfl
@[simp] theorem setConsole_frameErrors (l : ConsoleLink) (c : Console) (s : State) : (s.setConsole l c).frameErrors = s.frameErrors := rfl
@[simp] theorem setConsole_overruns (l : ConsoleLink) (c : Console) (s : State) : (s.setConsole l c).overruns = s.overruns := rfl
@[simp] theorem setConsole_power (l : ConsoleLink) (c : Console) (s : State) : (s.setConsole l c).power = s.power := rfl
@[simp] theorem setConsole_resetPin (l : ConsoleLink) (c : Console) (s : State) : (s.setConsole l c).resetPin = s.resetPin := rfl
@[simp] theorem setConsole_tamperLine (l : ConsoleLink) (c : Console) (s : State) : (s.setConsole l c).tamperLine = s.tamperLine := rfl
@[simp] theorem setConsole_battery (l : ConsoleLink) (c : Console) (s : State) : (s.setConsole l c).battery = s.battery := rfl
@[simp] theorem setConsole_powerResetOwed (l : ConsoleLink) (c : Console) (s : State) : (s.setConsole l c).powerResetOwed = s.powerResetOwed := rfl
@[simp] theorem setConsole_storeLost (l : ConsoleLink) (c : Console) (s : State) : (s.setConsole l c).storeLost = s.storeLost := rfl
@[simp] theorem setConsole_shiftedOut (l : ConsoleLink) (c : Console) (s : State) : (s.setConsole l c).shiftedOut = s.shiftedOut := rfl
@[simp] theorem setConsole_freeCount (l : ConsoleLink) (c : Console) (s : State) : (s.setConsole l c).freeCount = s.freeCount := rfl
@[simp] theorem setConsole_pending (l : ConsoleLink) (c : Console) (s : State) : (s.setConsole l c).pending = s.pending := rfl

/-! ### setBench -/

@[simp] theorem setBench_store (p : Port) (b : Bench) (s : State) : (s.setBench p b).store = s.store := rfl
@[simp] theorem setBench_line (p : Port) (b : Bench) (s : State) : (s.setBench p b).line = s.line := rfl
@[simp] theorem setBench_resetCause (p : Port) (b : Bench) (s : State) : (s.setBench p b).resetCause = s.resetCause := rfl
@[simp] theorem setBench_stream (p : Port) (b : Bench) (s : State) : (s.setBench p b).stream = s.stream := rfl
@[simp] theorem setBench_ceremony (p : Port) (b : Bench) (s : State) : (s.setBench p b).ceremony = s.ceremony := rfl
@[simp] theorem setBench_importWork (p : Port) (b : Bench) (s : State) : (s.setBench p b).importWork = s.importWork := rfl
@[simp] theorem setBench_engine (p : Port) (b : Bench) (s : State) : (s.setBench p b).engine = s.engine := rfl
@[simp] theorem setBench_consoles (p : Port) (b : Bench) (s : State) : (s.setBench p b).consoles = s.consoles := rfl
@[simp] theorem setBench_benches (p : Port) (b : Bench) (s : State) : (s.setBench p b).benches = s.benches.set p b := rfl
@[simp] theorem setBench_outstanding (p : Port) (b : Bench) (s : State) : (s.setBench p b).outstanding = s.outstanding := rfl
@[simp] theorem setBench_responses (p : Port) (b : Bench) (s : State) : (s.setBench p b).responses = s.responses := rfl
@[simp] theorem setBench_flags (p : Port) (b : Bench) (s : State) : (s.setBench p b).flags = s.flags := rfl
@[simp] theorem setBench_mask (p : Port) (b : Bench) (s : State) : (s.setBench p b).mask = s.mask := rfl
@[simp] theorem setBench_frameErrors (p : Port) (b : Bench) (s : State) : (s.setBench p b).frameErrors = s.frameErrors := rfl
@[simp] theorem setBench_overruns (p : Port) (b : Bench) (s : State) : (s.setBench p b).overruns = s.overruns := rfl
@[simp] theorem setBench_power (p : Port) (b : Bench) (s : State) : (s.setBench p b).power = s.power := rfl
@[simp] theorem setBench_resetPin (p : Port) (b : Bench) (s : State) : (s.setBench p b).resetPin = s.resetPin := rfl
@[simp] theorem setBench_tamperLine (p : Port) (b : Bench) (s : State) : (s.setBench p b).tamperLine = s.tamperLine := rfl
@[simp] theorem setBench_battery (p : Port) (b : Bench) (s : State) : (s.setBench p b).battery = s.battery := rfl
@[simp] theorem setBench_powerResetOwed (p : Port) (b : Bench) (s : State) : (s.setBench p b).powerResetOwed = s.powerResetOwed := rfl
@[simp] theorem setBench_storeLost (p : Port) (b : Bench) (s : State) : (s.setBench p b).storeLost = s.storeLost := rfl
@[simp] theorem setBench_shiftedOut (p : Port) (b : Bench) (s : State) : (s.setBench p b).shiftedOut = s.shiftedOut := rfl
@[simp] theorem setBench_freeCount (p : Port) (b : Bench) (s : State) : (s.setBench p b).freeCount = s.freeCount := rfl
@[simp] theorem setBench_pending (p : Port) (b : Bench) (s : State) : (s.setBench p b).pending = s.pending := rfl

/-! ### setSlot -/

@[simp] theorem setSlot_store_slots (i : SlotIx) (x : Slot) (s : State) : (s.setSlot i x).store.slots = s.store.slots.set i x := rfl
@[simp] theorem setSlot_store_custodians (i : SlotIx) (x : Slot) (s : State) : (s.setSlot i x).store.custodians = s.store.custodians := rfl
@[simp] theorem setSlot_store_profile (i : SlotIx) (x : Slot) (s : State) : (s.setSlot i x).store.profile = s.store.profile := rfl
@[simp] theorem setSlot_store_registry (i : SlotIx) (x : Slot) (s : State) : (s.setSlot i x).store.registry = s.store.registry := rfl
@[simp] theorem setSlot_store_journal (i : SlotIx) (x : Slot) (s : State) : (s.setSlot i x).store.journal = s.store.journal := rfl
@[simp] theorem setSlot_store_steps (i : SlotIx) (x : Slot) (s : State) : (s.setSlot i x).store.steps = s.store.steps := rfl
@[simp] theorem setSlot_store_tamperLatch (i : SlotIx) (x : Slot) (s : State) : (s.setSlot i x).store.tamperLatch = s.store.tamperLatch := rfl
@[simp] theorem setSlot_line (i : SlotIx) (x : Slot) (s : State) : (s.setSlot i x).line = s.line := rfl
@[simp] theorem setSlot_resetCause (i : SlotIx) (x : Slot) (s : State) : (s.setSlot i x).resetCause = s.resetCause := rfl
@[simp] theorem setSlot_stream (i : SlotIx) (x : Slot) (s : State) : (s.setSlot i x).stream = s.stream := rfl
@[simp] theorem setSlot_ceremony (i : SlotIx) (x : Slot) (s : State) : (s.setSlot i x).ceremony = s.ceremony := rfl
@[simp] theorem setSlot_importWork (i : SlotIx) (x : Slot) (s : State) : (s.setSlot i x).importWork = s.importWork := rfl
@[simp] theorem setSlot_engine (i : SlotIx) (x : Slot) (s : State) : (s.setSlot i x).engine = s.engine := rfl
@[simp] theorem setSlot_consoles (i : SlotIx) (x : Slot) (s : State) : (s.setSlot i x).consoles = s.consoles := rfl
@[simp] theorem setSlot_benches (i : SlotIx) (x : Slot) (s : State) : (s.setSlot i x).benches = s.benches := rfl
@[simp] theorem setSlot_outstanding (i : SlotIx) (x : Slot) (s : State) : (s.setSlot i x).outstanding = s.outstanding := rfl
@[simp] theorem setSlot_responses (i : SlotIx) (x : Slot) (s : State) : (s.setSlot i x).responses = s.responses := rfl
@[simp] theorem setSlot_flags (i : SlotIx) (x : Slot) (s : State) : (s.setSlot i x).flags = s.flags := rfl
@[simp] theorem setSlot_mask (i : SlotIx) (x : Slot) (s : State) : (s.setSlot i x).mask = s.mask := rfl
@[simp] theorem setSlot_frameErrors (i : SlotIx) (x : Slot) (s : State) : (s.setSlot i x).frameErrors = s.frameErrors := rfl
@[simp] theorem setSlot_overruns (i : SlotIx) (x : Slot) (s : State) : (s.setSlot i x).overruns = s.overruns := rfl
@[simp] theorem setSlot_power (i : SlotIx) (x : Slot) (s : State) : (s.setSlot i x).power = s.power := rfl
@[simp] theorem setSlot_resetPin (i : SlotIx) (x : Slot) (s : State) : (s.setSlot i x).resetPin = s.resetPin := rfl
@[simp] theorem setSlot_tamperLine (i : SlotIx) (x : Slot) (s : State) : (s.setSlot i x).tamperLine = s.tamperLine := rfl
@[simp] theorem setSlot_battery (i : SlotIx) (x : Slot) (s : State) : (s.setSlot i x).battery = s.battery := rfl
@[simp] theorem setSlot_powerResetOwed (i : SlotIx) (x : Slot) (s : State) : (s.setSlot i x).powerResetOwed = s.powerResetOwed := rfl
@[simp] theorem setSlot_storeLost (i : SlotIx) (x : Slot) (s : State) : (s.setSlot i x).storeLost = s.storeLost := rfl
@[simp] theorem setSlot_shiftedOut (i : SlotIx) (x : Slot) (s : State) : (s.setSlot i x).shiftedOut = s.shiftedOut := rfl
@[simp] theorem setSlot_freeCount (i : SlotIx) (x : Slot) (s : State) : (s.setSlot i x).freeCount = s.freeCount := rfl
@[simp] theorem setSlot_pending (i : SlotIx) (x : Slot) (s : State) : (s.setSlot i x).pending = s.pending := rfl

/-! ### setJournal -/

@[simp] theorem setJournal_store_slots (jr : Journal) (s : State) : (s.setJournal jr).store.slots = s.store.slots := rfl
@[simp] theorem setJournal_store_custodians (jr : Journal) (s : State) : (s.setJournal jr).store.custodians = s.store.custodians := rfl
@[simp] theorem setJournal_store_profile (jr : Journal) (s : State) : (s.setJournal jr).store.profile = s.store.profile := rfl
@[simp] theorem setJournal_store_registry (jr : Journal) (s : State) : (s.setJournal jr).store.registry = s.store.registry := rfl
@[simp] theorem setJournal_store_journal (jr : Journal) (s : State) : (s.setJournal jr).store.journal = jr := rfl
@[simp] theorem setJournal_store_steps (jr : Journal) (s : State) : (s.setJournal jr).store.steps = s.store.steps := rfl
@[simp] theorem setJournal_store_tamperLatch (jr : Journal) (s : State) : (s.setJournal jr).store.tamperLatch = s.store.tamperLatch := rfl
@[simp] theorem setJournal_line (jr : Journal) (s : State) : (s.setJournal jr).line = s.line := rfl
@[simp] theorem setJournal_resetCause (jr : Journal) (s : State) : (s.setJournal jr).resetCause = s.resetCause := rfl
@[simp] theorem setJournal_stream (jr : Journal) (s : State) : (s.setJournal jr).stream = s.stream := rfl
@[simp] theorem setJournal_ceremony (jr : Journal) (s : State) : (s.setJournal jr).ceremony = s.ceremony := rfl
@[simp] theorem setJournal_importWork (jr : Journal) (s : State) : (s.setJournal jr).importWork = s.importWork := rfl
@[simp] theorem setJournal_engine (jr : Journal) (s : State) : (s.setJournal jr).engine = s.engine := rfl
@[simp] theorem setJournal_consoles (jr : Journal) (s : State) : (s.setJournal jr).consoles = s.consoles := rfl
@[simp] theorem setJournal_benches (jr : Journal) (s : State) : (s.setJournal jr).benches = s.benches := rfl
@[simp] theorem setJournal_outstanding (jr : Journal) (s : State) : (s.setJournal jr).outstanding = s.outstanding := rfl
@[simp] theorem setJournal_responses (jr : Journal) (s : State) : (s.setJournal jr).responses = s.responses := rfl
@[simp] theorem setJournal_flags (jr : Journal) (s : State) : (s.setJournal jr).flags = s.flags := rfl
@[simp] theorem setJournal_mask (jr : Journal) (s : State) : (s.setJournal jr).mask = s.mask := rfl
@[simp] theorem setJournal_frameErrors (jr : Journal) (s : State) : (s.setJournal jr).frameErrors = s.frameErrors := rfl
@[simp] theorem setJournal_overruns (jr : Journal) (s : State) : (s.setJournal jr).overruns = s.overruns := rfl
@[simp] theorem setJournal_power (jr : Journal) (s : State) : (s.setJournal jr).power = s.power := rfl
@[simp] theorem setJournal_resetPin (jr : Journal) (s : State) : (s.setJournal jr).resetPin = s.resetPin := rfl
@[simp] theorem setJournal_tamperLine (jr : Journal) (s : State) : (s.setJournal jr).tamperLine = s.tamperLine := rfl
@[simp] theorem setJournal_battery (jr : Journal) (s : State) : (s.setJournal jr).battery = s.battery := rfl
@[simp] theorem setJournal_powerResetOwed (jr : Journal) (s : State) : (s.setJournal jr).powerResetOwed = s.powerResetOwed := rfl
@[simp] theorem setJournal_storeLost (jr : Journal) (s : State) : (s.setJournal jr).storeLost = s.storeLost := rfl
@[simp] theorem setJournal_shiftedOut (jr : Journal) (s : State) : (s.setJournal jr).shiftedOut = s.shiftedOut := rfl
@[simp] theorem setJournal_freeCount (jr : Journal) (s : State) : (s.setJournal jr).freeCount = s.freeCount := rfl
@[simp] theorem setJournal_pending (jr : Journal) (s : State) : (s.setJournal jr).pending = s.pending := rfl

/-! ### setRegistry -/

@[simp] theorem setRegistry_store_slots (r : Registry) (s : State) : (s.setRegistry r).store.slots = s.store.slots := rfl
@[simp] theorem setRegistry_store_custodians (r : Registry) (s : State) : (s.setRegistry r).store.custodians = s.store.custodians := rfl
@[simp] theorem setRegistry_store_profile (r : Registry) (s : State) : (s.setRegistry r).store.profile = s.store.profile := rfl
@[simp] theorem setRegistry_store_registry (r : Registry) (s : State) : (s.setRegistry r).store.registry = r := rfl
@[simp] theorem setRegistry_store_journal (r : Registry) (s : State) : (s.setRegistry r).store.journal = s.store.journal := rfl
@[simp] theorem setRegistry_store_steps (r : Registry) (s : State) : (s.setRegistry r).store.steps = s.store.steps := rfl
@[simp] theorem setRegistry_store_tamperLatch (r : Registry) (s : State) : (s.setRegistry r).store.tamperLatch = s.store.tamperLatch := rfl
@[simp] theorem setRegistry_line (r : Registry) (s : State) : (s.setRegistry r).line = s.line := rfl
@[simp] theorem setRegistry_resetCause (r : Registry) (s : State) : (s.setRegistry r).resetCause = s.resetCause := rfl
@[simp] theorem setRegistry_stream (r : Registry) (s : State) : (s.setRegistry r).stream = s.stream := rfl
@[simp] theorem setRegistry_ceremony (r : Registry) (s : State) : (s.setRegistry r).ceremony = s.ceremony := rfl
@[simp] theorem setRegistry_importWork (r : Registry) (s : State) : (s.setRegistry r).importWork = s.importWork := rfl
@[simp] theorem setRegistry_engine (r : Registry) (s : State) : (s.setRegistry r).engine = s.engine := rfl
@[simp] theorem setRegistry_consoles (r : Registry) (s : State) : (s.setRegistry r).consoles = s.consoles := rfl
@[simp] theorem setRegistry_benches (r : Registry) (s : State) : (s.setRegistry r).benches = s.benches := rfl
@[simp] theorem setRegistry_outstanding (r : Registry) (s : State) : (s.setRegistry r).outstanding = s.outstanding := rfl
@[simp] theorem setRegistry_responses (r : Registry) (s : State) : (s.setRegistry r).responses = s.responses := rfl
@[simp] theorem setRegistry_flags (r : Registry) (s : State) : (s.setRegistry r).flags = s.flags := rfl
@[simp] theorem setRegistry_mask (r : Registry) (s : State) : (s.setRegistry r).mask = s.mask := rfl
@[simp] theorem setRegistry_frameErrors (r : Registry) (s : State) : (s.setRegistry r).frameErrors = s.frameErrors := rfl
@[simp] theorem setRegistry_overruns (r : Registry) (s : State) : (s.setRegistry r).overruns = s.overruns := rfl
@[simp] theorem setRegistry_power (r : Registry) (s : State) : (s.setRegistry r).power = s.power := rfl
@[simp] theorem setRegistry_resetPin (r : Registry) (s : State) : (s.setRegistry r).resetPin = s.resetPin := rfl
@[simp] theorem setRegistry_tamperLine (r : Registry) (s : State) : (s.setRegistry r).tamperLine = s.tamperLine := rfl
@[simp] theorem setRegistry_battery (r : Registry) (s : State) : (s.setRegistry r).battery = s.battery := rfl
@[simp] theorem setRegistry_powerResetOwed (r : Registry) (s : State) : (s.setRegistry r).powerResetOwed = s.powerResetOwed := rfl
@[simp] theorem setRegistry_storeLost (r : Registry) (s : State) : (s.setRegistry r).storeLost = s.storeLost := rfl
@[simp] theorem setRegistry_shiftedOut (r : Registry) (s : State) : (s.setRegistry r).shiftedOut = s.shiftedOut := rfl
@[simp] theorem setRegistry_freeCount (r : Registry) (s : State) : (s.setRegistry r).freeCount = s.freeCount := rfl
@[simp] theorem setRegistry_pending (r : Registry) (s : State) : (s.setRegistry r).pending = s.pending := rfl

/-! ### setStep -/

@[simp] theorem setStep_store_slots (p : Port) (x : Option PendingStep) (s : State) : (s.setStep p x).store.slots = s.store.slots := rfl
@[simp] theorem setStep_store_custodians (p : Port) (x : Option PendingStep) (s : State) : (s.setStep p x).store.custodians = s.store.custodians := rfl
@[simp] theorem setStep_store_profile (p : Port) (x : Option PendingStep) (s : State) : (s.setStep p x).store.profile = s.store.profile := rfl
@[simp] theorem setStep_store_registry (p : Port) (x : Option PendingStep) (s : State) : (s.setStep p x).store.registry = s.store.registry := rfl
@[simp] theorem setStep_store_journal (p : Port) (x : Option PendingStep) (s : State) : (s.setStep p x).store.journal = s.store.journal := rfl
@[simp] theorem setStep_store_steps (p : Port) (x : Option PendingStep) (s : State) : (s.setStep p x).store.steps = s.store.steps.set p x := rfl
@[simp] theorem setStep_store_tamperLatch (p : Port) (x : Option PendingStep) (s : State) : (s.setStep p x).store.tamperLatch = s.store.tamperLatch := rfl
@[simp] theorem setStep_line (p : Port) (x : Option PendingStep) (s : State) : (s.setStep p x).line = s.line := rfl
@[simp] theorem setStep_resetCause (p : Port) (x : Option PendingStep) (s : State) : (s.setStep p x).resetCause = s.resetCause := rfl
@[simp] theorem setStep_stream (p : Port) (x : Option PendingStep) (s : State) : (s.setStep p x).stream = s.stream := rfl
@[simp] theorem setStep_ceremony (p : Port) (x : Option PendingStep) (s : State) : (s.setStep p x).ceremony = s.ceremony := rfl
@[simp] theorem setStep_importWork (p : Port) (x : Option PendingStep) (s : State) : (s.setStep p x).importWork = s.importWork := rfl
@[simp] theorem setStep_engine (p : Port) (x : Option PendingStep) (s : State) : (s.setStep p x).engine = s.engine := rfl
@[simp] theorem setStep_consoles (p : Port) (x : Option PendingStep) (s : State) : (s.setStep p x).consoles = s.consoles := rfl
@[simp] theorem setStep_benches (p : Port) (x : Option PendingStep) (s : State) : (s.setStep p x).benches = s.benches := rfl
@[simp] theorem setStep_outstanding (p : Port) (x : Option PendingStep) (s : State) : (s.setStep p x).outstanding = s.outstanding := rfl
@[simp] theorem setStep_responses (p : Port) (x : Option PendingStep) (s : State) : (s.setStep p x).responses = s.responses := rfl
@[simp] theorem setStep_flags (p : Port) (x : Option PendingStep) (s : State) : (s.setStep p x).flags = s.flags := rfl
@[simp] theorem setStep_mask (p : Port) (x : Option PendingStep) (s : State) : (s.setStep p x).mask = s.mask := rfl
@[simp] theorem setStep_frameErrors (p : Port) (x : Option PendingStep) (s : State) : (s.setStep p x).frameErrors = s.frameErrors := rfl
@[simp] theorem setStep_overruns (p : Port) (x : Option PendingStep) (s : State) : (s.setStep p x).overruns = s.overruns := rfl
@[simp] theorem setStep_power (p : Port) (x : Option PendingStep) (s : State) : (s.setStep p x).power = s.power := rfl
@[simp] theorem setStep_resetPin (p : Port) (x : Option PendingStep) (s : State) : (s.setStep p x).resetPin = s.resetPin := rfl
@[simp] theorem setStep_tamperLine (p : Port) (x : Option PendingStep) (s : State) : (s.setStep p x).tamperLine = s.tamperLine := rfl
@[simp] theorem setStep_battery (p : Port) (x : Option PendingStep) (s : State) : (s.setStep p x).battery = s.battery := rfl
@[simp] theorem setStep_powerResetOwed (p : Port) (x : Option PendingStep) (s : State) : (s.setStep p x).powerResetOwed = s.powerResetOwed := rfl
@[simp] theorem setStep_storeLost (p : Port) (x : Option PendingStep) (s : State) : (s.setStep p x).storeLost = s.storeLost := rfl
@[simp] theorem setStep_shiftedOut (p : Port) (x : Option PendingStep) (s : State) : (s.setStep p x).shiftedOut = s.shiftedOut := rfl
@[simp] theorem setStep_freeCount (p : Port) (x : Option PendingStep) (s : State) : (s.setStep p x).freeCount = s.freeCount := rfl
@[simp] theorem setStep_pending (p : Port) (x : Option PendingStep) (s : State) : (s.setStep p x).pending = s.pending := rfl

/-! ### setCustodian -/

@[simp] theorem setCustodian_store_slots (c : Cust) (x : Option CustEntry) (s : State) : (s.setCustodian c x).store.slots = s.store.slots := rfl
@[simp] theorem setCustodian_store_custodians (c : Cust) (x : Option CustEntry) (s : State) : (s.setCustodian c x).store.custodians = s.store.custodians.set c x := rfl
@[simp] theorem setCustodian_store_profile (c : Cust) (x : Option CustEntry) (s : State) : (s.setCustodian c x).store.profile = s.store.profile := rfl
@[simp] theorem setCustodian_store_registry (c : Cust) (x : Option CustEntry) (s : State) : (s.setCustodian c x).store.registry = s.store.registry := rfl
@[simp] theorem setCustodian_store_journal (c : Cust) (x : Option CustEntry) (s : State) : (s.setCustodian c x).store.journal = s.store.journal := rfl
@[simp] theorem setCustodian_store_steps (c : Cust) (x : Option CustEntry) (s : State) : (s.setCustodian c x).store.steps = s.store.steps := rfl
@[simp] theorem setCustodian_store_tamperLatch (c : Cust) (x : Option CustEntry) (s : State) : (s.setCustodian c x).store.tamperLatch = s.store.tamperLatch := rfl
@[simp] theorem setCustodian_line (c : Cust) (x : Option CustEntry) (s : State) : (s.setCustodian c x).line = s.line := rfl
@[simp] theorem setCustodian_resetCause (c : Cust) (x : Option CustEntry) (s : State) : (s.setCustodian c x).resetCause = s.resetCause := rfl
@[simp] theorem setCustodian_stream (c : Cust) (x : Option CustEntry) (s : State) : (s.setCustodian c x).stream = s.stream := rfl
@[simp] theorem setCustodian_ceremony (c : Cust) (x : Option CustEntry) (s : State) : (s.setCustodian c x).ceremony = s.ceremony := rfl
@[simp] theorem setCustodian_importWork (c : Cust) (x : Option CustEntry) (s : State) : (s.setCustodian c x).importWork = s.importWork := rfl
@[simp] theorem setCustodian_engine (c : Cust) (x : Option CustEntry) (s : State) : (s.setCustodian c x).engine = s.engine := rfl
@[simp] theorem setCustodian_consoles (c : Cust) (x : Option CustEntry) (s : State) : (s.setCustodian c x).consoles = s.consoles := rfl
@[simp] theorem setCustodian_benches (c : Cust) (x : Option CustEntry) (s : State) : (s.setCustodian c x).benches = s.benches := rfl
@[simp] theorem setCustodian_outstanding (c : Cust) (x : Option CustEntry) (s : State) : (s.setCustodian c x).outstanding = s.outstanding := rfl
@[simp] theorem setCustodian_responses (c : Cust) (x : Option CustEntry) (s : State) : (s.setCustodian c x).responses = s.responses := rfl
@[simp] theorem setCustodian_flags (c : Cust) (x : Option CustEntry) (s : State) : (s.setCustodian c x).flags = s.flags := rfl
@[simp] theorem setCustodian_mask (c : Cust) (x : Option CustEntry) (s : State) : (s.setCustodian c x).mask = s.mask := rfl
@[simp] theorem setCustodian_frameErrors (c : Cust) (x : Option CustEntry) (s : State) : (s.setCustodian c x).frameErrors = s.frameErrors := rfl
@[simp] theorem setCustodian_overruns (c : Cust) (x : Option CustEntry) (s : State) : (s.setCustodian c x).overruns = s.overruns := rfl
@[simp] theorem setCustodian_power (c : Cust) (x : Option CustEntry) (s : State) : (s.setCustodian c x).power = s.power := rfl
@[simp] theorem setCustodian_resetPin (c : Cust) (x : Option CustEntry) (s : State) : (s.setCustodian c x).resetPin = s.resetPin := rfl
@[simp] theorem setCustodian_tamperLine (c : Cust) (x : Option CustEntry) (s : State) : (s.setCustodian c x).tamperLine = s.tamperLine := rfl
@[simp] theorem setCustodian_battery (c : Cust) (x : Option CustEntry) (s : State) : (s.setCustodian c x).battery = s.battery := rfl
@[simp] theorem setCustodian_powerResetOwed (c : Cust) (x : Option CustEntry) (s : State) : (s.setCustodian c x).powerResetOwed = s.powerResetOwed := rfl
@[simp] theorem setCustodian_storeLost (c : Cust) (x : Option CustEntry) (s : State) : (s.setCustodian c x).storeLost = s.storeLost := rfl
@[simp] theorem setCustodian_shiftedOut (c : Cust) (x : Option CustEntry) (s : State) : (s.setCustodian c x).shiftedOut = s.shiftedOut := rfl
@[simp] theorem setCustodian_freeCount (c : Cust) (x : Option CustEntry) (s : State) : (s.setCustodian c x).freeCount = s.freeCount := rfl
@[simp] theorem setCustodian_pending (c : Cust) (x : Option CustEntry) (s : State) : (s.setCustodian c x).pending = s.pending := rfl

/-! ### setCeremony -/

@[simp] theorem setCeremony_store (c : CeremonyRun) (s : State) : (s.setCeremony c).store = s.store := rfl
@[simp] theorem setCeremony_line (c : CeremonyRun) (s : State) : (s.setCeremony c).line = s.line := rfl
@[simp] theorem setCeremony_resetCause (c : CeremonyRun) (s : State) : (s.setCeremony c).resetCause = s.resetCause := rfl
@[simp] theorem setCeremony_stream (c : CeremonyRun) (s : State) : (s.setCeremony c).stream = s.stream := rfl
@[simp] theorem setCeremony_ceremony_run (c : CeremonyRun) (s : State) : (s.setCeremony c).ceremony.run = c := rfl
@[simp] theorem setCeremony_ceremony_last (c : CeremonyRun) (s : State) : (s.setCeremony c).ceremony.last = s.ceremony.last := rfl
@[simp] theorem setCeremony_importWork (c : CeremonyRun) (s : State) : (s.setCeremony c).importWork = s.importWork := rfl
@[simp] theorem setCeremony_engine (c : CeremonyRun) (s : State) : (s.setCeremony c).engine = s.engine := rfl
@[simp] theorem setCeremony_consoles (c : CeremonyRun) (s : State) : (s.setCeremony c).consoles = s.consoles := rfl
@[simp] theorem setCeremony_benches (c : CeremonyRun) (s : State) : (s.setCeremony c).benches = s.benches := rfl
@[simp] theorem setCeremony_outstanding (c : CeremonyRun) (s : State) : (s.setCeremony c).outstanding = s.outstanding := rfl
@[simp] theorem setCeremony_responses (c : CeremonyRun) (s : State) : (s.setCeremony c).responses = s.responses := rfl
@[simp] theorem setCeremony_flags (c : CeremonyRun) (s : State) : (s.setCeremony c).flags = s.flags := rfl
@[simp] theorem setCeremony_mask (c : CeremonyRun) (s : State) : (s.setCeremony c).mask = s.mask := rfl
@[simp] theorem setCeremony_frameErrors (c : CeremonyRun) (s : State) : (s.setCeremony c).frameErrors = s.frameErrors := rfl
@[simp] theorem setCeremony_overruns (c : CeremonyRun) (s : State) : (s.setCeremony c).overruns = s.overruns := rfl
@[simp] theorem setCeremony_power (c : CeremonyRun) (s : State) : (s.setCeremony c).power = s.power := rfl
@[simp] theorem setCeremony_resetPin (c : CeremonyRun) (s : State) : (s.setCeremony c).resetPin = s.resetPin := rfl
@[simp] theorem setCeremony_tamperLine (c : CeremonyRun) (s : State) : (s.setCeremony c).tamperLine = s.tamperLine := rfl
@[simp] theorem setCeremony_battery (c : CeremonyRun) (s : State) : (s.setCeremony c).battery = s.battery := rfl
@[simp] theorem setCeremony_powerResetOwed (c : CeremonyRun) (s : State) : (s.setCeremony c).powerResetOwed = s.powerResetOwed := rfl
@[simp] theorem setCeremony_storeLost (c : CeremonyRun) (s : State) : (s.setCeremony c).storeLost = s.storeLost := rfl
@[simp] theorem setCeremony_shiftedOut (c : CeremonyRun) (s : State) : (s.setCeremony c).shiftedOut = s.shiftedOut := rfl
@[simp] theorem setCeremony_freeCount (c : CeremonyRun) (s : State) : (s.setCeremony c).freeCount = s.freeCount := rfl
@[simp] theorem setCeremony_pending (c : CeremonyRun) (s : State) : (s.setCeremony c).pending = s.pending := rfl

/-! ### setCtx -/

@[simp] theorem setCtx_store (p : Port) (c : PortContext) (s : State) : (s.setCtx p c).store = s.store := rfl
@[simp] theorem setCtx_line (p : Port) (c : PortContext) (s : State) : (s.setCtx p c).line = s.line := rfl
@[simp] theorem setCtx_resetCause (p : Port) (c : PortContext) (s : State) : (s.setCtx p c).resetCause = s.resetCause := rfl
@[simp] theorem setCtx_stream (p : Port) (c : PortContext) (s : State) : (s.setCtx p c).stream = s.stream := rfl
@[simp] theorem setCtx_ceremony (p : Port) (c : PortContext) (s : State) : (s.setCtx p c).ceremony = s.ceremony := rfl
@[simp] theorem setCtx_importWork (p : Port) (c : PortContext) (s : State) : (s.setCtx p c).importWork = s.importWork := rfl
@[simp] theorem setCtx_engine (p : Port) (c : PortContext) (s : State) : (s.setCtx p c).engine = s.engine := rfl
@[simp] theorem setCtx_consoles (p : Port) (c : PortContext) (s : State) : (s.setCtx p c).consoles = s.consoles := rfl
@[simp] theorem setCtx_outstanding (p : Port) (c : PortContext) (s : State) : (s.setCtx p c).outstanding = s.outstanding := rfl
@[simp] theorem setCtx_responses (p : Port) (c : PortContext) (s : State) : (s.setCtx p c).responses = s.responses := rfl
@[simp] theorem setCtx_flags (p : Port) (c : PortContext) (s : State) : (s.setCtx p c).flags = s.flags := rfl
@[simp] theorem setCtx_mask (p : Port) (c : PortContext) (s : State) : (s.setCtx p c).mask = s.mask := rfl
@[simp] theorem setCtx_frameErrors (p : Port) (c : PortContext) (s : State) : (s.setCtx p c).frameErrors = s.frameErrors := rfl
@[simp] theorem setCtx_overruns (p : Port) (c : PortContext) (s : State) : (s.setCtx p c).overruns = s.overruns := rfl
@[simp] theorem setCtx_power (p : Port) (c : PortContext) (s : State) : (s.setCtx p c).power = s.power := rfl
@[simp] theorem setCtx_resetPin (p : Port) (c : PortContext) (s : State) : (s.setCtx p c).resetPin = s.resetPin := rfl
@[simp] theorem setCtx_tamperLine (p : Port) (c : PortContext) (s : State) : (s.setCtx p c).tamperLine = s.tamperLine := rfl
@[simp] theorem setCtx_battery (p : Port) (c : PortContext) (s : State) : (s.setCtx p c).battery = s.battery := rfl
@[simp] theorem setCtx_powerResetOwed (p : Port) (c : PortContext) (s : State) : (s.setCtx p c).powerResetOwed = s.powerResetOwed := rfl
@[simp] theorem setCtx_storeLost (p : Port) (c : PortContext) (s : State) : (s.setCtx p c).storeLost = s.storeLost := rfl
@[simp] theorem setCtx_shiftedOut (p : Port) (c : PortContext) (s : State) : (s.setCtx p c).shiftedOut = s.shiftedOut := rfl
@[simp] theorem setCtx_freeCount (p : Port) (c : PortContext) (s : State) : (s.setCtx p c).freeCount = s.freeCount := rfl
@[simp] theorem setCtx_pending (p : Port) (c : PortContext) (s : State) : (s.setCtx p c).pending = s.pending := rfl

/-! ### setFlagIf -/

@[simp] theorem setFlagIf_store (b : Bool) (e : Event) (s : State) : (s.setFlagIf b e).store = s.store := by
  cases b <;> rfl
@[simp] theorem setFlagIf_line (b : Bool) (e : Event) (s : State) : (s.setFlagIf b e).line = s.line := by
  cases b <;> rfl
@[simp] theorem setFlagIf_resetCause (b : Bool) (e : Event) (s : State) : (s.setFlagIf b e).resetCause = s.resetCause := by
  cases b <;> rfl
@[simp] theorem setFlagIf_stream (b : Bool) (e : Event) (s : State) : (s.setFlagIf b e).stream = s.stream := by
  cases b <;> rfl
@[simp] theorem setFlagIf_ceremony (b : Bool) (e : Event) (s : State) : (s.setFlagIf b e).ceremony = s.ceremony := by
  cases b <;> rfl
@[simp] theorem setFlagIf_importWork (b : Bool) (e : Event) (s : State) : (s.setFlagIf b e).importWork = s.importWork := by
  cases b <;> rfl
@[simp] theorem setFlagIf_engine (b : Bool) (e : Event) (s : State) : (s.setFlagIf b e).engine = s.engine := by
  cases b <;> rfl
@[simp] theorem setFlagIf_consoles (b : Bool) (e : Event) (s : State) : (s.setFlagIf b e).consoles = s.consoles := by
  cases b <;> rfl
@[simp] theorem setFlagIf_benches (b : Bool) (e : Event) (s : State) : (s.setFlagIf b e).benches = s.benches := by
  cases b <;> rfl
@[simp] theorem setFlagIf_outstanding (b : Bool) (e : Event) (s : State) : (s.setFlagIf b e).outstanding = s.outstanding := by
  cases b <;> rfl
@[simp] theorem setFlagIf_responses (b : Bool) (e : Event) (s : State) : (s.setFlagIf b e).responses = s.responses := by
  cases b <;> rfl
@[simp] theorem setFlagIf_mask (b : Bool) (e : Event) (s : State) : (s.setFlagIf b e).mask = s.mask := by
  cases b <;> rfl
@[simp] theorem setFlagIf_frameErrors (b : Bool) (e : Event) (s : State) : (s.setFlagIf b e).frameErrors = s.frameErrors := by
  cases b <;> rfl
@[simp] theorem setFlagIf_overruns (b : Bool) (e : Event) (s : State) : (s.setFlagIf b e).overruns = s.overruns := by
  cases b <;> rfl
@[simp] theorem setFlagIf_power (b : Bool) (e : Event) (s : State) : (s.setFlagIf b e).power = s.power := by
  cases b <;> rfl
@[simp] theorem setFlagIf_resetPin (b : Bool) (e : Event) (s : State) : (s.setFlagIf b e).resetPin = s.resetPin := by
  cases b <;> rfl
@[simp] theorem setFlagIf_tamperLine (b : Bool) (e : Event) (s : State) : (s.setFlagIf b e).tamperLine = s.tamperLine := by
  cases b <;> rfl
@[simp] theorem setFlagIf_battery (b : Bool) (e : Event) (s : State) : (s.setFlagIf b e).battery = s.battery := by
  cases b <;> rfl
@[simp] theorem setFlagIf_powerResetOwed (b : Bool) (e : Event) (s : State) : (s.setFlagIf b e).powerResetOwed = s.powerResetOwed := by
  cases b <;> rfl
@[simp] theorem setFlagIf_storeLost (b : Bool) (e : Event) (s : State) : (s.setFlagIf b e).storeLost = s.storeLost := by
  cases b <;> rfl
@[simp] theorem setFlagIf_shiftedOut (b : Bool) (e : Event) (s : State) : (s.setFlagIf b e).shiftedOut = s.shiftedOut := by
  cases b <;> rfl
@[simp] theorem setFlagIf_freeCount (b : Bool) (e : Event) (s : State) : (s.setFlagIf b e).freeCount = s.freeCount := by
  cases b <;> rfl
@[simp] theorem setFlagIf_pending (b : Bool) (e : Event) (s : State) : (s.setFlagIf b e).pending = s.pending := by
  cases b <;> rfl

/-! ### Readers under updates of something else -/

@[simp] theorem console_of_setFlag (e : Event) (k : ConsoleLink) (s : State) : (s.setFlag e).console k = s.console k := rfl
@[simp] theorem bench_of_setFlag (e : Event) (q : Port) (s : State) : (s.setFlag e).bench q = s.bench q := rfl
@[simp] theorem ctx_of_setFlag (e : Event) (q : Port) (s : State) : (s.setFlag e).ctx q = s.ctx q := rfl
@[simp] theorem slot_of_setFlag (e : Event) (j : SlotIx) (s : State) : (s.setFlag e).slot j = s.slot j := rfl
@[simp] theorem journal_of_setFlag (e : Event) (s : State) : (s.setFlag e).journal = s.journal := rfl
@[simp] theorem registry_of_setFlag (e : Event) (s : State) : (s.setFlag e).registry = s.registry := rfl
@[simp] theorem step_of_setFlag (e : Event) (q : Port) (s : State) : (s.setFlag e).step q = s.step q := rfl
@[simp] theorem custodian_of_setFlag (e : Event) (m : Cust) (s : State) : (s.setFlag e).custodian m = s.custodian m := rfl
@[simp] theorem profile_of_setFlag (e : Event) (s : State) : (s.setFlag e).profile = s.profile := rfl
@[simp] theorem running_of_setFlag (e : Event) (s : State) : (s.setFlag e).running = s.running := rfl
@[simp] theorem console_of_clearFlag (e : Event) (k : ConsoleLink) (s : State) : (s.clearFlag e).console k = s.console k := rfl
@[simp] theorem bench_of_clearFlag (e : Event) (q : Port) (s : State) : (s.clearFlag e).bench q = s.bench q := rfl
@[simp] theorem ctx_of_clearFlag (e : Event) (q : Port) (s : State) : (s.clearFlag e).ctx q = s.ctx q := rfl
@[simp] theorem slot_of_clearFlag (e : Event) (j : SlotIx) (s : State) : (s.clearFlag e).slot j = s.slot j := rfl
@[simp] theorem journal_of_clearFlag (e : Event) (s : State) : (s.clearFlag e).journal = s.journal := rfl
@[simp] theorem registry_of_clearFlag (e : Event) (s : State) : (s.clearFlag e).registry = s.registry := rfl
@[simp] theorem step_of_clearFlag (e : Event) (q : Port) (s : State) : (s.clearFlag e).step q = s.step q := rfl
@[simp] theorem custodian_of_clearFlag (e : Event) (m : Cust) (s : State) : (s.clearFlag e).custodian m = s.custodian m := rfl
@[simp] theorem profile_of_clearFlag (e : Event) (s : State) : (s.clearFlag e).profile = s.profile := rfl
@[simp] theorem running_of_clearFlag (e : Event) (s : State) : (s.clearFlag e).running = s.running := rfl
@[simp] theorem bench_of_setConsole (l : ConsoleLink) (c : Console) (q : Port) (s : State) : (s.setConsole l c).bench q = s.bench q := rfl
@[simp] theorem ctx_of_setConsole (l : ConsoleLink) (c : Console) (q : Port) (s : State) : (s.setConsole l c).ctx q = s.ctx q := rfl
@[simp] theorem slot_of_setConsole (l : ConsoleLink) (c : Console) (j : SlotIx) (s : State) : (s.setConsole l c).slot j = s.slot j := rfl
@[simp] theorem journal_of_setConsole (l : ConsoleLink) (c : Console) (s : State) : (s.setConsole l c).journal = s.journal := rfl
@[simp] theorem registry_of_setConsole (l : ConsoleLink) (c : Console) (s : State) : (s.setConsole l c).registry = s.registry := rfl
@[simp] theorem step_of_setConsole (l : ConsoleLink) (c : Console) (q : Port) (s : State) : (s.setConsole l c).step q = s.step q := rfl
@[simp] theorem custodian_of_setConsole (l : ConsoleLink) (c : Console) (m : Cust) (s : State) : (s.setConsole l c).custodian m = s.custodian m := rfl
@[simp] theorem profile_of_setConsole (l : ConsoleLink) (c : Console) (s : State) : (s.setConsole l c).profile = s.profile := rfl
@[simp] theorem running_of_setConsole (l : ConsoleLink) (c : Console) (s : State) : (s.setConsole l c).running = s.running := rfl
@[simp] theorem console_of_setBench (p : Port) (b : Bench) (k : ConsoleLink) (s : State) : (s.setBench p b).console k = s.console k := rfl
@[simp] theorem slot_of_setBench (p : Port) (b : Bench) (j : SlotIx) (s : State) : (s.setBench p b).slot j = s.slot j := rfl
@[simp] theorem journal_of_setBench (p : Port) (b : Bench) (s : State) : (s.setBench p b).journal = s.journal := rfl
@[simp] theorem registry_of_setBench (p : Port) (b : Bench) (s : State) : (s.setBench p b).registry = s.registry := rfl
@[simp] theorem step_of_setBench (p : Port) (b : Bench) (q : Port) (s : State) : (s.setBench p b).step q = s.step q := rfl
@[simp] theorem custodian_of_setBench (p : Port) (b : Bench) (m : Cust) (s : State) : (s.setBench p b).custodian m = s.custodian m := rfl
@[simp] theorem profile_of_setBench (p : Port) (b : Bench) (s : State) : (s.setBench p b).profile = s.profile := rfl
@[simp] theorem running_of_setBench (p : Port) (b : Bench) (s : State) : (s.setBench p b).running = s.running := rfl
@[simp] theorem console_of_setSlot (i : SlotIx) (x : Slot) (k : ConsoleLink) (s : State) : (s.setSlot i x).console k = s.console k := rfl
@[simp] theorem bench_of_setSlot (i : SlotIx) (x : Slot) (q : Port) (s : State) : (s.setSlot i x).bench q = s.bench q := rfl
@[simp] theorem ctx_of_setSlot (i : SlotIx) (x : Slot) (q : Port) (s : State) : (s.setSlot i x).ctx q = s.ctx q := rfl
@[simp] theorem journal_of_setSlot (i : SlotIx) (x : Slot) (s : State) : (s.setSlot i x).journal = s.journal := rfl
@[simp] theorem registry_of_setSlot (i : SlotIx) (x : Slot) (s : State) : (s.setSlot i x).registry = s.registry := rfl
@[simp] theorem step_of_setSlot (i : SlotIx) (x : Slot) (q : Port) (s : State) : (s.setSlot i x).step q = s.step q := rfl
@[simp] theorem custodian_of_setSlot (i : SlotIx) (x : Slot) (m : Cust) (s : State) : (s.setSlot i x).custodian m = s.custodian m := rfl
@[simp] theorem profile_of_setSlot (i : SlotIx) (x : Slot) (s : State) : (s.setSlot i x).profile = s.profile := rfl
@[simp] theorem running_of_setSlot (i : SlotIx) (x : Slot) (s : State) : (s.setSlot i x).running = s.running := rfl
@[simp] theorem console_of_setJournal (jr : Journal) (k : ConsoleLink) (s : State) : (s.setJournal jr).console k = s.console k := rfl
@[simp] theorem bench_of_setJournal (jr : Journal) (q : Port) (s : State) : (s.setJournal jr).bench q = s.bench q := rfl
@[simp] theorem ctx_of_setJournal (jr : Journal) (q : Port) (s : State) : (s.setJournal jr).ctx q = s.ctx q := rfl
@[simp] theorem slot_of_setJournal (jr : Journal) (j : SlotIx) (s : State) : (s.setJournal jr).slot j = s.slot j := rfl
@[simp] theorem registry_of_setJournal (jr : Journal) (s : State) : (s.setJournal jr).registry = s.registry := rfl
@[simp] theorem step_of_setJournal (jr : Journal) (q : Port) (s : State) : (s.setJournal jr).step q = s.step q := rfl
@[simp] theorem custodian_of_setJournal (jr : Journal) (m : Cust) (s : State) : (s.setJournal jr).custodian m = s.custodian m := rfl
@[simp] theorem profile_of_setJournal (jr : Journal) (s : State) : (s.setJournal jr).profile = s.profile := rfl
@[simp] theorem running_of_setJournal (jr : Journal) (s : State) : (s.setJournal jr).running = s.running := rfl
@[simp] theorem console_of_setRegistry (r : Registry) (k : ConsoleLink) (s : State) : (s.setRegistry r).console k = s.console k := rfl
@[simp] theorem bench_of_setRegistry (r : Registry) (q : Port) (s : State) : (s.setRegistry r).bench q = s.bench q := rfl
@[simp] theorem ctx_of_setRegistry (r : Registry) (q : Port) (s : State) : (s.setRegistry r).ctx q = s.ctx q := rfl
@[simp] theorem slot_of_setRegistry (r : Registry) (j : SlotIx) (s : State) : (s.setRegistry r).slot j = s.slot j := rfl
@[simp] theorem journal_of_setRegistry (r : Registry) (s : State) : (s.setRegistry r).journal = s.journal := rfl
@[simp] theorem step_of_setRegistry (r : Registry) (q : Port) (s : State) : (s.setRegistry r).step q = s.step q := rfl
@[simp] theorem custodian_of_setRegistry (r : Registry) (m : Cust) (s : State) : (s.setRegistry r).custodian m = s.custodian m := rfl
@[simp] theorem profile_of_setRegistry (r : Registry) (s : State) : (s.setRegistry r).profile = s.profile := rfl
@[simp] theorem running_of_setRegistry (r : Registry) (s : State) : (s.setRegistry r).running = s.running := rfl
@[simp] theorem console_of_setStep (p : Port) (x : Option PendingStep) (k : ConsoleLink) (s : State) : (s.setStep p x).console k = s.console k := rfl
@[simp] theorem bench_of_setStep (p : Port) (x : Option PendingStep) (q : Port) (s : State) : (s.setStep p x).bench q = s.bench q := rfl
@[simp] theorem ctx_of_setStep (p : Port) (x : Option PendingStep) (q : Port) (s : State) : (s.setStep p x).ctx q = s.ctx q := rfl
@[simp] theorem slot_of_setStep (p : Port) (x : Option PendingStep) (j : SlotIx) (s : State) : (s.setStep p x).slot j = s.slot j := rfl
@[simp] theorem journal_of_setStep (p : Port) (x : Option PendingStep) (s : State) : (s.setStep p x).journal = s.journal := rfl
@[simp] theorem registry_of_setStep (p : Port) (x : Option PendingStep) (s : State) : (s.setStep p x).registry = s.registry := rfl
@[simp] theorem custodian_of_setStep (p : Port) (x : Option PendingStep) (m : Cust) (s : State) : (s.setStep p x).custodian m = s.custodian m := rfl
@[simp] theorem profile_of_setStep (p : Port) (x : Option PendingStep) (s : State) : (s.setStep p x).profile = s.profile := rfl
@[simp] theorem running_of_setStep (p : Port) (x : Option PendingStep) (s : State) : (s.setStep p x).running = s.running := rfl
@[simp] theorem console_of_setCustodian (c : Cust) (x : Option CustEntry) (k : ConsoleLink) (s : State) : (s.setCustodian c x).console k = s.console k := rfl
@[simp] theorem bench_of_setCustodian (c : Cust) (x : Option CustEntry) (q : Port) (s : State) : (s.setCustodian c x).bench q = s.bench q := rfl
@[simp] theorem ctx_of_setCustodian (c : Cust) (x : Option CustEntry) (q : Port) (s : State) : (s.setCustodian c x).ctx q = s.ctx q := rfl
@[simp] theorem slot_of_setCustodian (c : Cust) (x : Option CustEntry) (j : SlotIx) (s : State) : (s.setCustodian c x).slot j = s.slot j := rfl
@[simp] theorem journal_of_setCustodian (c : Cust) (x : Option CustEntry) (s : State) : (s.setCustodian c x).journal = s.journal := rfl
@[simp] theorem registry_of_setCustodian (c : Cust) (x : Option CustEntry) (s : State) : (s.setCustodian c x).registry = s.registry := rfl
@[simp] theorem step_of_setCustodian (c : Cust) (x : Option CustEntry) (q : Port) (s : State) : (s.setCustodian c x).step q = s.step q := rfl
@[simp] theorem profile_of_setCustodian (c : Cust) (x : Option CustEntry) (s : State) : (s.setCustodian c x).profile = s.profile := rfl
@[simp] theorem running_of_setCustodian (c : Cust) (x : Option CustEntry) (s : State) : (s.setCustodian c x).running = s.running := rfl
@[simp] theorem console_of_setCeremony (c : CeremonyRun) (k : ConsoleLink) (s : State) : (s.setCeremony c).console k = s.console k := rfl
@[simp] theorem bench_of_setCeremony (c : CeremonyRun) (q : Port) (s : State) : (s.setCeremony c).bench q = s.bench q := rfl
@[simp] theorem ctx_of_setCeremony (c : CeremonyRun) (q : Port) (s : State) : (s.setCeremony c).ctx q = s.ctx q := rfl
@[simp] theorem slot_of_setCeremony (c : CeremonyRun) (j : SlotIx) (s : State) : (s.setCeremony c).slot j = s.slot j := rfl
@[simp] theorem journal_of_setCeremony (c : CeremonyRun) (s : State) : (s.setCeremony c).journal = s.journal := rfl
@[simp] theorem registry_of_setCeremony (c : CeremonyRun) (s : State) : (s.setCeremony c).registry = s.registry := rfl
@[simp] theorem step_of_setCeremony (c : CeremonyRun) (q : Port) (s : State) : (s.setCeremony c).step q = s.step q := rfl
@[simp] theorem custodian_of_setCeremony (c : CeremonyRun) (m : Cust) (s : State) : (s.setCeremony c).custodian m = s.custodian m := rfl
@[simp] theorem profile_of_setCeremony (c : CeremonyRun) (s : State) : (s.setCeremony c).profile = s.profile := rfl
@[simp] theorem running_of_setCeremony (c : CeremonyRun) (s : State) : (s.setCeremony c).running = s.running := rfl
@[simp] theorem console_of_setCtx (p : Port) (c : PortContext) (k : ConsoleLink) (s : State) : (s.setCtx p c).console k = s.console k := rfl
@[simp] theorem slot_of_setCtx (p : Port) (c : PortContext) (j : SlotIx) (s : State) : (s.setCtx p c).slot j = s.slot j := rfl
@[simp] theorem journal_of_setCtx (p : Port) (c : PortContext) (s : State) : (s.setCtx p c).journal = s.journal := rfl
@[simp] theorem registry_of_setCtx (p : Port) (c : PortContext) (s : State) : (s.setCtx p c).registry = s.registry := rfl
@[simp] theorem step_of_setCtx (p : Port) (c : PortContext) (q : Port) (s : State) : (s.setCtx p c).step q = s.step q := rfl
@[simp] theorem custodian_of_setCtx (p : Port) (c : PortContext) (m : Cust) (s : State) : (s.setCtx p c).custodian m = s.custodian m := rfl
@[simp] theorem profile_of_setCtx (p : Port) (c : PortContext) (s : State) : (s.setCtx p c).profile = s.profile := rfl
@[simp] theorem running_of_setCtx (p : Port) (c : PortContext) (s : State) : (s.setCtx p c).running = s.running := rfl
@[simp] theorem console_of_setFlagIf (b : Bool) (e : Event) (k : ConsoleLink) (s : State) : (s.setFlagIf b e).console k = s.console k := by
  cases b <;> rfl
@[simp] theorem bench_of_setFlagIf (b : Bool) (e : Event) (q : Port) (s : State) : (s.setFlagIf b e).bench q = s.bench q := by
  cases b <;> rfl
@[simp] theorem ctx_of_setFlagIf (b : Bool) (e : Event) (q : Port) (s : State) : (s.setFlagIf b e).ctx q = s.ctx q := by
  cases b <;> rfl
@[simp] theorem slot_of_setFlagIf (b : Bool) (e : Event) (j : SlotIx) (s : State) : (s.setFlagIf b e).slot j = s.slot j := by
  cases b <;> rfl
@[simp] theorem journal_of_setFlagIf (b : Bool) (e : Event) (s : State) : (s.setFlagIf b e).journal = s.journal := by
  cases b <;> rfl
@[simp] theorem registry_of_setFlagIf (b : Bool) (e : Event) (s : State) : (s.setFlagIf b e).registry = s.registry := by
  cases b <;> rfl
@[simp] theorem step_of_setFlagIf (b : Bool) (e : Event) (q : Port) (s : State) : (s.setFlagIf b e).step q = s.step q := by
  cases b <;> rfl
@[simp] theorem custodian_of_setFlagIf (b : Bool) (e : Event) (m : Cust) (s : State) : (s.setFlagIf b e).custodian m = s.custodian m := by
  cases b <;> rfl
@[simp] theorem profile_of_setFlagIf (b : Bool) (e : Event) (s : State) : (s.setFlagIf b e).profile = s.profile := by
  cases b <;> rfl
@[simp] theorem running_of_setFlagIf (b : Bool) (e : Event) (s : State) : (s.setFlagIf b e).running = s.running := by
  cases b <;> rfl

@[simp] theorem setFlagIf_flags (b : Bool) (e : Event) (s : State) :
    (s.setFlagIf b e).flags = if b then s.flags ||| e.only else s.flags := by
  cases b <;> rfl

/-! ### Reading after writing -/

@[simp] theorem console_setConsole_self (l : ConsoleLink) (c : Console) (s : State) : (s.setConsole l c).console l = c := by
  simp [console]

theorem console_setConsole (l k : ConsoleLink) (c : Console) (s : State) :
    (s.setConsole l c).console k = if l = k then c else s.console k := by
  simp [console, Tab.get_set]

@[simp] theorem bench_setBench_self (p : Port) (b : Bench) (s : State) : (s.setBench p b).bench p = b := by
  simp [bench]

theorem bench_setBench (p q : Port) (b : Bench) (s : State) :
    (s.setBench p b).bench q = if p = q then b else s.bench q := by
  simp [bench, Tab.get_set]

@[simp] theorem ctx_setCtx_self (p : Port) (c : PortContext) (s : State) : (s.setCtx p c).ctx p = c := by
  simp [ctx, setCtx]

theorem ctx_setCtx (p q : Port) (c : PortContext) (s : State) :
    (s.setCtx p c).ctx q = if p = q then c else s.ctx q := by
  by_cases h : p = q <;> simp [ctx, setCtx, bench_setBench, h]

@[simp] theorem slot_setSlot_self (i : SlotIx) (x : Slot) (s : State) : (s.setSlot i x).slot i = x := by
  simp [slot]

theorem slot_setSlot (i j : SlotIx) (x : Slot) (s : State) :
    (s.setSlot i x).slot j = if i = j then x else s.slot j := by
  simp [slot, Tab.get_set]

@[simp] theorem step_setStep_self (p : Port) (x : Option PendingStep) (s : State) : (s.setStep p x).step p = x := by
  simp [step]

theorem step_setStep (p q : Port) (x : Option PendingStep) (s : State) :
    (s.setStep p x).step q = if p = q then x else s.step q := by
  simp [step, Tab.get_set]

@[simp] theorem journal_setJournal (j : Journal) (s : State) : (s.setJournal j).journal = j := rfl

@[simp] theorem registry_setRegistry (r : Registry) (s : State) : (s.setRegistry r).registry = r := rfl

/-! ### Writes over writes -/

@[simp] theorem setConsole_setConsole (l : ConsoleLink) (a b : Console) (s : State) :
    (s.setConsole l a).setConsole l b = s.setConsole l b := by simp [setConsole]

@[simp] theorem setConsole_self (l : ConsoleLink) (s : State) : s.setConsole l (s.console l) = s := by
  simp [setConsole, console]

@[simp] theorem setBench_setBench (p : Port) (a b : Bench) (s : State) :
    (s.setBench p a).setBench p b = s.setBench p b := by simp [setBench]

@[simp] theorem setBench_self (p : Port) (s : State) : s.setBench p (s.bench p) = s := by simp [setBench, bench]

@[simp] theorem setCtx_setBench (p : Port) (b : Bench) (c : PortContext) (s : State) :
    (s.setBench p b).setCtx p c = s.setBench p { b with ctx := c } := by simp [setCtx]

@[simp] theorem setSlot_setSlot (i : SlotIx) (a b : Slot) (s : State) :
    (s.setSlot i a).setSlot i b = s.setSlot i b := by simp [setSlot]

@[simp] theorem setSlot_self (i : SlotIx) (s : State) : s.setSlot i (s.slot i) = s := by simp [setSlot, slot]

@[simp] theorem setStep_setStep (p : Port) (a b : Option PendingStep) (s : State) :
    (s.setStep p a).setStep p b = s.setStep p b := by simp [setStep]

@[simp] theorem setJournal_setJournal (a b : Journal) (s : State) :
    (s.setJournal a).setJournal b = s.setJournal b := by simp [setJournal]

@[simp] theorem setRegistry_setRegistry (a b : Registry) (s : State) :
    (s.setRegistry a).setRegistry b = s.setRegistry b := by simp [setRegistry]

theorem setSlot_comm (i j : SlotIx) (a b : Slot) (s : State) (h : i ≠ j) :
    (s.setSlot i a).setSlot j b = (s.setSlot j b).setSlot i a := by
  simp only [setSlot, Tab.set_comm _ i j a b h]

end State

end Sys2Proof.Machine
end

