-- ==== Sys2Proof/Laws/Ops.lean ====
section
/-! SUPPORT. One lemma for each shared operation: what it does, said once, so that a proof cites it and does not unfold the
operation. -/

namespace Sys2Proof.Machine

open Sys2Proof.Safety

/-! ### Whole states -/

/-- Two states that differ in no field are the same. -/
theorem State.eq_of_fields {s t : State} (slots : s.store.slots = t.store.slots)
    (custodians : s.store.custodians = t.store.custodians) (profile : s.store.profile = t.store.profile)
    (registry : s.store.registry = t.store.registry) (journal : s.store.journal = t.store.journal)
    (steps : s.store.steps = t.store.steps) (tamperLatch : s.store.tamperLatch = t.store.tamperLatch) (line : s.line = t.line)
    (resetCause : s.resetCause = t.resetCause) (stream : s.stream = t.stream) (ceremony : s.ceremony = t.ceremony)
    (importWork : s.importWork = t.importWork) (engine : s.engine = t.engine) (consoles : s.consoles = t.consoles)
    (benches : s.benches = t.benches) (outstanding : s.outstanding = t.outstanding)
    (responses : s.responses = t.responses) (flags : s.flags = t.flags) (mask : s.mask = t.mask)
    (frameErrors : s.frameErrors = t.frameErrors) (overruns : s.overruns = t.overruns) (power : s.power = t.power)
    (resetPin : s.resetPin = t.resetPin) (tamperLine : s.tamperLine = t.tamperLine) (battery : s.battery = t.battery)
    (powerResetOwed : s.powerResetOwed = t.powerResetOwed) (storeLost : s.storeLost = t.storeLost)
    (shiftedOut : s.shiftedOut = t.shiftedOut) (freeCount : s.freeCount = t.freeCount) (pending : s.pending = t.pending) :
    s = t := by
  obtain ⟨⟨_, _, _, _, _, _, _⟩, _⟩ := s
  obtain ⟨⟨_, _, _, _, _, _, _⟩, _⟩ := t
  simp_all

/-! ### Events (R203, R209) -/

theorem only_responseReady : Event.responseReady.only = 0x1#12 := by decide
theorem only_frameError : Event.frameError.only = 0x2#12 := by decide
theorem only_overrun : Event.overrun.only = 0x4#12 := by decide
theorem only_journalHigh : Event.journalHigh.only = 0x8#12 := by decide
theorem only_terminalDone : Event.terminalDone.only = 0x10#12 := by decide
theorem only_terminalFault : Event.terminalFault.only = 0x20#12 := by decide
theorem only_duplicateSerial : Event.duplicateSerial.only = 0x40#12 := by decide
theorem only_counterLow : Event.counterLow.only = 0x80#12 := by decide
theorem only_counterExhausted : Event.counterExhausted.only = 0x100#12 := by decide
theorem only_lineState : Event.lineState.only = 0x200#12 := by decide
theorem only_ceremonyEnd : Event.ceremonyEnd.only = 0x400#12 := by decide
theorem only_tamper : Event.tamper.only = 0x800#12 := by decide

/-! ### Control requests (R196, R197) -/

/-- The state in which an accepted request with a body of `n` bytes reaches its block. -/
def State.withRequest (tag kind : Byte) (n : Nat) (s : State) : State :=
  { s with
    outstanding := s.outstanding ++ [{ tag := tag, kind := kind, queued := false }]
    shiftedOut := quiet n }

@[simp] theorem State.withRequest_store (tag kind : Byte) (n : Nat) (s : State) : (s.withRequest tag kind n).store = s.store := rfl
@[simp] theorem State.withRequest_line (tag kind : Byte) (n : Nat) (s : State) : (s.withRequest tag kind n).line = s.line := rfl
@[simp] theorem State.withRequest_resetCause (tag kind : Byte) (n : Nat) (s : State) : (s.withRequest tag kind n).resetCause = s.resetCause := rfl
@[simp] theorem State.withRequest_stream (tag kind : Byte) (n : Nat) (s : State) : (s.withRequest tag kind n).stream = s.stream := rfl
@[simp] theorem State.withRequest_ceremony (tag kind : Byte) (n : Nat) (s : State) : (s.withRequest tag kind n).ceremony = s.ceremony := rfl
@[simp] theorem State.withRequest_importWork (tag kind : Byte) (n : Nat) (s : State) : (s.withRequest tag kind n).importWork = s.importWork := rfl
@[simp] theorem State.withRequest_engine (tag kind : Byte) (n : Nat) (s : State) : (s.withRequest tag kind n).engine = s.engine := rfl
@[simp] theorem State.withRequest_consoles (tag kind : Byte) (n : Nat) (s : State) : (s.withRequest tag kind n).consoles = s.consoles := rfl
@[simp] theorem State.withRequest_benches (tag kind : Byte) (n : Nat) (s : State) : (s.withRequest tag kind n).benches = s.benches := rfl
@[simp] theorem State.withRequest_responses (tag kind : Byte) (n : Nat) (s : State) : (s.withRequest tag kind n).responses = s.responses := rfl
@[simp] theorem State.withRequest_flags (tag kind : Byte) (n : Nat) (s : State) : (s.withRequest tag kind n).flags = s.flags := rfl
@[simp] theorem State.withRequest_mask (tag kind : Byte) (n : Nat) (s : State) : (s.withRequest tag kind n).mask = s.mask := rfl
@[simp] theorem State.withRequest_frameErrors (tag kind : Byte) (n : Nat) (s : State) : (s.withRequest tag kind n).frameErrors = s.frameErrors := rfl
@[simp] theorem State.withRequest_overruns (tag kind : Byte) (n : Nat) (s : State) : (s.withRequest tag kind n).overruns = s.overruns := rfl
@[simp] theorem State.withRequest_power (tag kind : Byte) (n : Nat) (s : State) : (s.withRequest tag kind n).power = s.power := rfl
@[simp] theorem State.withRequest_resetPin (tag kind : Byte) (n : Nat) (s : State) : (s.withRequest tag kind n).resetPin = s.resetPin := rfl
@[simp] theorem State.withRequest_tamperLine (tag kind : Byte) (n : Nat) (s : State) : (s.withRequest tag kind n).tamperLine = s.tamperLine := rfl
@[simp] theorem State.withRequest_battery (tag kind : Byte) (n : Nat) (s : State) : (s.withRequest tag kind n).battery = s.battery := rfl
@[simp] theorem State.withRequest_powerResetOwed (tag kind : Byte) (n : Nat) (s : State) : (s.withRequest tag kind n).powerResetOwed = s.powerResetOwed := rfl
@[simp] theorem State.withRequest_storeLost (tag kind : Byte) (n : Nat) (s : State) : (s.withRequest tag kind n).storeLost = s.storeLost := rfl
@[simp] theorem State.withRequest_shiftedOut (tag kind : Byte) (n : Nat) (s : State) : (s.withRequest tag kind n).shiftedOut = quiet n := rfl
@[simp] theorem State.withRequest_freeCount (tag kind : Byte) (n : Nat) (s : State) : (s.withRequest tag kind n).freeCount = s.freeCount := rfl
@[simp] theorem State.withRequest_pending (tag kind : Byte) (n : Nat) (s : State) : (s.withRequest tag kind n).pending = s.pending := rfl
@[simp] theorem State.withRequest_journal (tag kind : Byte) (n : Nat) (s : State) : (s.withRequest tag kind n).journal = s.journal := rfl
@[simp] theorem State.withRequest_registry (tag kind : Byte) (n : Nat) (s : State) : (s.withRequest tag kind n).registry = s.registry := rfl
@[simp] theorem State.withRequest_profile (tag kind : Byte) (n : Nat) (s : State) : (s.withRequest tag kind n).profile = s.profile := rfl
@[simp] theorem State.withRequest_console (tag kind : Byte) (n : Nat) (l : ConsoleLink) (s : State) : (s.withRequest tag kind n).console l = s.console l := rfl
@[simp] theorem State.withRequest_bench (tag kind : Byte) (n : Nat) (p : Port) (s : State) : (s.withRequest tag kind n).bench p = s.bench p := rfl
@[simp] theorem State.withRequest_ctx (tag kind : Byte) (n : Nat) (p : Port) (s : State) : (s.withRequest tag kind n).ctx p = s.ctx p := rfl
@[simp] theorem State.withRequest_slot (tag kind : Byte) (n : Nat) (i : SlotIx) (s : State) : (s.withRequest tag kind n).slot i = s.slot i := rfl
@[simp] theorem State.withRequest_step (tag kind : Byte) (n : Nat) (p : Port) (s : State) : (s.withRequest tag kind n).step p = s.step p := rfl
@[simp] theorem State.withRequest_custodian (tag kind : Byte) (n : Nat) (c : Cust) (s : State) : (s.withRequest tag kind n).custodian c = s.custodian c := rfl
theorem withRequest_highMark (tag kind : Byte) (n : Nat) (s : State) : highMark (s.withRequest tag kind n) = highMark s := by
  unfold highMark; rw [State.withRequest_profile]
theorem withRequest_regionOf (tag kind : Byte) (n : Nat) (i : SlotIx) (s : State) :
    regionOf i (s.withRequest tag kind n) = regionOf i s := by
  unfold regionOf; rw [State.withRequest_profile]
theorem withRequest_reserved (tag kind : Byte) (n : Nat) (h : ResHolder) (s : State) :
    reserved h (s.withRequest tag kind n) = (reserved h s).withRequest tag kind n := by
  by_cases hc : highMark s ≤ s.journal.occupancy + 1
  · have hc' : highMark (s.withRequest tag kind n) ≤ (s.withRequest tag kind n).journal.occupancy + 1 := hc
    unfold reserved; rw [decide_eq_true hc, decide_eq_true hc']; rfl
  · have hc' : ¬highMark (s.withRequest tag kind n) ≤ (s.withRequest tag kind n).journal.occupancy + 1 := hc
    unfold reserved; rw [decide_eq_false hc, decide_eq_false hc']; rfl

theorem acceptRequest_of_accepts {tag kind : Byte} {n : Nat} {h : State → State} {s : State} (ha : Accepts tag s)
    (hn : n ≤ 2048) : acceptRequest tag kind n h s = h (s.withRequest tag kind n) := by
  obtain ⟨hr, ho, ht⟩ := ha
  have h1 : ¬ 2048 < n := by omega
  have h2 : ¬ 8 ≤ s.outstanding.length := by omega
  have h3 : s.outstanding.any (fun o => o.tag == tag) = false := by simpa using ht
  simp [acceptRequest, hr, h1, State.silent, h2, h3, State.withRequest, quiet]

theorem map_queued_of_fresh {tag : Byte} {l : List Outstanding} (h : ∀ o ∈ l, o.tag ≠ tag) :
    (l.map fun o => if o.tag = tag then { o with queued := true } else o) = l := by
  induction l with
  | nil => rfl
  | cons a l ih =>
    have ha : a.tag ≠ tag := h a (by simp)
    simp only [List.map_cons, ha, ↓reduceIte]
    rw [ih fun o ho => h o (by simp [ho])]

/-- A response to the request just accepted: its answer in the queue, its record QUEUED, RESPONSE_READY set. -/
theorem respond_withRequest {tag kind : Byte} {n : Nat} {st : Status} {ch : Bool} {body : ResponseBody} {s v : State}
    (hs : ∀ o ∈ s.outstanding, o.tag ≠ tag)
    (hv : v.outstanding = s.outstanding ++ [{ tag := tag, kind := kind, queued := false }]) (hq : v.shiftedOut = quiet n) :
    respond tag kind st ch body v = answered tag kind n st ch body { v with outstanding := s.outstanding } := by
  have hm := map_queued_of_fresh hs
  simp only [respond, State.setFlag, answered, hv, hq, List.map_append, hm, only_responseReady]
  simp

theorem refuse_withRequest {tag kind : Byte} {n : Nat} {st : Status} {s v : State} (hs : ∀ o ∈ s.outstanding, o.tag ≠ tag)
    (hv : v.outstanding = s.outstanding ++ [{ tag := tag, kind := kind, queued := false }]) (hq : v.shiftedOut = quiet n) :
    refuse tag kind st v = refused tag kind n st { v with outstanding := s.outstanding } := respond_withRequest hs hv hq

/-- An answer to the request just accepted, with nothing else changed. -/
theorem respond_accepted {tag kind : Byte} {n : Nat} {st : Status} {ch : Bool} {body : ResponseBody} {s : State}
    (ha : Accepts tag s) : respond tag kind st ch body (s.withRequest tag kind n) = answered tag kind n st ch body s :=
  respond_withRequest ha.2.2 rfl rfl

/-- A refusal of the request just accepted changes nothing else. -/
theorem refuse_accepted {tag kind : Byte} {n : Nat} {st : Status} {s : State} (ha : Accepts tag s) :
    refuse tag kind st (s.withRequest tag kind n) = refused tag kind n st s := respond_accepted ha

/-- A request whose answer is withheld joins the outstanding set, and nothing else changes. -/
theorem withRequest_eq_withheld (tag kind : Byte) (n : Nat) (s : State) : s.withRequest tag kind n = withheld tag kind n s := rfl

/-- A request write that is judged bad counts a frame error, whatever it carried. -/
theorem acceptRequest_tooLong {tag kind : Byte} {n : Nat} {h : State → State} {s : State} (hr : s.running = true)
    (hn : 2048 < n) : acceptRequest tag kind n h s = frameErrorEvent (s.silent (n + 7)) := by
  simp [acceptRequest, hr, hn]

/-- A ninth request is not accepted and counts an overrun. -/
theorem acceptRequest_full {tag kind : Byte} {n : Nat} {h : State → State} {s : State} (hr : s.running = true)
    (hn : n ≤ 2048) (ho : 8 ≤ s.outstanding.length) :
    acceptRequest tag kind n h s = overrunEvent (s.silent (n + 7)) := by
  have h1 : ¬ 2048 < n := by omega
  simp [acceptRequest, hr, h1, State.silent, ho]

/-- A request whose tag is outstanding counts a frame error. -/
theorem acceptRequest_sameTag {tag kind : Byte} {n : Nat} {h : State → State} {s : State} (hr : s.running = true)
    (hn : n ≤ 2048) (ho : s.outstanding.length < 8) (ht : ∃ o ∈ s.outstanding, o.tag = tag) :
    acceptRequest tag kind n h s = frameErrorEvent (s.silent (n + 7)) := by
  have h1 : ¬ 2048 < n := by omega
  have h2 : ¬ 8 ≤ s.outstanding.length := by omega
  have h3 : s.outstanding.any (fun o => o.tag == tag) = true := by simpa using ht
  simp [acceptRequest, hr, h1, State.silent, h2, h3]

/-! ### Wrapped keys (R138, R144) -/

theorem wrappedBytes_length (wrappingKey : KeyBytes) (header : List Byte) (key : KeyBytes) :
    (wrappedBytes wrappingKey header key).length = key.length + 8 := by simp [wrappedBytes]

/-- What a permutation of `n` bytes makes of `p`, undone. -/
theorem ofFn_symm_ofFn (σ : (n : Nat) → Equiv.Perm (Fin n → Byte)) (p : List Byte) {w : List Byte}
    (hw : w = List.ofFn (σ p.length p.get)) : List.ofFn ((σ w.length).symm w.get) = p := by
  have hl : w.length = p.length := by simp [hw]
  have hg : ∀ (n : Nat) (_ : w.length = n) (f : Fin n → Byte), w = List.ofFn (σ n f) →
      List.ofFn ((σ w.length).symm w.get) = List.ofFn f := by
    intro n hn f hf
    subst hn
    have : w.get = σ w.length f := by
      apply List.ofFn_injective
      rw [List.ofFn_get]; exact hf
    rw [this, Equiv.symm_apply_apply]
  rw [hg p.length hl p.get hw, List.ofFn_get]

/-- A holder of the wrapping key recovers the key that was wrapped (R138). -/
theorem recoveredKey_wrappedBytes (wrappingKey : KeyBytes) (header : List Byte) (key : KeyBytes) :
    recoveredKey wrappingKey header (wrappedBytes wrappingKey header key) = key := by
  unfold recoveredKey
  rw [ofFn_symm_ofFn (Config.wrapPermutation wrappingKey header) (w := wrappedBytes wrappingKey header key)
    (key ++ (List.range 8).map (Config.overheadByte wrappingKey header key)) rfl, wrappedBytes_length]
  simp

theorem wrappedBytes_injective {wrappingKey : KeyBytes} {header : List Byte} {key other : KeyBytes}
    (h : wrappedBytes wrappingKey header key = wrappedBytes wrappingKey header other) : key = other := by
  rw [← recoveredKey_wrappedBytes wrappingKey header key, h, recoveredKey_wrappedBytes]

/-! ### Authenticators (R68, R138, R212) -/

theorem authenticator_length (wrappingKey : KeyBytes) (covered : List Byte) :
    (authenticator wrappingKey covered).length = 8 := by simp [authenticator]

/-- A change of up to 8 bytes that stand together changes the authenticator, also one of the number of bytes at the front. -/
theorem authenticator_ne {before part changed : List Byte} (wrappingKey : KeyBytes) (after : List Byte) (hp : part.length ≤ 8)
    (hc : changed.length ≤ 8) (h : before = [] ∨ part.length = changed.length)
    (hne : Config.eightBytes part ≠ Config.eightBytes changed) :
    authenticator wrappingKey (before ++ part ++ after) ≠ authenticator wrappingKey (before ++ changed ++ after) :=
  fun he => (Config.authenticator ⟨Config.foldedBytes⟩).detects wrappingKey before part changed after hp hc h hne
    (List.ofFn_injective he)

/-- Whatever way computes 8 bytes, two keys of 16 bytes are wrapped apart and have one authenticator, so that the change of one
wrapped key into the other passes the check: R138 cannot hold of every change (log entry 37). -/
theorem exists_change_that_passes (code : List Byte → Fin 8 → Byte) (wrappingKey : KeyBytes) (header : List Byte) :
    ∃ key other : KeyBytes, key.length = 16 ∧ other.length = 16
      ∧ wrappedBytes wrappingKey header key ≠ wrappedBytes wrappingKey header other
      ∧ code (header ++ wrappedBytes wrappingKey header key) = code (header ++ wrappedBytes wrappingKey header other) := by
  have hcard : Fintype.card Byte = 2 ^ 8 :=
    (Fintype.card_congr ⟨BitVec.toFin, BitVec.ofFin, fun _ => rfl, fun _ => rfl⟩).trans (Fintype.card_fin _)
  obtain ⟨k, l, hne, he⟩ := Fintype.exists_ne_map_eq_of_card_lt
    (fun k : Fin 16 → Byte => code (header ++ wrappedBytes wrappingKey header (List.ofFn k)))
    (by simp [hcard])
  exact ⟨List.ofFn k, List.ofFn l, by simp, by simp,
    fun h => hne (List.ofFn_injective (wrappedBytes_injective h)), he⟩

/-- The check passes exactly for the wraps of a key under the transport key. -/
theorem passes_iff (transport : KeyBytes) (e : BankEnvelope) : e.passes transport = true ↔ Authentic transport e := by
  rw [BankEnvelope.passes, Bool.and_eq_true, beq_iff_eq, beq_iff_eq]
  refine and_congr ⟨fun h => ⟨_, h⟩, ?_⟩ Iff.rfl
  rintro ⟨key, h⟩
  rw [h, recoveredKey_wrappedBytes]

/-! ### The combined key (R138, R142) -/

theorem insertKey_perm (k : KeyBytes) (l : List KeyBytes) : (insertKey k l).Perm (k :: l) := by
  induction l with
  | nil => exact .refl _
  | cons h t ih =>
    rw [insertKey]
    split
    · exact .refl _
    · exact (ih.cons h).trans (.swap k h t)

theorem sortKeys_perm (l : List KeyBytes) : (sortKeys l).Perm l := by
  induction l with
  | nil => exact .refl _
  | cons k t ih => exact (insertKey_perm k _).trans (ih.cons k)

theorem insertKey_sorted (k : KeyBytes) {l : List KeyBytes} (h : l.Pairwise fun a b => beNat a ≤ beNat b) :
    (insertKey k l).Pairwise fun a b => beNat a ≤ beNat b := by
  induction l with
  | nil => simp [insertKey]
  | cons x t ih =>
    rw [List.pairwise_cons] at h
    rw [insertKey]
    split
    · rename_i hk
      refine List.pairwise_cons.2 ⟨fun b hb => ?_, List.pairwise_cons.2 h⟩
      rcases List.mem_cons.1 hb with rfl | hb
      · exact hk
      · exact hk.trans (h.1 b hb)
    · rename_i hk
      refine List.pairwise_cons.2 ⟨fun b hb => ?_, ih h.2⟩
      rcases List.mem_cons.1 ((insertKey_perm k t).mem_iff.1 hb) with rfl | hb
      · omega
      · exact h.1 b hb

/-- The list is in order of value. -/
theorem sortKeys_sorted (l : List KeyBytes) : (sortKeys l).Pairwise fun a b => beNat a ≤ beNat b := by
  induction l with
  | nil => exact .nil
  | cons k t ih => exact insertKey_sorted k ih

/-! ### The journal (R182-R184) -/

/-- A reservation is granted while the occupancy is below 511. -/
theorem requestReservation_granted {h : ResHolder} {s : State} (ho : s.journal.occupancy < 511) :
    requestReservation h s = (true, reserved h s) := by
  simp only [requestReservation, ho, if_true, reserved]
  congr 3
  simp [Journal.occupancy, Journal.plainRecords]
  rfl

/-- A reservation refused sets JOURNAL_HIGH and changes nothing else. -/
theorem requestReservation_refused {h : ResHolder} {s : State} (ho : 511 ≤ s.journal.occupancy) :
    requestReservation h s = (false, s.setFlag .journalHigh) := by
  have h' : ¬s.journal.occupancy < 511 := by omega
  simp only [requestReservation, h', if_false]

/-! ### A granted reservation, field by field -/

@[simp] theorem reserved_journal (h : ResHolder) (s : State) :
    (reserved h s).journal = { s.journal with reservations := s.journal.reservations ++ [h] } := by simp [reserved]
@[simp] theorem reserved_store_slots (h : ResHolder) (s : State) : (reserved h s).store.slots = s.store.slots := by
  simp [reserved]
@[simp] theorem reserved_store_custodians (h : ResHolder) (s : State) : (reserved h s).store.custodians = s.store.custodians := by
  simp [reserved]
@[simp] theorem reserved_store_profile (h : ResHolder) (s : State) : (reserved h s).store.profile = s.store.profile := by
  simp [reserved]
@[simp] theorem reserved_store_registry (h : ResHolder) (s : State) : (reserved h s).store.registry = s.store.registry := by
  simp [reserved]
@[simp] theorem reserved_store_journal (h : ResHolder) (s : State) :
    (reserved h s).store.journal = { s.store.journal with reservations := s.store.journal.reservations ++ [h] } := by
  simp [reserved]; exact ⟨rfl, rfl, rfl⟩
@[simp] theorem reserved_store_steps (h : ResHolder) (s : State) : (reserved h s).store.steps = s.store.steps := by
  simp [reserved]
@[simp] theorem reserved_store_tamperLatch (h : ResHolder) (s : State) : (reserved h s).store.tamperLatch = s.store.tamperLatch := by
  simp [reserved]
theorem reserved_flags (h : ResHolder) (s : State) :
    (reserved h s).flags = if highMark s ≤ s.journal.occupancy + 1 then s.flags ||| 0x008#12 else s.flags := by
  simp [reserved, only_journalHigh]
@[simp] theorem reserved_line (h : ResHolder) (s : State) : (reserved h s).line = s.line := by simp [reserved]
@[simp] theorem reserved_resetCause (h : ResHolder) (s : State) : (reserved h s).resetCause = s.resetCause := by simp [reserved]
@[simp] theorem reserved_stream (h : ResHolder) (s : State) : (reserved h s).stream = s.stream := by simp [reserved]
@[simp] theorem reserved_ceremony (h : ResHolder) (s : State) : (reserved h s).ceremony = s.ceremony := by simp [reserved]
@[simp] theorem reserved_importWork (h : ResHolder) (s : State) : (reserved h s).importWork = s.importWork := by simp [reserved]
@[simp] theorem reserved_engine (h : ResHolder) (s : State) : (reserved h s).engine = s.engine := by simp [reserved]
@[simp] theorem reserved_consoles (h : ResHolder) (s : State) : (reserved h s).consoles = s.consoles := by simp [reserved]
@[simp] theorem reserved_benches (h : ResHolder) (s : State) : (reserved h s).benches = s.benches := by simp [reserved]
@[simp] theorem reserved_outstanding (h : ResHolder) (s : State) : (reserved h s).outstanding = s.outstanding := by simp [reserved]
@[simp] theorem reserved_responses (h : ResHolder) (s : State) : (reserved h s).responses = s.responses := by simp [reserved]
@[simp] theorem reserved_mask (h : ResHolder) (s : State) : (reserved h s).mask = s.mask := by simp [reserved]
@[simp] theorem reserved_frameErrors (h : ResHolder) (s : State) : (reserved h s).frameErrors = s.frameErrors := by simp [reserved]
@[simp] theorem reserved_overruns (h : ResHolder) (s : State) : (reserved h s).overruns = s.overruns := by simp [reserved]
@[simp] theorem reserved_power (h : ResHolder) (s : State) : (reserved h s).power = s.power := by simp [reserved]
@[simp] theorem reserved_resetPin (h : ResHolder) (s : State) : (reserved h s).resetPin = s.resetPin := by simp [reserved]
@[simp] theorem reserved_tamperLine (h : ResHolder) (s : State) : (reserved h s).tamperLine = s.tamperLine := by simp [reserved]
@[simp] theorem reserved_battery (h : ResHolder) (s : State) : (reserved h s).battery = s.battery := by simp [reserved]
@[simp] theorem reserved_powerResetOwed (h : ResHolder) (s : State) : (reserved h s).powerResetOwed = s.powerResetOwed := by simp [reserved]
@[simp] theorem reserved_storeLost (h : ResHolder) (s : State) : (reserved h s).storeLost = s.storeLost := by simp [reserved]
@[simp] theorem reserved_shiftedOut (h : ResHolder) (s : State) : (reserved h s).shiftedOut = s.shiftedOut := by simp [reserved]
@[simp] theorem reserved_freeCount (h : ResHolder) (s : State) : (reserved h s).freeCount = s.freeCount := by simp [reserved]
@[simp] theorem reserved_pending (h : ResHolder) (s : State) : (reserved h s).pending = s.pending := by simp [reserved]
@[simp] theorem reserved_registry (h : ResHolder) (s : State) : (reserved h s).registry = s.registry := by simp [reserved]
@[simp] theorem reserved_profile (h : ResHolder) (s : State) : (reserved h s).profile = s.profile := by simp [reserved]
@[simp] theorem reserved_console (h : ResHolder) (l : ConsoleLink) (s : State) : (reserved h s).console l = s.console l := by simp [reserved]
@[simp] theorem reserved_bench (h : ResHolder) (p : Port) (s : State) : (reserved h s).bench p = s.bench p := by simp [reserved]
@[simp] theorem reserved_ctx (h : ResHolder) (p : Port) (s : State) : (reserved h s).ctx p = s.ctx p := by simp [reserved]
@[simp] theorem reserved_slot (h : ResHolder) (i : SlotIx) (s : State) : (reserved h s).slot i = s.slot i := by simp [reserved]
@[simp] theorem reserved_step (h : ResHolder) (p : Port) (s : State) : (reserved h s).step p = s.step p := by simp [reserved]
@[simp] theorem reserved_custodian (h : ResHolder) (c : Cust) (s : State) : (reserved h s).custodian c = s.custodian c := by simp [reserved]
theorem reserved_highMark (h : ResHolder) (s : State) : highMark (reserved h s) = highMark s := by
  unfold highMark; rw [reserved_profile]
theorem reserved_regionOf (h : ResHolder) (i : SlotIx) (s : State) : regionOf i (reserved h s) = regionOf i s := by
  unfold regionOf; rw [reserved_profile]

/-! ### Messages heard and sent, field by field -/

@[simp] theorem heard_store (l : ConsoleLink) (s : State) : (heard l s).store = s.store := rfl
@[simp] theorem heard_line (l : ConsoleLink) (s : State) : (heard l s).line = s.line := rfl
@[simp] theorem heard_resetCause (l : ConsoleLink) (s : State) : (heard l s).resetCause = s.resetCause := rfl
@[simp] theorem heard_stream (l : ConsoleLink) (s : State) : (heard l s).stream = s.stream := rfl
@[simp] theorem heard_ceremony (l : ConsoleLink) (s : State) : (heard l s).ceremony = s.ceremony := rfl
@[simp] theorem heard_importWork (l : ConsoleLink) (s : State) : (heard l s).importWork = s.importWork := rfl
@[simp] theorem heard_engine (l : ConsoleLink) (s : State) : (heard l s).engine = s.engine := rfl
@[simp] theorem heard_benches (l : ConsoleLink) (s : State) : (heard l s).benches = s.benches := rfl
@[simp] theorem heard_outstanding (l : ConsoleLink) (s : State) : (heard l s).outstanding = s.outstanding := rfl
@[simp] theorem heard_responses (l : ConsoleLink) (s : State) : (heard l s).responses = s.responses := rfl
@[simp] theorem heard_flags (l : ConsoleLink) (s : State) : (heard l s).flags = s.flags := rfl
@[simp] theorem heard_mask (l : ConsoleLink) (s : State) : (heard l s).mask = s.mask := rfl
@[simp] theorem heard_frameErrors (l : ConsoleLink) (s : State) : (heard l s).frameErrors = s.frameErrors := rfl
@[simp] theorem heard_overruns (l : ConsoleLink) (s : State) : (heard l s).overruns = s.overruns := rfl
@[simp] theorem heard_power (l : ConsoleLink) (s : State) : (heard l s).power = s.power := rfl
@[simp] theorem heard_resetPin (l : ConsoleLink) (s : State) : (heard l s).resetPin = s.resetPin := rfl
@[simp] theorem heard_tamperLine (l : ConsoleLink) (s : State) : (heard l s).tamperLine = s.tamperLine := rfl
@[simp] theorem heard_battery (l : ConsoleLink) (s : State) : (heard l s).battery = s.battery := rfl
@[simp] theorem heard_powerResetOwed (l : ConsoleLink) (s : State) : (heard l s).powerResetOwed = s.powerResetOwed := rfl
@[simp] theorem heard_storeLost (l : ConsoleLink) (s : State) : (heard l s).storeLost = s.storeLost := rfl
@[simp] theorem heard_shiftedOut (l : ConsoleLink) (s : State) : (heard l s).shiftedOut = s.shiftedOut := rfl
@[simp] theorem heard_freeCount (l : ConsoleLink) (s : State) : (heard l s).freeCount = s.freeCount := rfl
@[simp] theorem heard_pending (l : ConsoleLink) (s : State) : (heard l s).pending = s.pending := rfl
@[simp] theorem heard_journal (l : ConsoleLink) (s : State) : (heard l s).journal = s.journal := rfl
@[simp] theorem heard_registry (l : ConsoleLink) (s : State) : (heard l s).registry = s.registry := rfl
@[simp] theorem heard_profile (l : ConsoleLink) (s : State) : (heard l s).profile = s.profile := rfl
@[simp] theorem heard_running (l : ConsoleLink) (s : State) : (heard l s).running = s.running := rfl
@[simp] theorem heard_bench (l : ConsoleLink) (q : Port) (s : State) : (heard l s).bench q = s.bench q := rfl
@[simp] theorem heard_ctx (l : ConsoleLink) (q : Port) (s : State) : (heard l s).ctx q = s.ctx q := rfl
@[simp] theorem heard_slot (l : ConsoleLink) (i : SlotIx) (s : State) : (heard l s).slot i = s.slot i := rfl
@[simp] theorem heard_step (l : ConsoleLink) (q : Port) (s : State) : (heard l s).step q = s.step q := rfl
@[simp] theorem heard_custodian (l : ConsoleLink) (c : Cust) (s : State) : (heard l s).custodian c = s.custodian c := rfl
@[simp] theorem told_store (l : ConsoleLink) (kind : Byte) (st : Status) (body : AnswerBody) (s : State) : (told l kind st body s).store = s.store := rfl
@[simp] theorem told_line (l : ConsoleLink) (kind : Byte) (st : Status) (body : AnswerBody) (s : State) : (told l kind st body s).line = s.line := rfl
@[simp] theorem told_resetCause (l : ConsoleLink) (kind : Byte) (st : Status) (body : AnswerBody) (s : State) : (told l kind st body s).resetCause = s.resetCause := rfl
@[simp] theorem told_stream (l : ConsoleLink) (kind : Byte) (st : Status) (body : AnswerBody) (s : State) : (told l kind st body s).stream = s.stream := rfl
@[simp] theorem told_ceremony (l : ConsoleLink) (kind : Byte) (st : Status) (body : AnswerBody) (s : State) : (told l kind st body s).ceremony = s.ceremony := rfl
@[simp] theorem told_importWork (l : ConsoleLink) (kind : Byte) (st : Status) (body : AnswerBody) (s : State) : (told l kind st body s).importWork = s.importWork := rfl
@[simp] theorem told_engine (l : ConsoleLink) (kind : Byte) (st : Status) (body : AnswerBody) (s : State) : (told l kind st body s).engine = s.engine := rfl
@[simp] theorem told_benches (l : ConsoleLink) (kind : Byte) (st : Status) (body : AnswerBody) (s : State) : (told l kind st body s).benches = s.benches := rfl
@[simp] theorem told_outstanding (l : ConsoleLink) (kind : Byte) (st : Status) (body : AnswerBody) (s : State) : (told l kind st body s).outstanding = s.outstanding := rfl
@[simp] theorem told_responses (l : ConsoleLink) (kind : Byte) (st : Status) (body : AnswerBody) (s : State) : (told l kind st body s).responses = s.responses := rfl
@[simp] theorem told_flags (l : ConsoleLink) (kind : Byte) (st : Status) (body : AnswerBody) (s : State) : (told l kind st body s).flags = s.flags := rfl
@[simp] theorem told_mask (l : ConsoleLink) (kind : Byte) (st : Status) (body : AnswerBody) (s : State) : (told l kind st body s).mask = s.mask := rfl
@[simp] theorem told_frameErrors (l : ConsoleLink) (kind : Byte) (st : Status) (body : AnswerBody) (s : State) : (told l kind st body s).frameErrors = s.frameErrors := rfl
@[simp] theorem told_overruns (l : ConsoleLink) (kind : Byte) (st : Status) (body : AnswerBody) (s : State) : (told l kind st body s).overruns = s.overruns := rfl
@[simp] theorem told_power (l : ConsoleLink) (kind : Byte) (st : Status) (body : AnswerBody) (s : State) : (told l kind st body s).power = s.power := rfl
@[simp] theorem told_resetPin (l : ConsoleLink) (kind : Byte) (st : Status) (body : AnswerBody) (s : State) : (told l kind st body s).resetPin = s.resetPin := rfl
@[simp] theorem told_tamperLine (l : ConsoleLink) (kind : Byte) (st : Status) (body : AnswerBody) (s : State) : (told l kind st body s).tamperLine = s.tamperLine := rfl
@[simp] theorem told_battery (l : ConsoleLink) (kind : Byte) (st : Status) (body : AnswerBody) (s : State) : (told l kind st body s).battery = s.battery := rfl
@[simp] theorem told_powerResetOwed (l : ConsoleLink) (kind : Byte) (st : Status) (body : AnswerBody) (s : State) : (told l kind st body s).powerResetOwed = s.powerResetOwed := rfl
@[simp] theorem told_storeLost (l : ConsoleLink) (kind : Byte) (st : Status) (body : AnswerBody) (s : State) : (told l kind st body s).storeLost = s.storeLost := rfl
@[simp] theorem told_shiftedOut (l : ConsoleLink) (kind : Byte) (st : Status) (body : AnswerBody) (s : State) : (told l kind st body s).shiftedOut = s.shiftedOut := rfl
@[simp] theorem told_freeCount (l : ConsoleLink) (kind : Byte) (st : Status) (body : AnswerBody) (s : State) : (told l kind st body s).freeCount = s.freeCount := rfl
@[simp] theorem told_pending (l : ConsoleLink) (kind : Byte) (st : Status) (body : AnswerBody) (s : State) : (told l kind st body s).pending = s.pending := rfl
@[simp] theorem told_journal (l : ConsoleLink) (kind : Byte) (st : Status) (body : AnswerBody) (s : State) : (told l kind st body s).journal = s.journal := rfl
@[simp] theorem told_registry (l : ConsoleLink) (kind : Byte) (st : Status) (body : AnswerBody) (s : State) : (told l kind st body s).registry = s.registry := rfl
@[simp] theorem told_profile (l : ConsoleLink) (kind : Byte) (st : Status) (body : AnswerBody) (s : State) : (told l kind st body s).profile = s.profile := rfl
@[simp] theorem told_running (l : ConsoleLink) (kind : Byte) (st : Status) (body : AnswerBody) (s : State) : (told l kind st body s).running = s.running := rfl
@[simp] theorem told_bench (l : ConsoleLink) (kind : Byte) (st : Status) (body : AnswerBody) (q : Port) (s : State) : (told l kind st body s).bench q = s.bench q := rfl
@[simp] theorem told_ctx (l : ConsoleLink) (kind : Byte) (st : Status) (body : AnswerBody) (q : Port) (s : State) : (told l kind st body s).ctx q = s.ctx q := rfl
@[simp] theorem told_slot (l : ConsoleLink) (kind : Byte) (st : Status) (body : AnswerBody) (i : SlotIx) (s : State) : (told l kind st body s).slot i = s.slot i := rfl
@[simp] theorem told_step (l : ConsoleLink) (kind : Byte) (st : Status) (body : AnswerBody) (q : Port) (s : State) : (told l kind st body s).step q = s.step q := rfl
@[simp] theorem told_custodian (l : ConsoleLink) (kind : Byte) (st : Status) (body : AnswerBody) (c : Cust) (s : State) : (told l kind st body s).custodian c = s.custodian c := rfl
@[simp] theorem heardAt_store (p : Port) (s : State) : (heardAt p s).store = s.store := rfl
@[simp] theorem heardAt_line (p : Port) (s : State) : (heardAt p s).line = s.line := rfl
@[simp] theorem heardAt_resetCause (p : Port) (s : State) : (heardAt p s).resetCause = s.resetCause := rfl
@[simp] theorem heardAt_stream (p : Port) (s : State) : (heardAt p s).stream = s.stream := rfl
@[simp] theorem heardAt_ceremony (p : Port) (s : State) : (heardAt p s).ceremony = s.ceremony := rfl
@[simp] theorem heardAt_importWork (p : Port) (s : State) : (heardAt p s).importWork = s.importWork := rfl
@[simp] theorem heardAt_engine (p : Port) (s : State) : (heardAt p s).engine = s.engine := rfl
@[simp] theorem heardAt_consoles (p : Port) (s : State) : (heardAt p s).consoles = s.consoles := rfl
@[simp] theorem heardAt_outstanding (p : Port) (s : State) : (heardAt p s).outstanding = s.outstanding := rfl
@[simp] theorem heardAt_responses (p : Port) (s : State) : (heardAt p s).responses = s.responses := rfl
@[simp] theorem heardAt_flags (p : Port) (s : State) : (heardAt p s).flags = s.flags := rfl
@[simp] theorem heardAt_mask (p : Port) (s : State) : (heardAt p s).mask = s.mask := rfl
@[simp] theorem heardAt_frameErrors (p : Port) (s : State) : (heardAt p s).frameErrors = s.frameErrors := rfl
@[simp] theorem heardAt_overruns (p : Port) (s : State) : (heardAt p s).overruns = s.overruns := rfl
@[simp] theorem heardAt_power (p : Port) (s : State) : (heardAt p s).power = s.power := rfl
@[simp] theorem heardAt_resetPin (p : Port) (s : State) : (heardAt p s).resetPin = s.resetPin := rfl
@[simp] theorem heardAt_tamperLine (p : Port) (s : State) : (heardAt p s).tamperLine = s.tamperLine := rfl
@[simp] theorem heardAt_battery (p : Port) (s : State) : (heardAt p s).battery = s.battery := rfl
@[simp] theorem heardAt_powerResetOwed (p : Port) (s : State) : (heardAt p s).powerResetOwed = s.powerResetOwed := rfl
@[simp] theorem heardAt_storeLost (p : Port) (s : State) : (heardAt p s).storeLost = s.storeLost := rfl
@[simp] theorem heardAt_shiftedOut (p : Port) (s : State) : (heardAt p s).shiftedOut = s.shiftedOut := rfl
@[simp] theorem heardAt_freeCount (p : Port) (s : State) : (heardAt p s).freeCount = s.freeCount := rfl
@[simp] theorem heardAt_pending (p : Port) (s : State) : (heardAt p s).pending = s.pending := rfl
@[simp] theorem heardAt_journal (p : Port) (s : State) : (heardAt p s).journal = s.journal := rfl
@[simp] theorem heardAt_registry (p : Port) (s : State) : (heardAt p s).registry = s.registry := rfl
@[simp] theorem heardAt_profile (p : Port) (s : State) : (heardAt p s).profile = s.profile := rfl
@[simp] theorem heardAt_running (p : Port) (s : State) : (heardAt p s).running = s.running := rfl
@[simp] theorem heardAt_console (p : Port) (k : ConsoleLink) (s : State) : (heardAt p s).console k = s.console k := rfl
@[simp] theorem heardAt_slot (p : Port) (i : SlotIx) (s : State) : (heardAt p s).slot i = s.slot i := rfl
@[simp] theorem heardAt_step (p : Port) (q : Port) (s : State) : (heardAt p s).step q = s.step q := rfl
@[simp] theorem heardAt_custodian (p : Port) (c : Cust) (s : State) : (heardAt p s).custodian c = s.custodian c := rfl
@[simp] theorem sentTo_store (p : Port) (m : BenchOut) (s : State) : (sentTo p m s).store = s.store := rfl
@[simp] theorem sentTo_line (p : Port) (m : BenchOut) (s : State) : (sentTo p m s).line = s.line := rfl
@[simp] theorem sentTo_resetCause (p : Port) (m : BenchOut) (s : State) : (sentTo p m s).resetCause = s.resetCause := rfl
@[simp] theorem sentTo_stream (p : Port) (m : BenchOut) (s : State) : (sentTo p m s).stream = s.stream := rfl
@[simp] theorem sentTo_ceremony (p : Port) (m : BenchOut) (s : State) : (sentTo p m s).ceremony = s.ceremony := rfl
@[simp] theorem sentTo_importWork (p : Port) (m : BenchOut) (s : State) : (sentTo p m s).importWork = s.importWork := rfl
@[simp] theorem sentTo_engine (p : Port) (m : BenchOut) (s : State) : (sentTo p m s).engine = s.engine := rfl
@[simp] theorem sentTo_consoles (p : Port) (m : BenchOut) (s : State) : (sentTo p m s).consoles = s.consoles := rfl
@[simp] theorem sentTo_outstanding (p : Port) (m : BenchOut) (s : State) : (sentTo p m s).outstanding = s.outstanding := rfl
@[simp] theorem sentTo_responses (p : Port) (m : BenchOut) (s : State) : (sentTo p m s).responses = s.responses := rfl
@[simp] theorem sentTo_flags (p : Port) (m : BenchOut) (s : State) : (sentTo p m s).flags = s.flags := rfl
@[simp] theorem sentTo_mask (p : Port) (m : BenchOut) (s : State) : (sentTo p m s).mask = s.mask := rfl
@[simp] theorem sentTo_frameErrors (p : Port) (m : BenchOut) (s : State) : (sentTo p m s).frameErrors = s.frameErrors := rfl
@[simp] theorem sentTo_overruns (p : Port) (m : BenchOut) (s : State) : (sentTo p m s).overruns = s.overruns := rfl
@[simp] theorem sentTo_power (p : Port) (m : BenchOut) (s : State) : (sentTo p m s).power = s.power := rfl
@[simp] theorem sentTo_resetPin (p : Port) (m : BenchOut) (s : State) : (sentTo p m s).resetPin = s.resetPin := rfl
@[simp] theorem sentTo_tamperLine (p : Port) (m : BenchOut) (s : State) : (sentTo p m s).tamperLine = s.tamperLine := rfl
@[simp] theorem sentTo_battery (p : Port) (m : BenchOut) (s : State) : (sentTo p m s).battery = s.battery := rfl
@[simp] theorem sentTo_powerResetOwed (p : Port) (m : BenchOut) (s : State) : (sentTo p m s).powerResetOwed = s.powerResetOwed := rfl
@[simp] theorem sentTo_storeLost (p : Port) (m : BenchOut) (s : State) : (sentTo p m s).storeLost = s.storeLost := rfl
@[simp] theorem sentTo_shiftedOut (p : Port) (m : BenchOut) (s : State) : (sentTo p m s).shiftedOut = s.shiftedOut := rfl
@[simp] theorem sentTo_freeCount (p : Port) (m : BenchOut) (s : State) : (sentTo p m s).freeCount = s.freeCount := rfl
@[simp] theorem sentTo_pending (p : Port) (m : BenchOut) (s : State) : (sentTo p m s).pending = s.pending := rfl
@[simp] theorem sentTo_journal (p : Port) (m : BenchOut) (s : State) : (sentTo p m s).journal = s.journal := rfl
@[simp] theorem sentTo_registry (p : Port) (m : BenchOut) (s : State) : (sentTo p m s).registry = s.registry := rfl
@[simp] theorem sentTo_profile (p : Port) (m : BenchOut) (s : State) : (sentTo p m s).profile = s.profile := rfl
@[simp] theorem sentTo_running (p : Port) (m : BenchOut) (s : State) : (sentTo p m s).running = s.running := rfl
@[simp] theorem sentTo_console (p : Port) (m : BenchOut) (k : ConsoleLink) (s : State) : (sentTo p m s).console k = s.console k := rfl
@[simp] theorem sentTo_slot (p : Port) (m : BenchOut) (i : SlotIx) (s : State) : (sentTo p m s).slot i = s.slot i := rfl
@[simp] theorem sentTo_step (p : Port) (m : BenchOut) (q : Port) (s : State) : (sentTo p m s).step q = s.step q := rfl
@[simp] theorem sentTo_custodian (p : Port) (m : BenchOut) (c : Cust) (s : State) : (sentTo p m s).custodian c = s.custodian c := rfl

/-! ### Messages (R26, R32, R150, R170, R199-R201) -/

theorem answer_of_present {l : ConsoleLink} {kind : Byte} {st : Status} {body : AnswerBody} {s : State}
    (h : (s.console l).present = true) : answer l kind st body s = told l kind st body s := by
  simp [answer, pushConsole, h, told]

theorem answer_of_absent {l : ConsoleLink} {kind : Byte} {st : Status} {body : AnswerBody} {s : State}
    (h : (s.console l).present = false) : answer l kind st body s = s := by simp [answer, pushConsole, h]

theorem verdict_of_present {p : Port} {st : Status} {s : State} (h : (s.bench p).present = true) :
    verdict p st s = verdictTo p st s := by simp [verdict, pushBench, h, verdictTo, sentTo]

theorem pushBench_of_present {p : Port} {m : BenchOut} {s : State} (h : (s.bench p).present = true) :
    pushBench p m s = sentTo p m s := by simp [pushBench, h, sentTo]

@[simp] theorem heard_console_self (l : ConsoleLink) (s : State) :
    (heard l s).console l =
      { s.console l with
        rx := .idle
        logon := (s.console l).logon.map fun g => { g with idle := { count := 0, limit := custodianIdleLimit s } } } := by
  simp [heard]

theorem restartCustodianIdle_idle {l : ConsoleLink} {s : State} :
    restartCustodianIdle l (setReceiver (.console l) .idle s) = heard l s := by
  have hl : custodianIdleLimit (setReceiver (.console l) .idle s) = custodianIdleLimit s := rfl
  unfold restartCustodianIdle
  simp only [hl]
  cases h : (s.console l).logon with
  | none => simp [setReceiver, heard, h]
  | some g => simp [setReceiver, heard, h]

/-- A message on a link with no unanswered request is handed to its meaning. -/
theorem consoleMessage_of_listens {l : ConsoleLink} {kind : Byte} {h : State → State} {s : State} (hs : Listens l s) :
    consoleMessage l kind h s = h (heard l s) := by
  obtain ⟨⟨hr, hp, hd⟩, hu⟩ := hs
  have hp' : ((setReceiver (.console l) .idle s).console l).present = true := by simp [setReceiver, hp]
  have hd' : ¬4 ≤ ((setReceiver (.console l) .idle s).console l).answersDue := by
    simp [setReceiver, Console.answersDue] at hd ⊢; omega
  have hu' : ((heard l s).console l).unanswered = false := by simp [hu]
  simp only [consoleMessage, hr, hp', hd', restartCustodianIdle_idle, hu']
  simp

theorem personOf_heard (c : Cust) (l : ConsoleLink) (s : State) : personOf c (heard l s) = personOf c s := rfl

/-- A message of a logged-on custodian is handed to its meaning with its sender. -/
theorem consoleMessageFrom_of_loggedOn {l : ConsoleLink} {who : Cust} {kind : Byte} {h : Person → State → State}
    {s : State} (hs : Listens l s) (hw : LoggedOn l who s) :
    consoleMessageFrom l kind h s = h (personOf who s) (heard l s) := by
  unfold consoleMessageFrom
  rw [consoleMessage_of_listens hs]
  simp only [heard_console_self]
  unfold LoggedOn at hw
  cases hg : (s.console l).logon with
  | none => simp [hg] at hw
  | some g =>
    have : g.who = who := by simpa [hg] using hw
    simp [this, personOf_heard]

/-- A context as its port's record holds it. -/
theorem bench_ctx (p : Port) (s : State) : (s.bench p).ctx = s.ctx p := rfl

@[simp] theorem heardAt_bench_self (p : Port) (s : State) :
    (heardAt p s).bench p = { s.bench p with rx := .idle, ctx := restarted (sessionTimer s) (s.ctx p) } := by
  simp [heardAt]

@[simp] theorem heardAt_ctx_self (p : Port) (s : State) :
    (heardAt p s).ctx p = restarted (sessionTimer s) (s.ctx p) := by
  simp [State.ctx]

theorem restartSessionIdle_idle {p : Port} {s : State} :
    restartSessionIdle p (setReceiver (.bench p) .idle s) = heardAt p s := by
  have hl : sessionTimer (setReceiver (.bench p) .idle s) = sessionTimer s := rfl
  have hc : (setReceiver (.bench p) .idle s).ctx p = s.ctx p := by simp [setReceiver, State.ctx]
  unfold restartSessionIdle
  simp only [hl, hc]
  cases h : s.ctx p <;> simp [setReceiver, heardAt, restarted, bench_ctx, h]

/-- A bench message that is taken is handed to its meaning. -/
theorem benchMessage_of_hears {p : Port} {h : State → State} {s : State} (hs : Hears p s) :
    benchMessage p h s = h (heardAt p s) := by
  obtain ⟨hr, hp, hd, ht⟩ := hs
  have hp' : ((setReceiver (.bench p) .idle s).bench p).present = true := by simp [setReceiver, hp]
  have hd' : ¬4 ≤ ((setReceiver (.bench p) .idle s).bench p).answersDue := by
    simp [setReceiver, Bench.answersDue] at hd ⊢; omega
  have ht' : ((setReceiver (.bench p) .idle s).bench p).ctx.takesMessages = true := by
    simp [setReceiver, bench_ctx, ht]
  simp only [benchMessage, hr, hp', hd', ht', restartSessionIdle_idle]
  simp

/-- A bench message that is not taken is discarded; the receiver is IDLE. -/
theorem benchMessage_discarded {p : Port} {h : State → State} {s : State} (hr : s.running = true)
    (hx : (s.bench p).present = false ∨ 4 ≤ (s.bench p).answersDue ∨ s.ctx p = .off ∨ s.ctx p = .vacant) :
    benchMessage p h s = s.setBench p { s.bench p with rx := .idle } := by
  have hb : (setReceiver (.bench p) .idle s) = s.setBench p { s.bench p with rx := .idle } := rfl
  simp only [benchMessage, hr, Bool.not_true, Bool.false_eq_true, ↓reduceIte, hb, State.bench_setBench_self]
  rw [if_pos]
  rcases hx with h | h | h | h
  · simp [h]
  · simp [Bench.answersDue] at h ⊢; simp [h]
  · simp [bench_ctx, h, PortContext.takesMessages]
  · simp [bench_ctx, h, PortContext.takesMessages]

theorem heardAt_present {p : Port} {s : State} (h : Hears p s) : ((heardAt p s).bench p).present = true := by
  simp [h.2.1]

theorem heard_present {l : ConsoleLink} {s : State} (h : Takes l s) : ((heard l s).console l).present = true := by
  simp [h.2.1]

/-- A console message that is not taken is discarded; the receiver is IDLE. -/
theorem consoleMessage_discarded {l : ConsoleLink} {kind : Byte} {h : State → State} {s : State} (hr : s.running = true)
    (hx : (s.console l).present = false ∨ 4 ≤ (s.console l).answersDue) :
    consoleMessage l kind h s = s.setConsole l { s.console l with rx := .idle } := by
  have hb : (setReceiver (.console l) .idle s) = s.setConsole l { s.console l with rx := .idle } := rfl
  simp only [consoleMessage, hr, Bool.not_true, Bool.false_eq_true, ↓reduceIte, hb, State.console_setConsole_self]
  rw [if_pos]
  rcases hx with h | h
  · simp [h]
  · simp [Console.answersDue] at h ⊢; simp [h]

/-- A message on a link with an unanswered request is answered BUSY. -/
theorem consoleMessage_busy {l : ConsoleLink} {kind : Byte} {h : State → State} {s : State} (hs : Takes l s)
    (hu : (s.console l).unanswered = true) : consoleMessage l kind h s = told l kind .busy .nothing (heard l s) := by
  have hp' := heard_present hs
  obtain ⟨hr, hp, hd⟩ := hs
  have hp'' : ((setReceiver (.console l) .idle s).console l).present = true := by simp [setReceiver, hp]
  have hd' : ¬4 ≤ ((setReceiver (.console l) .idle s).console l).answersDue := by
    simp [setReceiver, Console.answersDue] at hd ⊢; omega
  have hu' : ((heard l s).console l).unanswered = true := by simp [hu]
  simp only [consoleMessage, hr, hp'', hd', restartCustodianIdle_idle, hu', answer_of_present hp']
  simp

/-- A message that needs a logged-on custodian, on a link that has none. -/
theorem consoleMessageFrom_notLoggedOn {l : ConsoleLink} {kind : Byte} {h : Person → State → State} {s : State}
    (hs : Listens l s) (hl : (s.console l).logon = none) :
    consoleMessageFrom l kind h s = told l kind .notLoggedOn .nothing (heard l s) := by
  have hp := heard_present hs.1
  unfold consoleMessageFrom
  rw [consoleMessage_of_listens hs]
  simp only [heard_console_self, hl, answer_of_present hp, Option.map_none]

/-! ### The port table (R85) -/

/-- A new port table sets every context and changes nothing else. -/
theorem applyPortTable_spec (ports : Tab PortEntry 8) (s : State) :
    { applyPortTable ports s with benches := s.benches } = s
      ∧ ∀ p, (applyPortTable ports s).bench p = { s.bench p with ctx := contextUnder (ports.get p) (s.bench p) } := by
  have key : ∀ (l : List Port), l.Nodup → ∀ (s : State),
      let t := l.foldl (fun s p => s.setCtx p (contextUnder (ports.get p) (s.bench p))) s
      { t with benches := s.benches } = s
        ∧ ∀ p, t.bench p =
          if p ∈ l then { s.bench p with ctx := contextUnder (ports.get p) (s.bench p) } else s.bench p := by
    intro l
    induction l with
    | nil => intro _ s; exact ⟨rfl, by simp⟩
    | cons q l ih =>
      intro hn s
      rw [List.nodup_cons] at hn
      obtain ⟨h1, h2⟩ := ih hn.2 (s.setCtx q (contextUnder (ports.get q) (s.bench q)))
      refine ⟨?_, fun p => ?_⟩
      · exact congrArg (fun t : State => { t with benches := s.benches }) h1
      · rw [List.foldl_cons, h2 p]
        by_cases hp : p = q
        · subst hp; simp [hn.1, State.setCtx]
        · have : q ≠ p := fun h => hp h.symm
          simp [hp, State.setCtx, State.bench_setBench, this]
  have hall := key allPorts (by decide) s
  refine ⟨hall.1, fun p => ?_⟩
  have h2 := hall.2 p
  rwa [if_pos (by fin_cases p <;> simp [allPorts])] at h2

end Sys2Proof.Machine
end

