-- ==== Sys2Proof/Laws/Frames.lean ====
section
/-! SUPPORT. What each shared operation leaves unchanged: for each operation one lemma that names the fields it may change, and
one that reads every other field (simp takes each of its equations as a rule of its own). -/

namespace Sys2Proof.Machine

/-- `pushConsole` changes at most consoles. -/
theorem pushConsole_frame (l : ConsoleLink) (m : ConsoleOut) (s : State) :
    pushConsole l m s = { s with
      consoles := (pushConsole l m s).consoles } := by
  unfold pushConsole; simp only []; split <;> rfl

@[simp] theorem pushConsole_keeps (l : ConsoleLink) (m : ConsoleOut) (s : State) :
    (pushConsole l m s).store.slots = s.store.slots ∧ (pushConsole l m s).store.custodians = s.store.custodians
      ∧ (pushConsole l m s).store.profile = s.store.profile ∧ (pushConsole l m s).store.registry = s.store.registry
      ∧ (pushConsole l m s).store.journal = s.store.journal ∧ (pushConsole l m s).store.steps = s.store.steps
      ∧ (pushConsole l m s).store.tamperLatch = s.store.tamperLatch ∧ (pushConsole l m s).line = s.line
      ∧ (pushConsole l m s).resetCause = s.resetCause ∧ (pushConsole l m s).stream = s.stream
      ∧ (pushConsole l m s).ceremony = s.ceremony ∧ (pushConsole l m s).importWork = s.importWork
      ∧ (pushConsole l m s).engine = s.engine ∧ (pushConsole l m s).benches = s.benches
      ∧ (pushConsole l m s).outstanding = s.outstanding ∧ (pushConsole l m s).responses = s.responses
      ∧ (pushConsole l m s).flags = s.flags ∧ (pushConsole l m s).mask = s.mask
      ∧ (pushConsole l m s).frameErrors = s.frameErrors ∧ (pushConsole l m s).overruns = s.overruns
      ∧ (pushConsole l m s).power = s.power ∧ (pushConsole l m s).resetPin = s.resetPin
      ∧ (pushConsole l m s).tamperLine = s.tamperLine ∧ (pushConsole l m s).battery = s.battery
      ∧ (pushConsole l m s).powerResetOwed = s.powerResetOwed ∧ (pushConsole l m s).storeLost = s.storeLost
      ∧ (pushConsole l m s).shiftedOut = s.shiftedOut ∧ (pushConsole l m s).freeCount = s.freeCount
      ∧ (pushConsole l m s).pending = s.pending ∧ (pushConsole l m s).journal = s.journal
      ∧ (pushConsole l m s).registry = s.registry ∧ (pushConsole l m s).profile = s.profile
      ∧ (pushConsole l m s).running = s.running ∧ (∀ q, (pushConsole l m s).bench q = s.bench q)
      ∧ (∀ q, (pushConsole l m s).ctx q = s.ctx q) ∧ (∀ j, (pushConsole l m s).slot j = s.slot j)
      ∧ (∀ q, (pushConsole l m s).step q = s.step q) ∧ (∀ cu, (pushConsole l m s).custodian cu = s.custodian cu) := by
  have h := pushConsole_frame l m s
  exact ⟨(congrArg (fun x => x.store.slots) h :), (congrArg (fun x => x.store.custodians) h :),
    (congrArg (fun x => x.store.profile) h :), (congrArg (fun x => x.store.registry) h :),
    (congrArg (fun x => x.store.journal) h :), (congrArg (fun x => x.store.steps) h :),
    (congrArg (fun x => x.store.tamperLatch) h :), (congrArg State.line h :), (congrArg State.resetCause h :),
    (congrArg State.stream h :), (congrArg State.ceremony h :), (congrArg State.importWork h :),
    (congrArg State.engine h :), (congrArg State.benches h :), (congrArg State.outstanding h :),
    (congrArg State.responses h :), (congrArg State.flags h :), (congrArg State.mask h :),
    (congrArg State.frameErrors h :), (congrArg State.overruns h :), (congrArg State.power h :),
    (congrArg State.resetPin h :), (congrArg State.tamperLine h :), (congrArg State.battery h :),
    (congrArg State.powerResetOwed h :), (congrArg State.storeLost h :), (congrArg State.shiftedOut h :),
    (congrArg State.freeCount h :), (congrArg State.pending h :), (congrArg State.journal h :),
    (congrArg State.registry h :), (congrArg State.profile h :), (congrArg State.running h :),
    fun q => (congrArg (State.bench q) h :), fun q => (congrArg (State.ctx q) h :),
    fun j => (congrArg (State.slot j) h :), fun q => (congrArg (State.step q) h :),
    fun cu => (congrArg (State.custodian cu) h :)⟩

/-- `answer` changes at most consoles. -/
theorem answer_frame (l : ConsoleLink) (kind : Byte) (st : Status) (body : AnswerBody) (s : State) :
    answer l kind st body s = { s with
      consoles := (answer l kind st body s).consoles } := by
  apply State.eq_of_fields <;> first | rfl | (simp [answer])

@[simp] theorem answer_keeps (l : ConsoleLink) (kind : Byte) (st : Status) (body : AnswerBody) (s : State) :
    (answer l kind st body s).store.slots = s.store.slots
      ∧ (answer l kind st body s).store.custodians = s.store.custodians
      ∧ (answer l kind st body s).store.profile = s.store.profile
      ∧ (answer l kind st body s).store.registry = s.store.registry
      ∧ (answer l kind st body s).store.journal = s.store.journal
      ∧ (answer l kind st body s).store.steps = s.store.steps
      ∧ (answer l kind st body s).store.tamperLatch = s.store.tamperLatch ∧ (answer l kind st body s).line = s.line
      ∧ (answer l kind st body s).resetCause = s.resetCause ∧ (answer l kind st body s).stream = s.stream
      ∧ (answer l kind st body s).ceremony = s.ceremony ∧ (answer l kind st body s).importWork = s.importWork
      ∧ (answer l kind st body s).engine = s.engine ∧ (answer l kind st body s).benches = s.benches
      ∧ (answer l kind st body s).outstanding = s.outstanding ∧ (answer l kind st body s).responses = s.responses
      ∧ (answer l kind st body s).flags = s.flags ∧ (answer l kind st body s).mask = s.mask
      ∧ (answer l kind st body s).frameErrors = s.frameErrors ∧ (answer l kind st body s).overruns = s.overruns
      ∧ (answer l kind st body s).power = s.power ∧ (answer l kind st body s).resetPin = s.resetPin
      ∧ (answer l kind st body s).tamperLine = s.tamperLine ∧ (answer l kind st body s).battery = s.battery
      ∧ (answer l kind st body s).powerResetOwed = s.powerResetOwed
      ∧ (answer l kind st body s).storeLost = s.storeLost ∧ (answer l kind st body s).shiftedOut = s.shiftedOut
      ∧ (answer l kind st body s).freeCount = s.freeCount ∧ (answer l kind st body s).pending = s.pending
      ∧ (answer l kind st body s).journal = s.journal ∧ (answer l kind st body s).registry = s.registry
      ∧ (answer l kind st body s).profile = s.profile ∧ (answer l kind st body s).running = s.running
      ∧ (∀ q, (answer l kind st body s).bench q = s.bench q) ∧ (∀ q, (answer l kind st body s).ctx q = s.ctx q)
      ∧ (∀ j, (answer l kind st body s).slot j = s.slot j) ∧ (∀ q, (answer l kind st body s).step q = s.step q)
      ∧ (∀ cu, (answer l kind st body s).custodian cu = s.custodian cu) := by
  have h := answer_frame l kind st body s
  exact ⟨(congrArg (fun x => x.store.slots) h :), (congrArg (fun x => x.store.custodians) h :),
    (congrArg (fun x => x.store.profile) h :), (congrArg (fun x => x.store.registry) h :),
    (congrArg (fun x => x.store.journal) h :), (congrArg (fun x => x.store.steps) h :),
    (congrArg (fun x => x.store.tamperLatch) h :), (congrArg State.line h :), (congrArg State.resetCause h :),
    (congrArg State.stream h :), (congrArg State.ceremony h :), (congrArg State.importWork h :),
    (congrArg State.engine h :), (congrArg State.benches h :), (congrArg State.outstanding h :),
    (congrArg State.responses h :), (congrArg State.flags h :), (congrArg State.mask h :),
    (congrArg State.frameErrors h :), (congrArg State.overruns h :), (congrArg State.power h :),
    (congrArg State.resetPin h :), (congrArg State.tamperLine h :), (congrArg State.battery h :),
    (congrArg State.powerResetOwed h :), (congrArg State.storeLost h :), (congrArg State.shiftedOut h :),
    (congrArg State.freeCount h :), (congrArg State.pending h :), (congrArg State.journal h :),
    (congrArg State.registry h :), (congrArg State.profile h :), (congrArg State.running h :),
    fun q => (congrArg (State.bench q) h :), fun q => (congrArg (State.ctx q) h :),
    fun j => (congrArg (State.slot j) h :), fun q => (congrArg (State.step q) h :),
    fun cu => (congrArg (State.custodian cu) h :)⟩

/-- `noticeAll` changes at most consoles. -/
theorem noticeAll_frame (n : Notice) (s : State) :
    noticeAll n s = { s with
      consoles := (noticeAll n s).consoles } := by
  apply State.eq_of_fields <;> first | rfl | (simp [noticeAll])

@[simp] theorem noticeAll_keeps (n : Notice) (s : State) :
    (noticeAll n s).store.slots = s.store.slots ∧ (noticeAll n s).store.custodians = s.store.custodians
      ∧ (noticeAll n s).store.profile = s.store.profile ∧ (noticeAll n s).store.registry = s.store.registry
      ∧ (noticeAll n s).store.journal = s.store.journal ∧ (noticeAll n s).store.steps = s.store.steps
      ∧ (noticeAll n s).store.tamperLatch = s.store.tamperLatch ∧ (noticeAll n s).line = s.line
      ∧ (noticeAll n s).resetCause = s.resetCause ∧ (noticeAll n s).stream = s.stream
      ∧ (noticeAll n s).ceremony = s.ceremony ∧ (noticeAll n s).importWork = s.importWork
      ∧ (noticeAll n s).engine = s.engine ∧ (noticeAll n s).benches = s.benches
      ∧ (noticeAll n s).outstanding = s.outstanding ∧ (noticeAll n s).responses = s.responses
      ∧ (noticeAll n s).flags = s.flags ∧ (noticeAll n s).mask = s.mask ∧ (noticeAll n s).frameErrors = s.frameErrors
      ∧ (noticeAll n s).overruns = s.overruns ∧ (noticeAll n s).power = s.power
      ∧ (noticeAll n s).resetPin = s.resetPin ∧ (noticeAll n s).tamperLine = s.tamperLine
      ∧ (noticeAll n s).battery = s.battery ∧ (noticeAll n s).powerResetOwed = s.powerResetOwed
      ∧ (noticeAll n s).storeLost = s.storeLost ∧ (noticeAll n s).shiftedOut = s.shiftedOut
      ∧ (noticeAll n s).freeCount = s.freeCount ∧ (noticeAll n s).pending = s.pending
      ∧ (noticeAll n s).journal = s.journal ∧ (noticeAll n s).registry = s.registry
      ∧ (noticeAll n s).profile = s.profile ∧ (noticeAll n s).running = s.running
      ∧ (∀ q, (noticeAll n s).bench q = s.bench q) ∧ (∀ q, (noticeAll n s).ctx q = s.ctx q)
      ∧ (∀ j, (noticeAll n s).slot j = s.slot j) ∧ (∀ q, (noticeAll n s).step q = s.step q)
      ∧ (∀ cu, (noticeAll n s).custodian cu = s.custodian cu) := by
  have h := noticeAll_frame n s
  exact ⟨(congrArg (fun x => x.store.slots) h :), (congrArg (fun x => x.store.custodians) h :),
    (congrArg (fun x => x.store.profile) h :), (congrArg (fun x => x.store.registry) h :),
    (congrArg (fun x => x.store.journal) h :), (congrArg (fun x => x.store.steps) h :),
    (congrArg (fun x => x.store.tamperLatch) h :), (congrArg State.line h :), (congrArg State.resetCause h :),
    (congrArg State.stream h :), (congrArg State.ceremony h :), (congrArg State.importWork h :),
    (congrArg State.engine h :), (congrArg State.benches h :), (congrArg State.outstanding h :),
    (congrArg State.responses h :), (congrArg State.flags h :), (congrArg State.mask h :),
    (congrArg State.frameErrors h :), (congrArg State.overruns h :), (congrArg State.power h :),
    (congrArg State.resetPin h :), (congrArg State.tamperLine h :), (congrArg State.battery h :),
    (congrArg State.powerResetOwed h :), (congrArg State.storeLost h :), (congrArg State.shiftedOut h :),
    (congrArg State.freeCount h :), (congrArg State.pending h :), (congrArg State.journal h :),
    (congrArg State.registry h :), (congrArg State.profile h :), (congrArg State.running h :),
    fun q => (congrArg (State.bench q) h :), fun q => (congrArg (State.ctx q) h :),
    fun j => (congrArg (State.slot j) h :), fun q => (congrArg (State.step q) h :),
    fun cu => (congrArg (State.custodian cu) h :)⟩

/-- `answerWithheld` changes at most consoles. -/
theorem answerWithheld_frame (l : ConsoleLink) (st : Status) (body : AnswerBody) (s : State) :
    answerWithheld l st body s = { s with
      consoles := (answerWithheld l st body s).consoles } := by
  apply State.eq_of_fields <;> first | rfl | (unfold answerWithheld; split <;> simp)

@[simp] theorem answerWithheld_keeps (l : ConsoleLink) (st : Status) (body : AnswerBody) (s : State) :
    (answerWithheld l st body s).store.slots = s.store.slots
      ∧ (answerWithheld l st body s).store.custodians = s.store.custodians
      ∧ (answerWithheld l st body s).store.profile = s.store.profile
      ∧ (answerWithheld l st body s).store.registry = s.store.registry
      ∧ (answerWithheld l st body s).store.journal = s.store.journal
      ∧ (answerWithheld l st body s).store.steps = s.store.steps
      ∧ (answerWithheld l st body s).store.tamperLatch = s.store.tamperLatch
      ∧ (answerWithheld l st body s).line = s.line ∧ (answerWithheld l st body s).resetCause = s.resetCause
      ∧ (answerWithheld l st body s).stream = s.stream ∧ (answerWithheld l st body s).ceremony = s.ceremony
      ∧ (answerWithheld l st body s).importWork = s.importWork ∧ (answerWithheld l st body s).engine = s.engine
      ∧ (answerWithheld l st body s).benches = s.benches ∧ (answerWithheld l st body s).outstanding = s.outstanding
      ∧ (answerWithheld l st body s).responses = s.responses ∧ (answerWithheld l st body s).flags = s.flags
      ∧ (answerWithheld l st body s).mask = s.mask ∧ (answerWithheld l st body s).frameErrors = s.frameErrors
      ∧ (answerWithheld l st body s).overruns = s.overruns ∧ (answerWithheld l st body s).power = s.power
      ∧ (answerWithheld l st body s).resetPin = s.resetPin ∧ (answerWithheld l st body s).tamperLine = s.tamperLine
      ∧ (answerWithheld l st body s).battery = s.battery
      ∧ (answerWithheld l st body s).powerResetOwed = s.powerResetOwed
      ∧ (answerWithheld l st body s).storeLost = s.storeLost ∧ (answerWithheld l st body s).shiftedOut = s.shiftedOut
      ∧ (answerWithheld l st body s).freeCount = s.freeCount ∧ (answerWithheld l st body s).pending = s.pending
      ∧ (answerWithheld l st body s).journal = s.journal ∧ (answerWithheld l st body s).registry = s.registry
      ∧ (answerWithheld l st body s).profile = s.profile ∧ (answerWithheld l st body s).running = s.running
      ∧ (∀ q, (answerWithheld l st body s).bench q = s.bench q) ∧ (∀ q, (answerWithheld l st body s).ctx q = s.ctx q)
      ∧ (∀ j, (answerWithheld l st body s).slot j = s.slot j) ∧ (∀ q, (answerWithheld l st body s).step q = s.step q)
      ∧ (∀ cu, (answerWithheld l st body s).custodian cu = s.custodian cu) := by
  have h := answerWithheld_frame l st body s
  exact ⟨(congrArg (fun x => x.store.slots) h :), (congrArg (fun x => x.store.custodians) h :),
    (congrArg (fun x => x.store.profile) h :), (congrArg (fun x => x.store.registry) h :),
    (congrArg (fun x => x.store.journal) h :), (congrArg (fun x => x.store.steps) h :),
    (congrArg (fun x => x.store.tamperLatch) h :), (congrArg State.line h :), (congrArg State.resetCause h :),
    (congrArg State.stream h :), (congrArg State.ceremony h :), (congrArg State.importWork h :),
    (congrArg State.engine h :), (congrArg State.benches h :), (congrArg State.outstanding h :),
    (congrArg State.responses h :), (congrArg State.flags h :), (congrArg State.mask h :),
    (congrArg State.frameErrors h :), (congrArg State.overruns h :), (congrArg State.power h :),
    (congrArg State.resetPin h :), (congrArg State.tamperLine h :), (congrArg State.battery h :),
    (congrArg State.powerResetOwed h :), (congrArg State.storeLost h :), (congrArg State.shiftedOut h :),
    (congrArg State.freeCount h :), (congrArg State.pending h :), (congrArg State.journal h :),
    (congrArg State.registry h :), (congrArg State.profile h :), (congrArg State.running h :),
    fun q => (congrArg (State.bench q) h :), fun q => (congrArg (State.ctx q) h :),
    fun j => (congrArg (State.slot j) h :), fun q => (congrArg (State.step q) h :),
    fun cu => (congrArg (State.custodian cu) h :)⟩

/-- `pushBench` changes at most benches. -/
theorem pushBench_frame (p : Port) (m : BenchOut) (s : State) :
    pushBench p m s = { s with
      benches := (pushBench p m s).benches } := by
  unfold pushBench; simp only []; split <;> rfl

@[simp] theorem pushBench_keeps (p : Port) (m : BenchOut) (s : State) :
    (pushBench p m s).store.slots = s.store.slots ∧ (pushBench p m s).store.custodians = s.store.custodians
      ∧ (pushBench p m s).store.profile = s.store.profile ∧ (pushBench p m s).store.registry = s.store.registry
      ∧ (pushBench p m s).store.journal = s.store.journal ∧ (pushBench p m s).store.steps = s.store.steps
      ∧ (pushBench p m s).store.tamperLatch = s.store.tamperLatch ∧ (pushBench p m s).line = s.line
      ∧ (pushBench p m s).resetCause = s.resetCause ∧ (pushBench p m s).stream = s.stream
      ∧ (pushBench p m s).ceremony = s.ceremony ∧ (pushBench p m s).importWork = s.importWork
      ∧ (pushBench p m s).engine = s.engine ∧ (pushBench p m s).consoles = s.consoles
      ∧ (pushBench p m s).outstanding = s.outstanding ∧ (pushBench p m s).responses = s.responses
      ∧ (pushBench p m s).flags = s.flags ∧ (pushBench p m s).mask = s.mask
      ∧ (pushBench p m s).frameErrors = s.frameErrors ∧ (pushBench p m s).overruns = s.overruns
      ∧ (pushBench p m s).power = s.power ∧ (pushBench p m s).resetPin = s.resetPin
      ∧ (pushBench p m s).tamperLine = s.tamperLine ∧ (pushBench p m s).battery = s.battery
      ∧ (pushBench p m s).powerResetOwed = s.powerResetOwed ∧ (pushBench p m s).storeLost = s.storeLost
      ∧ (pushBench p m s).shiftedOut = s.shiftedOut ∧ (pushBench p m s).freeCount = s.freeCount
      ∧ (pushBench p m s).pending = s.pending ∧ (pushBench p m s).journal = s.journal
      ∧ (pushBench p m s).registry = s.registry ∧ (pushBench p m s).profile = s.profile
      ∧ (pushBench p m s).running = s.running ∧ (∀ k, (pushBench p m s).console k = s.console k)
      ∧ (∀ j, (pushBench p m s).slot j = s.slot j) ∧ (∀ q, (pushBench p m s).step q = s.step q)
      ∧ (∀ cu, (pushBench p m s).custodian cu = s.custodian cu) := by
  have h := pushBench_frame p m s
  exact ⟨(congrArg (fun x => x.store.slots) h :), (congrArg (fun x => x.store.custodians) h :),
    (congrArg (fun x => x.store.profile) h :), (congrArg (fun x => x.store.registry) h :),
    (congrArg (fun x => x.store.journal) h :), (congrArg (fun x => x.store.steps) h :),
    (congrArg (fun x => x.store.tamperLatch) h :), (congrArg State.line h :), (congrArg State.resetCause h :),
    (congrArg State.stream h :), (congrArg State.ceremony h :), (congrArg State.importWork h :),
    (congrArg State.engine h :), (congrArg State.consoles h :), (congrArg State.outstanding h :),
    (congrArg State.responses h :), (congrArg State.flags h :), (congrArg State.mask h :),
    (congrArg State.frameErrors h :), (congrArg State.overruns h :), (congrArg State.power h :),
    (congrArg State.resetPin h :), (congrArg State.tamperLine h :), (congrArg State.battery h :),
    (congrArg State.powerResetOwed h :), (congrArg State.storeLost h :), (congrArg State.shiftedOut h :),
    (congrArg State.freeCount h :), (congrArg State.pending h :), (congrArg State.journal h :),
    (congrArg State.registry h :), (congrArg State.profile h :), (congrArg State.running h :),
    fun k => (congrArg (State.console k) h :), fun j => (congrArg (State.slot j) h :),
    fun q => (congrArg (State.step q) h :), fun cu => (congrArg (State.custodian cu) h :)⟩

/-- `verdict` changes at most benches. -/
theorem verdict_frame (p : Port) (st : Status) (s : State) :
    verdict p st s = { s with
      benches := (verdict p st s).benches } := by
  apply State.eq_of_fields <;> first | rfl | (simp [verdict])

@[simp] theorem verdict_keeps (p : Port) (st : Status) (s : State) :
    (verdict p st s).store.slots = s.store.slots ∧ (verdict p st s).store.custodians = s.store.custodians
      ∧ (verdict p st s).store.profile = s.store.profile ∧ (verdict p st s).store.registry = s.store.registry
      ∧ (verdict p st s).store.journal = s.store.journal ∧ (verdict p st s).store.steps = s.store.steps
      ∧ (verdict p st s).store.tamperLatch = s.store.tamperLatch ∧ (verdict p st s).line = s.line
      ∧ (verdict p st s).resetCause = s.resetCause ∧ (verdict p st s).stream = s.stream
      ∧ (verdict p st s).ceremony = s.ceremony ∧ (verdict p st s).importWork = s.importWork
      ∧ (verdict p st s).engine = s.engine ∧ (verdict p st s).consoles = s.consoles
      ∧ (verdict p st s).outstanding = s.outstanding ∧ (verdict p st s).responses = s.responses
      ∧ (verdict p st s).flags = s.flags ∧ (verdict p st s).mask = s.mask
      ∧ (verdict p st s).frameErrors = s.frameErrors ∧ (verdict p st s).overruns = s.overruns
      ∧ (verdict p st s).power = s.power ∧ (verdict p st s).resetPin = s.resetPin
      ∧ (verdict p st s).tamperLine = s.tamperLine ∧ (verdict p st s).battery = s.battery
      ∧ (verdict p st s).powerResetOwed = s.powerResetOwed ∧ (verdict p st s).storeLost = s.storeLost
      ∧ (verdict p st s).shiftedOut = s.shiftedOut ∧ (verdict p st s).freeCount = s.freeCount
      ∧ (verdict p st s).pending = s.pending ∧ (verdict p st s).journal = s.journal
      ∧ (verdict p st s).registry = s.registry ∧ (verdict p st s).profile = s.profile
      ∧ (verdict p st s).running = s.running ∧ (∀ k, (verdict p st s).console k = s.console k)
      ∧ (∀ j, (verdict p st s).slot j = s.slot j) ∧ (∀ q, (verdict p st s).step q = s.step q)
      ∧ (∀ cu, (verdict p st s).custodian cu = s.custodian cu) := by
  have h := verdict_frame p st s
  exact ⟨(congrArg (fun x => x.store.slots) h :), (congrArg (fun x => x.store.custodians) h :),
    (congrArg (fun x => x.store.profile) h :), (congrArg (fun x => x.store.registry) h :),
    (congrArg (fun x => x.store.journal) h :), (congrArg (fun x => x.store.steps) h :),
    (congrArg (fun x => x.store.tamperLatch) h :), (congrArg State.line h :), (congrArg State.resetCause h :),
    (congrArg State.stream h :), (congrArg State.ceremony h :), (congrArg State.importWork h :),
    (congrArg State.engine h :), (congrArg State.consoles h :), (congrArg State.outstanding h :),
    (congrArg State.responses h :), (congrArg State.flags h :), (congrArg State.mask h :),
    (congrArg State.frameErrors h :), (congrArg State.overruns h :), (congrArg State.power h :),
    (congrArg State.resetPin h :), (congrArg State.tamperLine h :), (congrArg State.battery h :),
    (congrArg State.powerResetOwed h :), (congrArg State.storeLost h :), (congrArg State.shiftedOut h :),
    (congrArg State.freeCount h :), (congrArg State.pending h :), (congrArg State.journal h :),
    (congrArg State.registry h :), (congrArg State.profile h :), (congrArg State.running h :),
    fun k => (congrArg (State.console k) h :), fun j => (congrArg (State.slot j) h :),
    fun q => (congrArg (State.step q) h :), fun cu => (congrArg (State.custodian cu) h :)⟩

/-- `respond` changes at most outstanding, responses, flags. -/
theorem respond_frame (tag kind : Byte) (st : Status) (changed : Bool) (body : ResponseBody) (s : State) :
    respond tag kind st changed body s = { s with
      outstanding := (respond tag kind st changed body s).outstanding
      responses := (respond tag kind st changed body s).responses
      flags := (respond tag kind st changed body s).flags } := rfl

@[simp] theorem respond_keeps (tag kind : Byte) (st : Status) (changed : Bool) (body : ResponseBody) (s : State) :
    (respond tag kind st changed body s).store.slots = s.store.slots
      ∧ (respond tag kind st changed body s).store.custodians = s.store.custodians
      ∧ (respond tag kind st changed body s).store.profile = s.store.profile
      ∧ (respond tag kind st changed body s).store.registry = s.store.registry
      ∧ (respond tag kind st changed body s).store.journal = s.store.journal
      ∧ (respond tag kind st changed body s).store.steps = s.store.steps
      ∧ (respond tag kind st changed body s).store.tamperLatch = s.store.tamperLatch
      ∧ (respond tag kind st changed body s).line = s.line
      ∧ (respond tag kind st changed body s).resetCause = s.resetCause
      ∧ (respond tag kind st changed body s).stream = s.stream
      ∧ (respond tag kind st changed body s).ceremony = s.ceremony
      ∧ (respond tag kind st changed body s).importWork = s.importWork
      ∧ (respond tag kind st changed body s).engine = s.engine
      ∧ (respond tag kind st changed body s).consoles = s.consoles
      ∧ (respond tag kind st changed body s).benches = s.benches ∧ (respond tag kind st changed body s).mask = s.mask
      ∧ (respond tag kind st changed body s).frameErrors = s.frameErrors
      ∧ (respond tag kind st changed body s).overruns = s.overruns
      ∧ (respond tag kind st changed body s).power = s.power
      ∧ (respond tag kind st changed body s).resetPin = s.resetPin
      ∧ (respond tag kind st changed body s).tamperLine = s.tamperLine
      ∧ (respond tag kind st changed body s).battery = s.battery
      ∧ (respond tag kind st changed body s).powerResetOwed = s.powerResetOwed
      ∧ (respond tag kind st changed body s).storeLost = s.storeLost
      ∧ (respond tag kind st changed body s).shiftedOut = s.shiftedOut
      ∧ (respond tag kind st changed body s).freeCount = s.freeCount
      ∧ (respond tag kind st changed body s).pending = s.pending
      ∧ (respond tag kind st changed body s).journal = s.journal
      ∧ (respond tag kind st changed body s).registry = s.registry
      ∧ (respond tag kind st changed body s).profile = s.profile
      ∧ (respond tag kind st changed body s).running = s.running
      ∧ (∀ k, (respond tag kind st changed body s).console k = s.console k)
      ∧ (∀ q, (respond tag kind st changed body s).bench q = s.bench q)
      ∧ (∀ q, (respond tag kind st changed body s).ctx q = s.ctx q)
      ∧ (∀ j, (respond tag kind st changed body s).slot j = s.slot j)
      ∧ (∀ q, (respond tag kind st changed body s).step q = s.step q)
      ∧ (∀ cu, (respond tag kind st changed body s).custodian cu = s.custodian cu) := by
  have h := respond_frame tag kind st changed body s
  exact ⟨(congrArg (fun x => x.store.slots) h :), (congrArg (fun x => x.store.custodians) h :),
    (congrArg (fun x => x.store.profile) h :), (congrArg (fun x => x.store.registry) h :),
    (congrArg (fun x => x.store.journal) h :), (congrArg (fun x => x.store.steps) h :),
    (congrArg (fun x => x.store.tamperLatch) h :), (congrArg State.line h :), (congrArg State.resetCause h :),
    (congrArg State.stream h :), (congrArg State.ceremony h :), (congrArg State.importWork h :),
    (congrArg State.engine h :), (congrArg State.consoles h :), (congrArg State.benches h :),
    (congrArg State.mask h :), (congrArg State.frameErrors h :), (congrArg State.overruns h :),
    (congrArg State.power h :), (congrArg State.resetPin h :), (congrArg State.tamperLine h :),
    (congrArg State.battery h :), (congrArg State.powerResetOwed h :), (congrArg State.storeLost h :),
    (congrArg State.shiftedOut h :), (congrArg State.freeCount h :), (congrArg State.pending h :),
    (congrArg State.journal h :), (congrArg State.registry h :), (congrArg State.profile h :),
    (congrArg State.running h :), fun k => (congrArg (State.console k) h :),
    fun q => (congrArg (State.bench q) h :), fun q => (congrArg (State.ctx q) h :),
    fun j => (congrArg (State.slot j) h :), fun q => (congrArg (State.step q) h :),
    fun cu => (congrArg (State.custodian cu) h :)⟩

/-- `refuse` changes at most outstanding, responses, flags. -/
theorem refuse_frame (tag kind : Byte) (st : Status) (s : State) :
    refuse tag kind st s = { s with
      outstanding := (refuse tag kind st s).outstanding
      responses := (refuse tag kind st s).responses
      flags := (refuse tag kind st s).flags } := rfl

@[simp] theorem refuse_keeps (tag kind : Byte) (st : Status) (s : State) :
    (refuse tag kind st s).store.slots = s.store.slots
      ∧ (refuse tag kind st s).store.custodians = s.store.custodians
      ∧ (refuse tag kind st s).store.profile = s.store.profile
      ∧ (refuse tag kind st s).store.registry = s.store.registry
      ∧ (refuse tag kind st s).store.journal = s.store.journal ∧ (refuse tag kind st s).store.steps = s.store.steps
      ∧ (refuse tag kind st s).store.tamperLatch = s.store.tamperLatch ∧ (refuse tag kind st s).line = s.line
      ∧ (refuse tag kind st s).resetCause = s.resetCause ∧ (refuse tag kind st s).stream = s.stream
      ∧ (refuse tag kind st s).ceremony = s.ceremony ∧ (refuse tag kind st s).importWork = s.importWork
      ∧ (refuse tag kind st s).engine = s.engine ∧ (refuse tag kind st s).consoles = s.consoles
      ∧ (refuse tag kind st s).benches = s.benches ∧ (refuse tag kind st s).mask = s.mask
      ∧ (refuse tag kind st s).frameErrors = s.frameErrors ∧ (refuse tag kind st s).overruns = s.overruns
      ∧ (refuse tag kind st s).power = s.power ∧ (refuse tag kind st s).resetPin = s.resetPin
      ∧ (refuse tag kind st s).tamperLine = s.tamperLine ∧ (refuse tag kind st s).battery = s.battery
      ∧ (refuse tag kind st s).powerResetOwed = s.powerResetOwed ∧ (refuse tag kind st s).storeLost = s.storeLost
      ∧ (refuse tag kind st s).shiftedOut = s.shiftedOut ∧ (refuse tag kind st s).freeCount = s.freeCount
      ∧ (refuse tag kind st s).pending = s.pending ∧ (refuse tag kind st s).journal = s.journal
      ∧ (refuse tag kind st s).registry = s.registry ∧ (refuse tag kind st s).profile = s.profile
      ∧ (refuse tag kind st s).running = s.running ∧ (∀ k, (refuse tag kind st s).console k = s.console k)
      ∧ (∀ q, (refuse tag kind st s).bench q = s.bench q) ∧ (∀ q, (refuse tag kind st s).ctx q = s.ctx q)
      ∧ (∀ j, (refuse tag kind st s).slot j = s.slot j) ∧ (∀ q, (refuse tag kind st s).step q = s.step q)
      ∧ (∀ cu, (refuse tag kind st s).custodian cu = s.custodian cu) := by
  have h := refuse_frame tag kind st s
  exact ⟨(congrArg (fun x => x.store.slots) h :), (congrArg (fun x => x.store.custodians) h :),
    (congrArg (fun x => x.store.profile) h :), (congrArg (fun x => x.store.registry) h :),
    (congrArg (fun x => x.store.journal) h :), (congrArg (fun x => x.store.steps) h :),
    (congrArg (fun x => x.store.tamperLatch) h :), (congrArg State.line h :), (congrArg State.resetCause h :),
    (congrArg State.stream h :), (congrArg State.ceremony h :), (congrArg State.importWork h :),
    (congrArg State.engine h :), (congrArg State.consoles h :), (congrArg State.benches h :),
    (congrArg State.mask h :), (congrArg State.frameErrors h :), (congrArg State.overruns h :),
    (congrArg State.power h :), (congrArg State.resetPin h :), (congrArg State.tamperLine h :),
    (congrArg State.battery h :), (congrArg State.powerResetOwed h :), (congrArg State.storeLost h :),
    (congrArg State.shiftedOut h :), (congrArg State.freeCount h :), (congrArg State.pending h :),
    (congrArg State.journal h :), (congrArg State.registry h :), (congrArg State.profile h :),
    (congrArg State.running h :), fun k => (congrArg (State.console k) h :),
    fun q => (congrArg (State.bench q) h :), fun q => (congrArg (State.ctx q) h :),
    fun j => (congrArg (State.slot j) h :), fun q => (congrArg (State.step q) h :),
    fun cu => (congrArg (State.custodian cu) h :)⟩

/-- `setLine` changes at most line, flags. -/
theorem setLine_frame (l : LineState) (s : State) :
    setLine l s = { s with
      line := (setLine l s).line
      flags := (setLine l s).flags } := by
  unfold setLine; split <;> rfl

@[simp] theorem setLine_keeps (l : LineState) (s : State) :
    (setLine l s).store.slots = s.store.slots ∧ (setLine l s).store.custodians = s.store.custodians
      ∧ (setLine l s).store.profile = s.store.profile ∧ (setLine l s).store.registry = s.store.registry
      ∧ (setLine l s).store.journal = s.store.journal ∧ (setLine l s).store.steps = s.store.steps
      ∧ (setLine l s).store.tamperLatch = s.store.tamperLatch ∧ (setLine l s).resetCause = s.resetCause
      ∧ (setLine l s).stream = s.stream ∧ (setLine l s).ceremony = s.ceremony
      ∧ (setLine l s).importWork = s.importWork ∧ (setLine l s).engine = s.engine
      ∧ (setLine l s).consoles = s.consoles ∧ (setLine l s).benches = s.benches
      ∧ (setLine l s).outstanding = s.outstanding ∧ (setLine l s).responses = s.responses
      ∧ (setLine l s).mask = s.mask ∧ (setLine l s).frameErrors = s.frameErrors ∧ (setLine l s).overruns = s.overruns
      ∧ (setLine l s).power = s.power ∧ (setLine l s).resetPin = s.resetPin ∧ (setLine l s).tamperLine = s.tamperLine
      ∧ (setLine l s).battery = s.battery ∧ (setLine l s).powerResetOwed = s.powerResetOwed
      ∧ (setLine l s).storeLost = s.storeLost ∧ (setLine l s).shiftedOut = s.shiftedOut
      ∧ (setLine l s).freeCount = s.freeCount ∧ (setLine l s).pending = s.pending ∧ (setLine l s).journal = s.journal
      ∧ (setLine l s).registry = s.registry ∧ (setLine l s).profile = s.profile ∧ (setLine l s).running = s.running
      ∧ (∀ k, (setLine l s).console k = s.console k) ∧ (∀ q, (setLine l s).bench q = s.bench q)
      ∧ (∀ q, (setLine l s).ctx q = s.ctx q) ∧ (∀ j, (setLine l s).slot j = s.slot j)
      ∧ (∀ q, (setLine l s).step q = s.step q) ∧ (∀ cu, (setLine l s).custodian cu = s.custodian cu) := by
  have h := setLine_frame l s
  exact ⟨(congrArg (fun x => x.store.slots) h :), (congrArg (fun x => x.store.custodians) h :),
    (congrArg (fun x => x.store.profile) h :), (congrArg (fun x => x.store.registry) h :),
    (congrArg (fun x => x.store.journal) h :), (congrArg (fun x => x.store.steps) h :),
    (congrArg (fun x => x.store.tamperLatch) h :), (congrArg State.resetCause h :), (congrArg State.stream h :),
    (congrArg State.ceremony h :), (congrArg State.importWork h :), (congrArg State.engine h :),
    (congrArg State.consoles h :), (congrArg State.benches h :), (congrArg State.outstanding h :),
    (congrArg State.responses h :), (congrArg State.mask h :), (congrArg State.frameErrors h :),
    (congrArg State.overruns h :), (congrArg State.power h :), (congrArg State.resetPin h :),
    (congrArg State.tamperLine h :), (congrArg State.battery h :), (congrArg State.powerResetOwed h :),
    (congrArg State.storeLost h :), (congrArg State.shiftedOut h :), (congrArg State.freeCount h :),
    (congrArg State.pending h :), (congrArg State.journal h :), (congrArg State.registry h :),
    (congrArg State.profile h :), (congrArg State.running h :), fun k => (congrArg (State.console k) h :),
    fun q => (congrArg (State.bench q) h :), fun q => (congrArg (State.ctx q) h :),
    fun j => (congrArg (State.slot j) h :), fun q => (congrArg (State.step q) h :),
    fun cu => (congrArg (State.custodian cu) h :)⟩

/-- `writeRecord` changes at most journal. -/
theorem writeRecord_frame (h : ResHolder) (body : RecordBody) (s : State) :
    writeRecord h body s = { s with
      store := { s.store with journal := (writeRecord h body s).store.journal } } := rfl

@[simp] theorem writeRecord_keeps (h : ResHolder) (body : RecordBody) (s : State) :
    (writeRecord h body s).store.slots = s.store.slots
      ∧ (writeRecord h body s).store.custodians = s.store.custodians
      ∧ (writeRecord h body s).store.profile = s.store.profile
      ∧ (writeRecord h body s).store.registry = s.store.registry ∧ (writeRecord h body s).store.steps = s.store.steps
      ∧ (writeRecord h body s).store.tamperLatch = s.store.tamperLatch ∧ (writeRecord h body s).line = s.line
      ∧ (writeRecord h body s).resetCause = s.resetCause ∧ (writeRecord h body s).stream = s.stream
      ∧ (writeRecord h body s).ceremony = s.ceremony ∧ (writeRecord h body s).importWork = s.importWork
      ∧ (writeRecord h body s).engine = s.engine ∧ (writeRecord h body s).consoles = s.consoles
      ∧ (writeRecord h body s).benches = s.benches ∧ (writeRecord h body s).outstanding = s.outstanding
      ∧ (writeRecord h body s).responses = s.responses ∧ (writeRecord h body s).flags = s.flags
      ∧ (writeRecord h body s).mask = s.mask ∧ (writeRecord h body s).frameErrors = s.frameErrors
      ∧ (writeRecord h body s).overruns = s.overruns ∧ (writeRecord h body s).power = s.power
      ∧ (writeRecord h body s).resetPin = s.resetPin ∧ (writeRecord h body s).tamperLine = s.tamperLine
      ∧ (writeRecord h body s).battery = s.battery ∧ (writeRecord h body s).powerResetOwed = s.powerResetOwed
      ∧ (writeRecord h body s).storeLost = s.storeLost ∧ (writeRecord h body s).shiftedOut = s.shiftedOut
      ∧ (writeRecord h body s).freeCount = s.freeCount ∧ (writeRecord h body s).pending = s.pending
      ∧ (writeRecord h body s).registry = s.registry ∧ (writeRecord h body s).profile = s.profile
      ∧ (writeRecord h body s).running = s.running ∧ (∀ k, (writeRecord h body s).console k = s.console k)
      ∧ (∀ q, (writeRecord h body s).bench q = s.bench q) ∧ (∀ q, (writeRecord h body s).ctx q = s.ctx q)
      ∧ (∀ j, (writeRecord h body s).slot j = s.slot j) ∧ (∀ q, (writeRecord h body s).step q = s.step q)
      ∧ (∀ cu, (writeRecord h body s).custodian cu = s.custodian cu) := by
  have h := writeRecord_frame h body s
  exact ⟨(congrArg (fun x => x.store.slots) h :), (congrArg (fun x => x.store.custodians) h :),
    (congrArg (fun x => x.store.profile) h :), (congrArg (fun x => x.store.registry) h :),
    (congrArg (fun x => x.store.steps) h :), (congrArg (fun x => x.store.tamperLatch) h :),
    (congrArg State.line h :), (congrArg State.resetCause h :), (congrArg State.stream h :),
    (congrArg State.ceremony h :), (congrArg State.importWork h :), (congrArg State.engine h :),
    (congrArg State.consoles h :), (congrArg State.benches h :), (congrArg State.outstanding h :),
    (congrArg State.responses h :), (congrArg State.flags h :), (congrArg State.mask h :),
    (congrArg State.frameErrors h :), (congrArg State.overruns h :), (congrArg State.power h :),
    (congrArg State.resetPin h :), (congrArg State.tamperLine h :), (congrArg State.battery h :),
    (congrArg State.powerResetOwed h :), (congrArg State.storeLost h :), (congrArg State.shiftedOut h :),
    (congrArg State.freeCount h :), (congrArg State.pending h :), (congrArg State.registry h :),
    (congrArg State.profile h :), (congrArg State.running h :), fun k => (congrArg (State.console k) h :),
    fun q => (congrArg (State.bench q) h :), fun q => (congrArg (State.ctx q) h :),
    fun j => (congrArg (State.slot j) h :), fun q => (congrArg (State.step q) h :),
    fun cu => (congrArg (State.custodian cu) h :)⟩

/-- `returnReservation` changes at most journal. -/
theorem returnReservation_frame (h : ResHolder) (s : State) :
    returnReservation h s = { s with
      store := { s.store with journal := (returnReservation h s).store.journal } } := rfl

@[simp] theorem returnReservation_keeps (h : ResHolder) (s : State) :
    (returnReservation h s).store.slots = s.store.slots
      ∧ (returnReservation h s).store.custodians = s.store.custodians
      ∧ (returnReservation h s).store.profile = s.store.profile
      ∧ (returnReservation h s).store.registry = s.store.registry
      ∧ (returnReservation h s).store.steps = s.store.steps
      ∧ (returnReservation h s).store.tamperLatch = s.store.tamperLatch ∧ (returnReservation h s).line = s.line
      ∧ (returnReservation h s).resetCause = s.resetCause ∧ (returnReservation h s).stream = s.stream
      ∧ (returnReservation h s).ceremony = s.ceremony ∧ (returnReservation h s).importWork = s.importWork
      ∧ (returnReservation h s).engine = s.engine ∧ (returnReservation h s).consoles = s.consoles
      ∧ (returnReservation h s).benches = s.benches ∧ (returnReservation h s).outstanding = s.outstanding
      ∧ (returnReservation h s).responses = s.responses ∧ (returnReservation h s).flags = s.flags
      ∧ (returnReservation h s).mask = s.mask ∧ (returnReservation h s).frameErrors = s.frameErrors
      ∧ (returnReservation h s).overruns = s.overruns ∧ (returnReservation h s).power = s.power
      ∧ (returnReservation h s).resetPin = s.resetPin ∧ (returnReservation h s).tamperLine = s.tamperLine
      ∧ (returnReservation h s).battery = s.battery ∧ (returnReservation h s).powerResetOwed = s.powerResetOwed
      ∧ (returnReservation h s).storeLost = s.storeLost ∧ (returnReservation h s).shiftedOut = s.shiftedOut
      ∧ (returnReservation h s).freeCount = s.freeCount ∧ (returnReservation h s).pending = s.pending
      ∧ (returnReservation h s).registry = s.registry ∧ (returnReservation h s).profile = s.profile
      ∧ (returnReservation h s).running = s.running ∧ (∀ k, (returnReservation h s).console k = s.console k)
      ∧ (∀ q, (returnReservation h s).bench q = s.bench q) ∧ (∀ q, (returnReservation h s).ctx q = s.ctx q)
      ∧ (∀ j, (returnReservation h s).slot j = s.slot j) ∧ (∀ q, (returnReservation h s).step q = s.step q)
      ∧ (∀ cu, (returnReservation h s).custodian cu = s.custodian cu) := by
  have h := returnReservation_frame h s
  exact ⟨(congrArg (fun x => x.store.slots) h :), (congrArg (fun x => x.store.custodians) h :),
    (congrArg (fun x => x.store.profile) h :), (congrArg (fun x => x.store.registry) h :),
    (congrArg (fun x => x.store.steps) h :), (congrArg (fun x => x.store.tamperLatch) h :),
    (congrArg State.line h :), (congrArg State.resetCause h :), (congrArg State.stream h :),
    (congrArg State.ceremony h :), (congrArg State.importWork h :), (congrArg State.engine h :),
    (congrArg State.consoles h :), (congrArg State.benches h :), (congrArg State.outstanding h :),
    (congrArg State.responses h :), (congrArg State.flags h :), (congrArg State.mask h :),
    (congrArg State.frameErrors h :), (congrArg State.overruns h :), (congrArg State.power h :),
    (congrArg State.resetPin h :), (congrArg State.tamperLine h :), (congrArg State.battery h :),
    (congrArg State.powerResetOwed h :), (congrArg State.storeLost h :), (congrArg State.shiftedOut h :),
    (congrArg State.freeCount h :), (congrArg State.pending h :), (congrArg State.registry h :),
    (congrArg State.profile h :), (congrArg State.running h :), fun k => (congrArg (State.console k) h :),
    fun q => (congrArg (State.bench q) h :), fun q => (congrArg (State.ctx q) h :),
    fun j => (congrArg (State.slot j) h :), fun q => (congrArg (State.step q) h :),
    fun cu => (congrArg (State.custodian cu) h :)⟩

/-- `joinPending` changes at most engine. -/
theorem joinPending_frame (r : Fin 10) (inputs : JobInputs) (s : State) :
    joinPending r inputs s = { s with
      engine := (joinPending r inputs s).engine } := rfl

@[simp] theorem joinPending_keeps (r : Fin 10) (inputs : JobInputs) (s : State) :
    (joinPending r inputs s).store.slots = s.store.slots
      ∧ (joinPending r inputs s).store.custodians = s.store.custodians
      ∧ (joinPending r inputs s).store.profile = s.store.profile
      ∧ (joinPending r inputs s).store.registry = s.store.registry
      ∧ (joinPending r inputs s).store.journal = s.store.journal
      ∧ (joinPending r inputs s).store.steps = s.store.steps
      ∧ (joinPending r inputs s).store.tamperLatch = s.store.tamperLatch ∧ (joinPending r inputs s).line = s.line
      ∧ (joinPending r inputs s).resetCause = s.resetCause ∧ (joinPending r inputs s).stream = s.stream
      ∧ (joinPending r inputs s).ceremony = s.ceremony ∧ (joinPending r inputs s).importWork = s.importWork
      ∧ (joinPending r inputs s).consoles = s.consoles ∧ (joinPending r inputs s).benches = s.benches
      ∧ (joinPending r inputs s).outstanding = s.outstanding ∧ (joinPending r inputs s).responses = s.responses
      ∧ (joinPending r inputs s).flags = s.flags ∧ (joinPending r inputs s).mask = s.mask
      ∧ (joinPending r inputs s).frameErrors = s.frameErrors ∧ (joinPending r inputs s).overruns = s.overruns
      ∧ (joinPending r inputs s).power = s.power ∧ (joinPending r inputs s).resetPin = s.resetPin
      ∧ (joinPending r inputs s).tamperLine = s.tamperLine ∧ (joinPending r inputs s).battery = s.battery
      ∧ (joinPending r inputs s).powerResetOwed = s.powerResetOwed ∧ (joinPending r inputs s).storeLost = s.storeLost
      ∧ (joinPending r inputs s).shiftedOut = s.shiftedOut ∧ (joinPending r inputs s).freeCount = s.freeCount
      ∧ (joinPending r inputs s).pending = s.pending ∧ (joinPending r inputs s).journal = s.journal
      ∧ (joinPending r inputs s).registry = s.registry ∧ (joinPending r inputs s).profile = s.profile
      ∧ (joinPending r inputs s).running = s.running ∧ (∀ k, (joinPending r inputs s).console k = s.console k)
      ∧ (∀ q, (joinPending r inputs s).bench q = s.bench q) ∧ (∀ q, (joinPending r inputs s).ctx q = s.ctx q)
      ∧ (∀ j, (joinPending r inputs s).slot j = s.slot j) ∧ (∀ q, (joinPending r inputs s).step q = s.step q)
      ∧ (∀ cu, (joinPending r inputs s).custodian cu = s.custodian cu) := by
  have h := joinPending_frame r inputs s
  exact ⟨(congrArg (fun x => x.store.slots) h :), (congrArg (fun x => x.store.custodians) h :),
    (congrArg (fun x => x.store.profile) h :), (congrArg (fun x => x.store.registry) h :),
    (congrArg (fun x => x.store.journal) h :), (congrArg (fun x => x.store.steps) h :),
    (congrArg (fun x => x.store.tamperLatch) h :), (congrArg State.line h :), (congrArg State.resetCause h :),
    (congrArg State.stream h :), (congrArg State.ceremony h :), (congrArg State.importWork h :),
    (congrArg State.consoles h :), (congrArg State.benches h :), (congrArg State.outstanding h :),
    (congrArg State.responses h :), (congrArg State.flags h :), (congrArg State.mask h :),
    (congrArg State.frameErrors h :), (congrArg State.overruns h :), (congrArg State.power h :),
    (congrArg State.resetPin h :), (congrArg State.tamperLine h :), (congrArg State.battery h :),
    (congrArg State.powerResetOwed h :), (congrArg State.storeLost h :), (congrArg State.shiftedOut h :),
    (congrArg State.freeCount h :), (congrArg State.pending h :), (congrArg State.journal h :),
    (congrArg State.registry h :), (congrArg State.profile h :), (congrArg State.running h :),
    fun k => (congrArg (State.console k) h :), fun q => (congrArg (State.bench q) h :),
    fun q => (congrArg (State.ctx q) h :), fun j => (congrArg (State.slot j) h :),
    fun q => (congrArg (State.step q) h :), fun cu => (congrArg (State.custodian cu) h :)⟩

/-- `requestJob` changes at most engine. -/
theorem requestJob_frame (r : Fin 10) (inputs : JobInputs) (s : State) :
    requestJob r inputs s = { s with
      engine := (requestJob r inputs s).engine } := by
  unfold requestJob; split <;> rfl

@[simp] theorem requestJob_keeps (r : Fin 10) (inputs : JobInputs) (s : State) :
    (requestJob r inputs s).store.slots = s.store.slots
      ∧ (requestJob r inputs s).store.custodians = s.store.custodians
      ∧ (requestJob r inputs s).store.profile = s.store.profile
      ∧ (requestJob r inputs s).store.registry = s.store.registry
      ∧ (requestJob r inputs s).store.journal = s.store.journal ∧ (requestJob r inputs s).store.steps = s.store.steps
      ∧ (requestJob r inputs s).store.tamperLatch = s.store.tamperLatch ∧ (requestJob r inputs s).line = s.line
      ∧ (requestJob r inputs s).resetCause = s.resetCause ∧ (requestJob r inputs s).stream = s.stream
      ∧ (requestJob r inputs s).ceremony = s.ceremony ∧ (requestJob r inputs s).importWork = s.importWork
      ∧ (requestJob r inputs s).consoles = s.consoles ∧ (requestJob r inputs s).benches = s.benches
      ∧ (requestJob r inputs s).outstanding = s.outstanding ∧ (requestJob r inputs s).responses = s.responses
      ∧ (requestJob r inputs s).flags = s.flags ∧ (requestJob r inputs s).mask = s.mask
      ∧ (requestJob r inputs s).frameErrors = s.frameErrors ∧ (requestJob r inputs s).overruns = s.overruns
      ∧ (requestJob r inputs s).power = s.power ∧ (requestJob r inputs s).resetPin = s.resetPin
      ∧ (requestJob r inputs s).tamperLine = s.tamperLine ∧ (requestJob r inputs s).battery = s.battery
      ∧ (requestJob r inputs s).powerResetOwed = s.powerResetOwed ∧ (requestJob r inputs s).storeLost = s.storeLost
      ∧ (requestJob r inputs s).shiftedOut = s.shiftedOut ∧ (requestJob r inputs s).freeCount = s.freeCount
      ∧ (requestJob r inputs s).pending = s.pending ∧ (requestJob r inputs s).journal = s.journal
      ∧ (requestJob r inputs s).registry = s.registry ∧ (requestJob r inputs s).profile = s.profile
      ∧ (requestJob r inputs s).running = s.running ∧ (∀ k, (requestJob r inputs s).console k = s.console k)
      ∧ (∀ q, (requestJob r inputs s).bench q = s.bench q) ∧ (∀ q, (requestJob r inputs s).ctx q = s.ctx q)
      ∧ (∀ j, (requestJob r inputs s).slot j = s.slot j) ∧ (∀ q, (requestJob r inputs s).step q = s.step q)
      ∧ (∀ cu, (requestJob r inputs s).custodian cu = s.custodian cu) := by
  have h := requestJob_frame r inputs s
  exact ⟨(congrArg (fun x => x.store.slots) h :), (congrArg (fun x => x.store.custodians) h :),
    (congrArg (fun x => x.store.profile) h :), (congrArg (fun x => x.store.registry) h :),
    (congrArg (fun x => x.store.journal) h :), (congrArg (fun x => x.store.steps) h :),
    (congrArg (fun x => x.store.tamperLatch) h :), (congrArg State.line h :), (congrArg State.resetCause h :),
    (congrArg State.stream h :), (congrArg State.ceremony h :), (congrArg State.importWork h :),
    (congrArg State.consoles h :), (congrArg State.benches h :), (congrArg State.outstanding h :),
    (congrArg State.responses h :), (congrArg State.flags h :), (congrArg State.mask h :),
    (congrArg State.frameErrors h :), (congrArg State.overruns h :), (congrArg State.power h :),
    (congrArg State.resetPin h :), (congrArg State.tamperLine h :), (congrArg State.battery h :),
    (congrArg State.powerResetOwed h :), (congrArg State.storeLost h :), (congrArg State.shiftedOut h :),
    (congrArg State.freeCount h :), (congrArg State.pending h :), (congrArg State.journal h :),
    (congrArg State.registry h :), (congrArg State.profile h :), (congrArg State.running h :),
    fun k => (congrArg (State.console k) h :), fun q => (congrArg (State.bench q) h :),
    fun q => (congrArg (State.ctx q) h :), fun j => (congrArg (State.slot j) h :),
    fun q => (congrArg (State.step q) h :), fun cu => (congrArg (State.custodian cu) h :)⟩

/-- `grantNext` changes at most engine. -/
theorem grantNext_frame (s : State) :
    grantNext s = { s with
      engine := (grantNext s).engine } := by
  unfold grantNext; split <;> rfl

@[simp] theorem grantNext_keeps (s : State) :
    (grantNext s).store.slots = s.store.slots ∧ (grantNext s).store.custodians = s.store.custodians
      ∧ (grantNext s).store.profile = s.store.profile ∧ (grantNext s).store.registry = s.store.registry
      ∧ (grantNext s).store.journal = s.store.journal ∧ (grantNext s).store.steps = s.store.steps
      ∧ (grantNext s).store.tamperLatch = s.store.tamperLatch ∧ (grantNext s).line = s.line
      ∧ (grantNext s).resetCause = s.resetCause ∧ (grantNext s).stream = s.stream
      ∧ (grantNext s).ceremony = s.ceremony ∧ (grantNext s).importWork = s.importWork
      ∧ (grantNext s).consoles = s.consoles ∧ (grantNext s).benches = s.benches
      ∧ (grantNext s).outstanding = s.outstanding ∧ (grantNext s).responses = s.responses
      ∧ (grantNext s).flags = s.flags ∧ (grantNext s).mask = s.mask ∧ (grantNext s).frameErrors = s.frameErrors
      ∧ (grantNext s).overruns = s.overruns ∧ (grantNext s).power = s.power ∧ (grantNext s).resetPin = s.resetPin
      ∧ (grantNext s).tamperLine = s.tamperLine ∧ (grantNext s).battery = s.battery
      ∧ (grantNext s).powerResetOwed = s.powerResetOwed ∧ (grantNext s).storeLost = s.storeLost
      ∧ (grantNext s).shiftedOut = s.shiftedOut ∧ (grantNext s).freeCount = s.freeCount
      ∧ (grantNext s).pending = s.pending ∧ (grantNext s).journal = s.journal ∧ (grantNext s).registry = s.registry
      ∧ (grantNext s).profile = s.profile ∧ (grantNext s).running = s.running
      ∧ (∀ k, (grantNext s).console k = s.console k) ∧ (∀ q, (grantNext s).bench q = s.bench q)
      ∧ (∀ q, (grantNext s).ctx q = s.ctx q) ∧ (∀ j, (grantNext s).slot j = s.slot j)
      ∧ (∀ q, (grantNext s).step q = s.step q) ∧ (∀ cu, (grantNext s).custodian cu = s.custodian cu) := by
  have h := grantNext_frame s
  exact ⟨(congrArg (fun x => x.store.slots) h :), (congrArg (fun x => x.store.custodians) h :),
    (congrArg (fun x => x.store.profile) h :), (congrArg (fun x => x.store.registry) h :),
    (congrArg (fun x => x.store.journal) h :), (congrArg (fun x => x.store.steps) h :),
    (congrArg (fun x => x.store.tamperLatch) h :), (congrArg State.line h :), (congrArg State.resetCause h :),
    (congrArg State.stream h :), (congrArg State.ceremony h :), (congrArg State.importWork h :),
    (congrArg State.consoles h :), (congrArg State.benches h :), (congrArg State.outstanding h :),
    (congrArg State.responses h :), (congrArg State.flags h :), (congrArg State.mask h :),
    (congrArg State.frameErrors h :), (congrArg State.overruns h :), (congrArg State.power h :),
    (congrArg State.resetPin h :), (congrArg State.tamperLine h :), (congrArg State.battery h :),
    (congrArg State.powerResetOwed h :), (congrArg State.storeLost h :), (congrArg State.shiftedOut h :),
    (congrArg State.freeCount h :), (congrArg State.pending h :), (congrArg State.journal h :),
    (congrArg State.registry h :), (congrArg State.profile h :), (congrArg State.running h :),
    fun k => (congrArg (State.console k) h :), fun q => (congrArg (State.bench q) h :),
    fun q => (congrArg (State.ctx q) h :), fun j => (congrArg (State.slot j) h :),
    fun q => (congrArg (State.step q) h :), fun cu => (congrArg (State.custodian cu) h :)⟩

/-- `withdrawJob` changes at most engine. -/
theorem withdrawJob_frame (r : Fin 10) (s : State) :
    withdrawJob r s = { s with
      engine := (withdrawJob r s).engine } := by
  unfold withdrawJob; split <;> rfl

@[simp] theorem withdrawJob_keeps (r : Fin 10) (s : State) :
    (withdrawJob r s).store.slots = s.store.slots ∧ (withdrawJob r s).store.custodians = s.store.custodians
      ∧ (withdrawJob r s).store.profile = s.store.profile ∧ (withdrawJob r s).store.registry = s.store.registry
      ∧ (withdrawJob r s).store.journal = s.store.journal ∧ (withdrawJob r s).store.steps = s.store.steps
      ∧ (withdrawJob r s).store.tamperLatch = s.store.tamperLatch ∧ (withdrawJob r s).line = s.line
      ∧ (withdrawJob r s).resetCause = s.resetCause ∧ (withdrawJob r s).stream = s.stream
      ∧ (withdrawJob r s).ceremony = s.ceremony ∧ (withdrawJob r s).importWork = s.importWork
      ∧ (withdrawJob r s).consoles = s.consoles ∧ (withdrawJob r s).benches = s.benches
      ∧ (withdrawJob r s).outstanding = s.outstanding ∧ (withdrawJob r s).responses = s.responses
      ∧ (withdrawJob r s).flags = s.flags ∧ (withdrawJob r s).mask = s.mask
      ∧ (withdrawJob r s).frameErrors = s.frameErrors ∧ (withdrawJob r s).overruns = s.overruns
      ∧ (withdrawJob r s).power = s.power ∧ (withdrawJob r s).resetPin = s.resetPin
      ∧ (withdrawJob r s).tamperLine = s.tamperLine ∧ (withdrawJob r s).battery = s.battery
      ∧ (withdrawJob r s).powerResetOwed = s.powerResetOwed ∧ (withdrawJob r s).storeLost = s.storeLost
      ∧ (withdrawJob r s).shiftedOut = s.shiftedOut ∧ (withdrawJob r s).freeCount = s.freeCount
      ∧ (withdrawJob r s).pending = s.pending ∧ (withdrawJob r s).journal = s.journal
      ∧ (withdrawJob r s).registry = s.registry ∧ (withdrawJob r s).profile = s.profile
      ∧ (withdrawJob r s).running = s.running ∧ (∀ k, (withdrawJob r s).console k = s.console k)
      ∧ (∀ q, (withdrawJob r s).bench q = s.bench q) ∧ (∀ q, (withdrawJob r s).ctx q = s.ctx q)
      ∧ (∀ j, (withdrawJob r s).slot j = s.slot j) ∧ (∀ q, (withdrawJob r s).step q = s.step q)
      ∧ (∀ cu, (withdrawJob r s).custodian cu = s.custodian cu) := by
  have h := withdrawJob_frame r s
  exact ⟨(congrArg (fun x => x.store.slots) h :), (congrArg (fun x => x.store.custodians) h :),
    (congrArg (fun x => x.store.profile) h :), (congrArg (fun x => x.store.registry) h :),
    (congrArg (fun x => x.store.journal) h :), (congrArg (fun x => x.store.steps) h :),
    (congrArg (fun x => x.store.tamperLatch) h :), (congrArg State.line h :), (congrArg State.resetCause h :),
    (congrArg State.stream h :), (congrArg State.ceremony h :), (congrArg State.importWork h :),
    (congrArg State.consoles h :), (congrArg State.benches h :), (congrArg State.outstanding h :),
    (congrArg State.responses h :), (congrArg State.flags h :), (congrArg State.mask h :),
    (congrArg State.frameErrors h :), (congrArg State.overruns h :), (congrArg State.power h :),
    (congrArg State.resetPin h :), (congrArg State.tamperLine h :), (congrArg State.battery h :),
    (congrArg State.powerResetOwed h :), (congrArg State.storeLost h :), (congrArg State.shiftedOut h :),
    (congrArg State.freeCount h :), (congrArg State.pending h :), (congrArg State.journal h :),
    (congrArg State.registry h :), (congrArg State.profile h :), (congrArg State.running h :),
    fun k => (congrArg (State.console k) h :), fun q => (congrArg (State.bench q) h :),
    fun q => (congrArg (State.ctx q) h :), fun j => (congrArg (State.slot j) h :),
    fun q => (congrArg (State.step q) h :), fun cu => (congrArg (State.custodian cu) h :)⟩

/-- `counterEvents` changes at most flags. -/
theorem counterEvents_frame (n : Nat) (s : State) :
    counterEvents n s = { s with
      flags := (counterEvents n s).flags } := by
  apply State.eq_of_fields <;> first | rfl | (simp [counterEvents])

@[simp] theorem counterEvents_keeps (n : Nat) (s : State) :
    (counterEvents n s).store.slots = s.store.slots ∧ (counterEvents n s).store.custodians = s.store.custodians
      ∧ (counterEvents n s).store.profile = s.store.profile ∧ (counterEvents n s).store.registry = s.store.registry
      ∧ (counterEvents n s).store.journal = s.store.journal ∧ (counterEvents n s).store.steps = s.store.steps
      ∧ (counterEvents n s).store.tamperLatch = s.store.tamperLatch ∧ (counterEvents n s).line = s.line
      ∧ (counterEvents n s).resetCause = s.resetCause ∧ (counterEvents n s).stream = s.stream
      ∧ (counterEvents n s).ceremony = s.ceremony ∧ (counterEvents n s).importWork = s.importWork
      ∧ (counterEvents n s).engine = s.engine ∧ (counterEvents n s).consoles = s.consoles
      ∧ (counterEvents n s).benches = s.benches ∧ (counterEvents n s).outstanding = s.outstanding
      ∧ (counterEvents n s).responses = s.responses ∧ (counterEvents n s).mask = s.mask
      ∧ (counterEvents n s).frameErrors = s.frameErrors ∧ (counterEvents n s).overruns = s.overruns
      ∧ (counterEvents n s).power = s.power ∧ (counterEvents n s).resetPin = s.resetPin
      ∧ (counterEvents n s).tamperLine = s.tamperLine ∧ (counterEvents n s).battery = s.battery
      ∧ (counterEvents n s).powerResetOwed = s.powerResetOwed ∧ (counterEvents n s).storeLost = s.storeLost
      ∧ (counterEvents n s).shiftedOut = s.shiftedOut ∧ (counterEvents n s).freeCount = s.freeCount
      ∧ (counterEvents n s).pending = s.pending ∧ (counterEvents n s).journal = s.journal
      ∧ (counterEvents n s).registry = s.registry ∧ (counterEvents n s).profile = s.profile
      ∧ (counterEvents n s).running = s.running ∧ (∀ k, (counterEvents n s).console k = s.console k)
      ∧ (∀ q, (counterEvents n s).bench q = s.bench q) ∧ (∀ q, (counterEvents n s).ctx q = s.ctx q)
      ∧ (∀ j, (counterEvents n s).slot j = s.slot j) ∧ (∀ q, (counterEvents n s).step q = s.step q)
      ∧ (∀ cu, (counterEvents n s).custodian cu = s.custodian cu) := by
  have h := counterEvents_frame n s
  exact ⟨(congrArg (fun x => x.store.slots) h :), (congrArg (fun x => x.store.custodians) h :),
    (congrArg (fun x => x.store.profile) h :), (congrArg (fun x => x.store.registry) h :),
    (congrArg (fun x => x.store.journal) h :), (congrArg (fun x => x.store.steps) h :),
    (congrArg (fun x => x.store.tamperLatch) h :), (congrArg State.line h :), (congrArg State.resetCause h :),
    (congrArg State.stream h :), (congrArg State.ceremony h :), (congrArg State.importWork h :),
    (congrArg State.engine h :), (congrArg State.consoles h :), (congrArg State.benches h :),
    (congrArg State.outstanding h :), (congrArg State.responses h :), (congrArg State.mask h :),
    (congrArg State.frameErrors h :), (congrArg State.overruns h :), (congrArg State.power h :),
    (congrArg State.resetPin h :), (congrArg State.tamperLine h :), (congrArg State.battery h :),
    (congrArg State.powerResetOwed h :), (congrArg State.storeLost h :), (congrArg State.shiftedOut h :),
    (congrArg State.freeCount h :), (congrArg State.pending h :), (congrArg State.journal h :),
    (congrArg State.registry h :), (congrArg State.profile h :), (congrArg State.running h :),
    fun k => (congrArg (State.console k) h :), fun q => (congrArg (State.bench q) h :),
    fun q => (congrArg (State.ctx q) h :), fun j => (congrArg (State.slot j) h :),
    fun q => (congrArg (State.step q) h :), fun cu => (congrArg (State.custodian cu) h :)⟩

/-- `raiseInUse` changes at most slots. -/
theorem raiseInUse_frame (i : SlotIx) (s : State) :
    raiseInUse i s = { s with
      store := { s.store with slots := (raiseInUse i s).store.slots } } := rfl

@[simp] theorem raiseInUse_keeps (i : SlotIx) (s : State) :
    (raiseInUse i s).store.custodians = s.store.custodians ∧ (raiseInUse i s).store.profile = s.store.profile
      ∧ (raiseInUse i s).store.registry = s.store.registry ∧ (raiseInUse i s).store.journal = s.store.journal
      ∧ (raiseInUse i s).store.steps = s.store.steps ∧ (raiseInUse i s).store.tamperLatch = s.store.tamperLatch
      ∧ (raiseInUse i s).line = s.line ∧ (raiseInUse i s).resetCause = s.resetCause
      ∧ (raiseInUse i s).stream = s.stream ∧ (raiseInUse i s).ceremony = s.ceremony
      ∧ (raiseInUse i s).importWork = s.importWork ∧ (raiseInUse i s).engine = s.engine
      ∧ (raiseInUse i s).consoles = s.consoles ∧ (raiseInUse i s).benches = s.benches
      ∧ (raiseInUse i s).outstanding = s.outstanding ∧ (raiseInUse i s).responses = s.responses
      ∧ (raiseInUse i s).flags = s.flags ∧ (raiseInUse i s).mask = s.mask
      ∧ (raiseInUse i s).frameErrors = s.frameErrors ∧ (raiseInUse i s).overruns = s.overruns
      ∧ (raiseInUse i s).power = s.power ∧ (raiseInUse i s).resetPin = s.resetPin
      ∧ (raiseInUse i s).tamperLine = s.tamperLine ∧ (raiseInUse i s).battery = s.battery
      ∧ (raiseInUse i s).powerResetOwed = s.powerResetOwed ∧ (raiseInUse i s).storeLost = s.storeLost
      ∧ (raiseInUse i s).shiftedOut = s.shiftedOut ∧ (raiseInUse i s).freeCount = s.freeCount
      ∧ (raiseInUse i s).pending = s.pending ∧ (raiseInUse i s).journal = s.journal
      ∧ (raiseInUse i s).registry = s.registry ∧ (raiseInUse i s).profile = s.profile
      ∧ (raiseInUse i s).running = s.running ∧ (∀ k, (raiseInUse i s).console k = s.console k)
      ∧ (∀ q, (raiseInUse i s).bench q = s.bench q) ∧ (∀ q, (raiseInUse i s).ctx q = s.ctx q)
      ∧ (∀ q, (raiseInUse i s).step q = s.step q) ∧ (∀ cu, (raiseInUse i s).custodian cu = s.custodian cu) := by
  have h := raiseInUse_frame i s
  exact ⟨(congrArg (fun x => x.store.custodians) h :), (congrArg (fun x => x.store.profile) h :),
    (congrArg (fun x => x.store.registry) h :), (congrArg (fun x => x.store.journal) h :),
    (congrArg (fun x => x.store.steps) h :), (congrArg (fun x => x.store.tamperLatch) h :),
    (congrArg State.line h :), (congrArg State.resetCause h :), (congrArg State.stream h :),
    (congrArg State.ceremony h :), (congrArg State.importWork h :), (congrArg State.engine h :),
    (congrArg State.consoles h :), (congrArg State.benches h :), (congrArg State.outstanding h :),
    (congrArg State.responses h :), (congrArg State.flags h :), (congrArg State.mask h :),
    (congrArg State.frameErrors h :), (congrArg State.overruns h :), (congrArg State.power h :),
    (congrArg State.resetPin h :), (congrArg State.tamperLine h :), (congrArg State.battery h :),
    (congrArg State.powerResetOwed h :), (congrArg State.storeLost h :), (congrArg State.shiftedOut h :),
    (congrArg State.freeCount h :), (congrArg State.pending h :), (congrArg State.journal h :),
    (congrArg State.registry h :), (congrArg State.profile h :), (congrArg State.running h :),
    fun k => (congrArg (State.console k) h :), fun q => (congrArg (State.bench q) h :),
    fun q => (congrArg (State.ctx q) h :), fun q => (congrArg (State.step q) h :),
    fun cu => (congrArg (State.custodian cu) h :)⟩

/-- `reserveSlot` changes at most slots. -/
theorem reserveSlot_frame (h : Holder) (i : SlotIx) (s : State) :
    reserveSlot h i s = { s with
      store := { s.store with slots := (reserveSlot h i s).store.slots } } := rfl

@[simp] theorem reserveSlot_keeps (h : Holder) (i : SlotIx) (s : State) :
    (reserveSlot h i s).store.custodians = s.store.custodians ∧ (reserveSlot h i s).store.profile = s.store.profile
      ∧ (reserveSlot h i s).store.registry = s.store.registry ∧ (reserveSlot h i s).store.journal = s.store.journal
      ∧ (reserveSlot h i s).store.steps = s.store.steps ∧ (reserveSlot h i s).store.tamperLatch = s.store.tamperLatch
      ∧ (reserveSlot h i s).line = s.line ∧ (reserveSlot h i s).resetCause = s.resetCause
      ∧ (reserveSlot h i s).stream = s.stream ∧ (reserveSlot h i s).ceremony = s.ceremony
      ∧ (reserveSlot h i s).importWork = s.importWork ∧ (reserveSlot h i s).engine = s.engine
      ∧ (reserveSlot h i s).consoles = s.consoles ∧ (reserveSlot h i s).benches = s.benches
      ∧ (reserveSlot h i s).outstanding = s.outstanding ∧ (reserveSlot h i s).responses = s.responses
      ∧ (reserveSlot h i s).flags = s.flags ∧ (reserveSlot h i s).mask = s.mask
      ∧ (reserveSlot h i s).frameErrors = s.frameErrors ∧ (reserveSlot h i s).overruns = s.overruns
      ∧ (reserveSlot h i s).power = s.power ∧ (reserveSlot h i s).resetPin = s.resetPin
      ∧ (reserveSlot h i s).tamperLine = s.tamperLine ∧ (reserveSlot h i s).battery = s.battery
      ∧ (reserveSlot h i s).powerResetOwed = s.powerResetOwed ∧ (reserveSlot h i s).storeLost = s.storeLost
      ∧ (reserveSlot h i s).shiftedOut = s.shiftedOut ∧ (reserveSlot h i s).freeCount = s.freeCount
      ∧ (reserveSlot h i s).pending = s.pending ∧ (reserveSlot h i s).journal = s.journal
      ∧ (reserveSlot h i s).registry = s.registry ∧ (reserveSlot h i s).profile = s.profile
      ∧ (reserveSlot h i s).running = s.running ∧ (∀ k, (reserveSlot h i s).console k = s.console k)
      ∧ (∀ q, (reserveSlot h i s).bench q = s.bench q) ∧ (∀ q, (reserveSlot h i s).ctx q = s.ctx q)
      ∧ (∀ q, (reserveSlot h i s).step q = s.step q) ∧ (∀ cu, (reserveSlot h i s).custodian cu = s.custodian cu) := by
  have h := reserveSlot_frame h i s
  exact ⟨(congrArg (fun x => x.store.custodians) h :), (congrArg (fun x => x.store.profile) h :),
    (congrArg (fun x => x.store.registry) h :), (congrArg (fun x => x.store.journal) h :),
    (congrArg (fun x => x.store.steps) h :), (congrArg (fun x => x.store.tamperLatch) h :),
    (congrArg State.line h :), (congrArg State.resetCause h :), (congrArg State.stream h :),
    (congrArg State.ceremony h :), (congrArg State.importWork h :), (congrArg State.engine h :),
    (congrArg State.consoles h :), (congrArg State.benches h :), (congrArg State.outstanding h :),
    (congrArg State.responses h :), (congrArg State.flags h :), (congrArg State.mask h :),
    (congrArg State.frameErrors h :), (congrArg State.overruns h :), (congrArg State.power h :),
    (congrArg State.resetPin h :), (congrArg State.tamperLine h :), (congrArg State.battery h :),
    (congrArg State.powerResetOwed h :), (congrArg State.storeLost h :), (congrArg State.shiftedOut h :),
    (congrArg State.freeCount h :), (congrArg State.pending h :), (congrArg State.journal h :),
    (congrArg State.registry h :), (congrArg State.profile h :), (congrArg State.running h :),
    fun k => (congrArg (State.console k) h :), fun q => (congrArg (State.bench q) h :),
    fun q => (congrArg (State.ctx q) h :), fun q => (congrArg (State.step q) h :),
    fun cu => (congrArg (State.custodian cu) h :)⟩

/-- `abandonSlot` changes at most slots. -/
theorem abandonSlot_frame (h : Holder) (i : SlotIx) (s : State) :
    abandonSlot h i s = { s with
      store := { s.store with slots := (abandonSlot h i s).store.slots } } := by
  unfold abandonSlot; split <;> rfl

@[simp] theorem abandonSlot_keeps (h : Holder) (i : SlotIx) (s : State) :
    (abandonSlot h i s).store.custodians = s.store.custodians ∧ (abandonSlot h i s).store.profile = s.store.profile
      ∧ (abandonSlot h i s).store.registry = s.store.registry ∧ (abandonSlot h i s).store.journal = s.store.journal
      ∧ (abandonSlot h i s).store.steps = s.store.steps ∧ (abandonSlot h i s).store.tamperLatch = s.store.tamperLatch
      ∧ (abandonSlot h i s).line = s.line ∧ (abandonSlot h i s).resetCause = s.resetCause
      ∧ (abandonSlot h i s).stream = s.stream ∧ (abandonSlot h i s).ceremony = s.ceremony
      ∧ (abandonSlot h i s).importWork = s.importWork ∧ (abandonSlot h i s).engine = s.engine
      ∧ (abandonSlot h i s).consoles = s.consoles ∧ (abandonSlot h i s).benches = s.benches
      ∧ (abandonSlot h i s).outstanding = s.outstanding ∧ (abandonSlot h i s).responses = s.responses
      ∧ (abandonSlot h i s).flags = s.flags ∧ (abandonSlot h i s).mask = s.mask
      ∧ (abandonSlot h i s).frameErrors = s.frameErrors ∧ (abandonSlot h i s).overruns = s.overruns
      ∧ (abandonSlot h i s).power = s.power ∧ (abandonSlot h i s).resetPin = s.resetPin
      ∧ (abandonSlot h i s).tamperLine = s.tamperLine ∧ (abandonSlot h i s).battery = s.battery
      ∧ (abandonSlot h i s).powerResetOwed = s.powerResetOwed ∧ (abandonSlot h i s).storeLost = s.storeLost
      ∧ (abandonSlot h i s).shiftedOut = s.shiftedOut ∧ (abandonSlot h i s).freeCount = s.freeCount
      ∧ (abandonSlot h i s).pending = s.pending ∧ (abandonSlot h i s).journal = s.journal
      ∧ (abandonSlot h i s).registry = s.registry ∧ (abandonSlot h i s).profile = s.profile
      ∧ (abandonSlot h i s).running = s.running ∧ (∀ k, (abandonSlot h i s).console k = s.console k)
      ∧ (∀ q, (abandonSlot h i s).bench q = s.bench q) ∧ (∀ q, (abandonSlot h i s).ctx q = s.ctx q)
      ∧ (∀ q, (abandonSlot h i s).step q = s.step q) ∧ (∀ cu, (abandonSlot h i s).custodian cu = s.custodian cu) := by
  have h := abandonSlot_frame h i s
  exact ⟨(congrArg (fun x => x.store.custodians) h :), (congrArg (fun x => x.store.profile) h :),
    (congrArg (fun x => x.store.registry) h :), (congrArg (fun x => x.store.journal) h :),
    (congrArg (fun x => x.store.steps) h :), (congrArg (fun x => x.store.tamperLatch) h :),
    (congrArg State.line h :), (congrArg State.resetCause h :), (congrArg State.stream h :),
    (congrArg State.ceremony h :), (congrArg State.importWork h :), (congrArg State.engine h :),
    (congrArg State.consoles h :), (congrArg State.benches h :), (congrArg State.outstanding h :),
    (congrArg State.responses h :), (congrArg State.flags h :), (congrArg State.mask h :),
    (congrArg State.frameErrors h :), (congrArg State.overruns h :), (congrArg State.power h :),
    (congrArg State.resetPin h :), (congrArg State.tamperLine h :), (congrArg State.battery h :),
    (congrArg State.powerResetOwed h :), (congrArg State.storeLost h :), (congrArg State.shiftedOut h :),
    (congrArg State.freeCount h :), (congrArg State.pending h :), (congrArg State.journal h :),
    (congrArg State.registry h :), (congrArg State.profile h :), (congrArg State.running h :),
    fun k => (congrArg (State.console k) h :), fun q => (congrArg (State.bench q) h :),
    fun q => (congrArg (State.ctx q) h :), fun q => (congrArg (State.step q) h :),
    fun cu => (congrArg (State.custodian cu) h :)⟩

/-- `installKey` changes at most slots, journal. -/
theorem installKey_frame (h : Holder) (r : ResHolder) (i : SlotIx) (key : HeldKey) (origin : KeyOrigin) (s : State) :
    installKey h r i key origin s = { s with
      store := { s.store with slots := (installKey h r i key origin s).store.slots, journal := (installKey h r i key origin s).store.journal } } := by
  apply State.eq_of_fields <;> first | rfl | (unfold installKey; simp only []; split <;> simp)

@[simp] theorem installKey_keeps (h : Holder) (r : ResHolder) (i : SlotIx) (key : HeldKey) (origin : KeyOrigin) (s : State) :
    (installKey h r i key origin s).store.custodians = s.store.custodians
      ∧ (installKey h r i key origin s).store.profile = s.store.profile
      ∧ (installKey h r i key origin s).store.registry = s.store.registry
      ∧ (installKey h r i key origin s).store.steps = s.store.steps
      ∧ (installKey h r i key origin s).store.tamperLatch = s.store.tamperLatch
      ∧ (installKey h r i key origin s).line = s.line ∧ (installKey h r i key origin s).resetCause = s.resetCause
      ∧ (installKey h r i key origin s).stream = s.stream ∧ (installKey h r i key origin s).ceremony = s.ceremony
      ∧ (installKey h r i key origin s).importWork = s.importWork ∧ (installKey h r i key origin s).engine = s.engine
      ∧ (installKey h r i key origin s).consoles = s.consoles ∧ (installKey h r i key origin s).benches = s.benches
      ∧ (installKey h r i key origin s).outstanding = s.outstanding
      ∧ (installKey h r i key origin s).responses = s.responses ∧ (installKey h r i key origin s).flags = s.flags
      ∧ (installKey h r i key origin s).mask = s.mask ∧ (installKey h r i key origin s).frameErrors = s.frameErrors
      ∧ (installKey h r i key origin s).overruns = s.overruns ∧ (installKey h r i key origin s).power = s.power
      ∧ (installKey h r i key origin s).resetPin = s.resetPin
      ∧ (installKey h r i key origin s).tamperLine = s.tamperLine
      ∧ (installKey h r i key origin s).battery = s.battery
      ∧ (installKey h r i key origin s).powerResetOwed = s.powerResetOwed
      ∧ (installKey h r i key origin s).storeLost = s.storeLost
      ∧ (installKey h r i key origin s).shiftedOut = s.shiftedOut
      ∧ (installKey h r i key origin s).freeCount = s.freeCount ∧ (installKey h r i key origin s).pending = s.pending
      ∧ (installKey h r i key origin s).registry = s.registry ∧ (installKey h r i key origin s).profile = s.profile
      ∧ (installKey h r i key origin s).running = s.running
      ∧ (∀ k, (installKey h r i key origin s).console k = s.console k)
      ∧ (∀ q, (installKey h r i key origin s).bench q = s.bench q)
      ∧ (∀ q, (installKey h r i key origin s).ctx q = s.ctx q)
      ∧ (∀ q, (installKey h r i key origin s).step q = s.step q)
      ∧ (∀ cu, (installKey h r i key origin s).custodian cu = s.custodian cu) := by
  have h := installKey_frame h r i key origin s
  exact ⟨(congrArg (fun x => x.store.custodians) h :), (congrArg (fun x => x.store.profile) h :),
    (congrArg (fun x => x.store.registry) h :), (congrArg (fun x => x.store.steps) h :),
    (congrArg (fun x => x.store.tamperLatch) h :), (congrArg State.line h :), (congrArg State.resetCause h :),
    (congrArg State.stream h :), (congrArg State.ceremony h :), (congrArg State.importWork h :),
    (congrArg State.engine h :), (congrArg State.consoles h :), (congrArg State.benches h :),
    (congrArg State.outstanding h :), (congrArg State.responses h :), (congrArg State.flags h :),
    (congrArg State.mask h :), (congrArg State.frameErrors h :), (congrArg State.overruns h :),
    (congrArg State.power h :), (congrArg State.resetPin h :), (congrArg State.tamperLine h :),
    (congrArg State.battery h :), (congrArg State.powerResetOwed h :), (congrArg State.storeLost h :),
    (congrArg State.shiftedOut h :), (congrArg State.freeCount h :), (congrArg State.pending h :),
    (congrArg State.registry h :), (congrArg State.profile h :), (congrArg State.running h :),
    fun k => (congrArg (State.console k) h :), fun q => (congrArg (State.bench q) h :),
    fun q => (congrArg (State.ctx q) h :), fun q => (congrArg (State.step q) h :),
    fun cu => (congrArg (State.custodian cu) h :)⟩

/-- `finishCeremony` changes at most ceremony, consoles, flags. -/
theorem finishCeremony_frame (w : CeremonyWork) (result : CeremonyResult) (run : CeremonyRun) (s : State) :
    finishCeremony w result run s = { s with
      ceremony := (finishCeremony w result run s).ceremony
      consoles := (finishCeremony w result run s).consoles
      flags := (finishCeremony w result run s).flags } := by
  apply State.eq_of_fields <;> first | rfl | (simp [finishCeremony])

@[simp] theorem finishCeremony_keeps (w : CeremonyWork) (result : CeremonyResult) (run : CeremonyRun) (s : State) :
    (finishCeremony w result run s).store.slots = s.store.slots
      ∧ (finishCeremony w result run s).store.custodians = s.store.custodians
      ∧ (finishCeremony w result run s).store.profile = s.store.profile
      ∧ (finishCeremony w result run s).store.registry = s.store.registry
      ∧ (finishCeremony w result run s).store.journal = s.store.journal
      ∧ (finishCeremony w result run s).store.steps = s.store.steps
      ∧ (finishCeremony w result run s).store.tamperLatch = s.store.tamperLatch
      ∧ (finishCeremony w result run s).line = s.line ∧ (finishCeremony w result run s).resetCause = s.resetCause
      ∧ (finishCeremony w result run s).stream = s.stream ∧ (finishCeremony w result run s).importWork = s.importWork
      ∧ (finishCeremony w result run s).engine = s.engine ∧ (finishCeremony w result run s).benches = s.benches
      ∧ (finishCeremony w result run s).outstanding = s.outstanding
      ∧ (finishCeremony w result run s).responses = s.responses ∧ (finishCeremony w result run s).mask = s.mask
      ∧ (finishCeremony w result run s).frameErrors = s.frameErrors
      ∧ (finishCeremony w result run s).overruns = s.overruns ∧ (finishCeremony w result run s).power = s.power
      ∧ (finishCeremony w result run s).resetPin = s.resetPin
      ∧ (finishCeremony w result run s).tamperLine = s.tamperLine
      ∧ (finishCeremony w result run s).battery = s.battery
      ∧ (finishCeremony w result run s).powerResetOwed = s.powerResetOwed
      ∧ (finishCeremony w result run s).storeLost = s.storeLost
      ∧ (finishCeremony w result run s).shiftedOut = s.shiftedOut
      ∧ (finishCeremony w result run s).freeCount = s.freeCount ∧ (finishCeremony w result run s).pending = s.pending
      ∧ (finishCeremony w result run s).journal = s.journal ∧ (finishCeremony w result run s).registry = s.registry
      ∧ (finishCeremony w result run s).profile = s.profile ∧ (finishCeremony w result run s).running = s.running
      ∧ (∀ q, (finishCeremony w result run s).bench q = s.bench q)
      ∧ (∀ q, (finishCeremony w result run s).ctx q = s.ctx q)
      ∧ (∀ j, (finishCeremony w result run s).slot j = s.slot j)
      ∧ (∀ q, (finishCeremony w result run s).step q = s.step q)
      ∧ (∀ cu, (finishCeremony w result run s).custodian cu = s.custodian cu) := by
  have h := finishCeremony_frame w result run s
  exact ⟨(congrArg (fun x => x.store.slots) h :), (congrArg (fun x => x.store.custodians) h :),
    (congrArg (fun x => x.store.profile) h :), (congrArg (fun x => x.store.registry) h :),
    (congrArg (fun x => x.store.journal) h :), (congrArg (fun x => x.store.steps) h :),
    (congrArg (fun x => x.store.tamperLatch) h :), (congrArg State.line h :), (congrArg State.resetCause h :),
    (congrArg State.stream h :), (congrArg State.importWork h :), (congrArg State.engine h :),
    (congrArg State.benches h :), (congrArg State.outstanding h :), (congrArg State.responses h :),
    (congrArg State.mask h :), (congrArg State.frameErrors h :), (congrArg State.overruns h :),
    (congrArg State.power h :), (congrArg State.resetPin h :), (congrArg State.tamperLine h :),
    (congrArg State.battery h :), (congrArg State.powerResetOwed h :), (congrArg State.storeLost h :),
    (congrArg State.shiftedOut h :), (congrArg State.freeCount h :), (congrArg State.pending h :),
    (congrArg State.journal h :), (congrArg State.registry h :), (congrArg State.profile h :),
    (congrArg State.running h :), fun q => (congrArg (State.bench q) h :), fun q => (congrArg (State.ctx q) h :),
    fun j => (congrArg (State.slot j) h :), fun q => (congrArg (State.step q) h :),
    fun cu => (congrArg (State.custodian cu) h :)⟩

/-- `completeErasure` changes at most slots, journal, ceremony, consoles, flags. -/
theorem completeErasure_frame (i : SlotIx) (s : State) :
    completeErasure i s = { s with
      store := { s.store with slots := (completeErasure i s).store.slots, journal := (completeErasure i s).store.journal }
      ceremony := (completeErasure i s).ceremony
      consoles := (completeErasure i s).consoles
      flags := (completeErasure i s).flags } := by
  apply State.eq_of_fields <;> first | rfl | (unfold completeErasure; simp only []; split <;> (try split) <;> simp)

@[simp] theorem completeErasure_keeps (i : SlotIx) (s : State) :
    (completeErasure i s).store.custodians = s.store.custodians
      ∧ (completeErasure i s).store.profile = s.store.profile
      ∧ (completeErasure i s).store.registry = s.store.registry ∧ (completeErasure i s).store.steps = s.store.steps
      ∧ (completeErasure i s).store.tamperLatch = s.store.tamperLatch ∧ (completeErasure i s).line = s.line
      ∧ (completeErasure i s).resetCause = s.resetCause ∧ (completeErasure i s).stream = s.stream
      ∧ (completeErasure i s).importWork = s.importWork ∧ (completeErasure i s).engine = s.engine
      ∧ (completeErasure i s).benches = s.benches ∧ (completeErasure i s).outstanding = s.outstanding
      ∧ (completeErasure i s).responses = s.responses ∧ (completeErasure i s).mask = s.mask
      ∧ (completeErasure i s).frameErrors = s.frameErrors ∧ (completeErasure i s).overruns = s.overruns
      ∧ (completeErasure i s).power = s.power ∧ (completeErasure i s).resetPin = s.resetPin
      ∧ (completeErasure i s).tamperLine = s.tamperLine ∧ (completeErasure i s).battery = s.battery
      ∧ (completeErasure i s).powerResetOwed = s.powerResetOwed ∧ (completeErasure i s).storeLost = s.storeLost
      ∧ (completeErasure i s).shiftedOut = s.shiftedOut ∧ (completeErasure i s).freeCount = s.freeCount
      ∧ (completeErasure i s).pending = s.pending ∧ (completeErasure i s).registry = s.registry
      ∧ (completeErasure i s).profile = s.profile ∧ (completeErasure i s).running = s.running
      ∧ (∀ q, (completeErasure i s).bench q = s.bench q) ∧ (∀ q, (completeErasure i s).ctx q = s.ctx q)
      ∧ (∀ q, (completeErasure i s).step q = s.step q) ∧ (∀ cu, (completeErasure i s).custodian cu = s.custodian cu) := by
  have h := completeErasure_frame i s
  exact ⟨(congrArg (fun x => x.store.custodians) h :), (congrArg (fun x => x.store.profile) h :),
    (congrArg (fun x => x.store.registry) h :), (congrArg (fun x => x.store.steps) h :),
    (congrArg (fun x => x.store.tamperLatch) h :), (congrArg State.line h :), (congrArg State.resetCause h :),
    (congrArg State.stream h :), (congrArg State.importWork h :), (congrArg State.engine h :),
    (congrArg State.benches h :), (congrArg State.outstanding h :), (congrArg State.responses h :),
    (congrArg State.mask h :), (congrArg State.frameErrors h :), (congrArg State.overruns h :),
    (congrArg State.power h :), (congrArg State.resetPin h :), (congrArg State.tamperLine h :),
    (congrArg State.battery h :), (congrArg State.powerResetOwed h :), (congrArg State.storeLost h :),
    (congrArg State.shiftedOut h :), (congrArg State.freeCount h :), (congrArg State.pending h :),
    (congrArg State.registry h :), (congrArg State.profile h :), (congrArg State.running h :),
    fun q => (congrArg (State.bench q) h :), fun q => (congrArg (State.ctx q) h :),
    fun q => (congrArg (State.step q) h :), fun cu => (congrArg (State.custodian cu) h :)⟩

/-- `lowerInUse` changes at most slots, journal, ceremony, consoles, flags. -/
theorem lowerInUse_frame (i : SlotIx) (s : State) :
    lowerInUse i s = { s with
      store := { s.store with slots := (lowerInUse i s).store.slots, journal := (lowerInUse i s).store.journal }
      ceremony := (lowerInUse i s).ceremony
      consoles := (lowerInUse i s).consoles
      flags := (lowerInUse i s).flags } := by
  apply State.eq_of_fields <;> first | rfl | (unfold lowerInUse; simp only []; split <;> (try split) <;> simp)

@[simp] theorem lowerInUse_keeps (i : SlotIx) (s : State) :
    (lowerInUse i s).store.custodians = s.store.custodians ∧ (lowerInUse i s).store.profile = s.store.profile
      ∧ (lowerInUse i s).store.registry = s.store.registry ∧ (lowerInUse i s).store.steps = s.store.steps
      ∧ (lowerInUse i s).store.tamperLatch = s.store.tamperLatch ∧ (lowerInUse i s).line = s.line
      ∧ (lowerInUse i s).resetCause = s.resetCause ∧ (lowerInUse i s).stream = s.stream
      ∧ (lowerInUse i s).importWork = s.importWork ∧ (lowerInUse i s).engine = s.engine
      ∧ (lowerInUse i s).benches = s.benches ∧ (lowerInUse i s).outstanding = s.outstanding
      ∧ (lowerInUse i s).responses = s.responses ∧ (lowerInUse i s).mask = s.mask
      ∧ (lowerInUse i s).frameErrors = s.frameErrors ∧ (lowerInUse i s).overruns = s.overruns
      ∧ (lowerInUse i s).power = s.power ∧ (lowerInUse i s).resetPin = s.resetPin
      ∧ (lowerInUse i s).tamperLine = s.tamperLine ∧ (lowerInUse i s).battery = s.battery
      ∧ (lowerInUse i s).powerResetOwed = s.powerResetOwed ∧ (lowerInUse i s).storeLost = s.storeLost
      ∧ (lowerInUse i s).shiftedOut = s.shiftedOut ∧ (lowerInUse i s).freeCount = s.freeCount
      ∧ (lowerInUse i s).pending = s.pending ∧ (lowerInUse i s).registry = s.registry
      ∧ (lowerInUse i s).profile = s.profile ∧ (lowerInUse i s).running = s.running
      ∧ (∀ q, (lowerInUse i s).bench q = s.bench q) ∧ (∀ q, (lowerInUse i s).ctx q = s.ctx q)
      ∧ (∀ q, (lowerInUse i s).step q = s.step q) ∧ (∀ cu, (lowerInUse i s).custodian cu = s.custodian cu) := by
  have h := lowerInUse_frame i s
  exact ⟨(congrArg (fun x => x.store.custodians) h :), (congrArg (fun x => x.store.profile) h :),
    (congrArg (fun x => x.store.registry) h :), (congrArg (fun x => x.store.steps) h :),
    (congrArg (fun x => x.store.tamperLatch) h :), (congrArg State.line h :), (congrArg State.resetCause h :),
    (congrArg State.stream h :), (congrArg State.importWork h :), (congrArg State.engine h :),
    (congrArg State.benches h :), (congrArg State.outstanding h :), (congrArg State.responses h :),
    (congrArg State.mask h :), (congrArg State.frameErrors h :), (congrArg State.overruns h :),
    (congrArg State.power h :), (congrArg State.resetPin h :), (congrArg State.tamperLine h :),
    (congrArg State.battery h :), (congrArg State.powerResetOwed h :), (congrArg State.storeLost h :),
    (congrArg State.shiftedOut h :), (congrArg State.freeCount h :), (congrArg State.pending h :),
    (congrArg State.registry h :), (congrArg State.profile h :), (congrArg State.running h :),
    fun q => (congrArg (State.bench q) h :), fun q => (congrArg (State.ctx q) h :),
    fun q => (congrArg (State.step q) h :), fun cu => (congrArg (State.custodian cu) h :)⟩

/-- `endStep` changes at most slots, journal, steps, ceremony, consoles, flags. -/
theorem endStep_frame (p : Port) (ps : PendingStep) (body : RecordBody) (s : State) :
    endStep p ps body s = { s with
      store := { s.store with slots := (endStep p ps body s).store.slots, journal := (endStep p ps body s).store.journal, steps := (endStep p ps body s).store.steps }
      ceremony := (endStep p ps body s).ceremony
      consoles := (endStep p ps body s).consoles
      flags := (endStep p ps body s).flags } := by
  apply State.eq_of_fields <;> first | rfl | (simp [endStep])

@[simp] theorem endStep_keeps (p : Port) (ps : PendingStep) (body : RecordBody) (s : State) :
    (endStep p ps body s).store.custodians = s.store.custodians
      ∧ (endStep p ps body s).store.profile = s.store.profile
      ∧ (endStep p ps body s).store.registry = s.store.registry
      ∧ (endStep p ps body s).store.tamperLatch = s.store.tamperLatch ∧ (endStep p ps body s).line = s.line
      ∧ (endStep p ps body s).resetCause = s.resetCause ∧ (endStep p ps body s).stream = s.stream
      ∧ (endStep p ps body s).importWork = s.importWork ∧ (endStep p ps body s).engine = s.engine
      ∧ (endStep p ps body s).benches = s.benches ∧ (endStep p ps body s).outstanding = s.outstanding
      ∧ (endStep p ps body s).responses = s.responses ∧ (endStep p ps body s).mask = s.mask
      ∧ (endStep p ps body s).frameErrors = s.frameErrors ∧ (endStep p ps body s).overruns = s.overruns
      ∧ (endStep p ps body s).power = s.power ∧ (endStep p ps body s).resetPin = s.resetPin
      ∧ (endStep p ps body s).tamperLine = s.tamperLine ∧ (endStep p ps body s).battery = s.battery
      ∧ (endStep p ps body s).powerResetOwed = s.powerResetOwed ∧ (endStep p ps body s).storeLost = s.storeLost
      ∧ (endStep p ps body s).shiftedOut = s.shiftedOut ∧ (endStep p ps body s).freeCount = s.freeCount
      ∧ (endStep p ps body s).pending = s.pending ∧ (endStep p ps body s).registry = s.registry
      ∧ (endStep p ps body s).profile = s.profile ∧ (endStep p ps body s).running = s.running
      ∧ (∀ q, (endStep p ps body s).bench q = s.bench q) ∧ (∀ q, (endStep p ps body s).ctx q = s.ctx q)
      ∧ (∀ cu, (endStep p ps body s).custodian cu = s.custodian cu) := by
  have h := endStep_frame p ps body s
  exact ⟨(congrArg (fun x => x.store.custodians) h :), (congrArg (fun x => x.store.profile) h :),
    (congrArg (fun x => x.store.registry) h :), (congrArg (fun x => x.store.tamperLatch) h :),
    (congrArg State.line h :), (congrArg State.resetCause h :), (congrArg State.stream h :),
    (congrArg State.importWork h :), (congrArg State.engine h :), (congrArg State.benches h :),
    (congrArg State.outstanding h :), (congrArg State.responses h :), (congrArg State.mask h :),
    (congrArg State.frameErrors h :), (congrArg State.overruns h :), (congrArg State.power h :),
    (congrArg State.resetPin h :), (congrArg State.tamperLine h :), (congrArg State.battery h :),
    (congrArg State.powerResetOwed h :), (congrArg State.storeLost h :), (congrArg State.shiftedOut h :),
    (congrArg State.freeCount h :), (congrArg State.pending h :), (congrArg State.registry h :),
    (congrArg State.profile h :), (congrArg State.running h :), fun q => (congrArg (State.bench q) h :),
    fun q => (congrArg (State.ctx q) h :), fun cu => (congrArg (State.custodian cu) h :)⟩

/-- `voidStep` changes at most slots, journal, steps, ceremony, consoles, flags. -/
theorem voidStep_frame (p : Port) (kcv : PendingStep → Option Kcv) (reason : VoidReason) (s : State) :
    voidStep p kcv reason s = { s with
      store := { s.store with slots := (voidStep p kcv reason s).store.slots, journal := (voidStep p kcv reason s).store.journal, steps := (voidStep p kcv reason s).store.steps }
      ceremony := (voidStep p kcv reason s).ceremony
      consoles := (voidStep p kcv reason s).consoles
      flags := (voidStep p kcv reason s).flags } := by
  apply State.eq_of_fields <;> first | rfl | (unfold voidStep; split <;> simp)

@[simp] theorem voidStep_keeps (p : Port) (kcv : PendingStep → Option Kcv) (reason : VoidReason) (s : State) :
    (voidStep p kcv reason s).store.custodians = s.store.custodians
      ∧ (voidStep p kcv reason s).store.profile = s.store.profile
      ∧ (voidStep p kcv reason s).store.registry = s.store.registry
      ∧ (voidStep p kcv reason s).store.tamperLatch = s.store.tamperLatch ∧ (voidStep p kcv reason s).line = s.line
      ∧ (voidStep p kcv reason s).resetCause = s.resetCause ∧ (voidStep p kcv reason s).stream = s.stream
      ∧ (voidStep p kcv reason s).importWork = s.importWork ∧ (voidStep p kcv reason s).engine = s.engine
      ∧ (voidStep p kcv reason s).benches = s.benches ∧ (voidStep p kcv reason s).outstanding = s.outstanding
      ∧ (voidStep p kcv reason s).responses = s.responses ∧ (voidStep p kcv reason s).mask = s.mask
      ∧ (voidStep p kcv reason s).frameErrors = s.frameErrors ∧ (voidStep p kcv reason s).overruns = s.overruns
      ∧ (voidStep p kcv reason s).power = s.power ∧ (voidStep p kcv reason s).resetPin = s.resetPin
      ∧ (voidStep p kcv reason s).tamperLine = s.tamperLine ∧ (voidStep p kcv reason s).battery = s.battery
      ∧ (voidStep p kcv reason s).powerResetOwed = s.powerResetOwed
      ∧ (voidStep p kcv reason s).storeLost = s.storeLost ∧ (voidStep p kcv reason s).shiftedOut = s.shiftedOut
      ∧ (voidStep p kcv reason s).freeCount = s.freeCount ∧ (voidStep p kcv reason s).pending = s.pending
      ∧ (voidStep p kcv reason s).registry = s.registry ∧ (voidStep p kcv reason s).profile = s.profile
      ∧ (voidStep p kcv reason s).running = s.running ∧ (∀ q, (voidStep p kcv reason s).bench q = s.bench q)
      ∧ (∀ q, (voidStep p kcv reason s).ctx q = s.ctx q)
      ∧ (∀ cu, (voidStep p kcv reason s).custodian cu = s.custodian cu) := by
  have h := voidStep_frame p kcv reason s
  exact ⟨(congrArg (fun x => x.store.custodians) h :), (congrArg (fun x => x.store.profile) h :),
    (congrArg (fun x => x.store.registry) h :), (congrArg (fun x => x.store.tamperLatch) h :),
    (congrArg State.line h :), (congrArg State.resetCause h :), (congrArg State.stream h :),
    (congrArg State.importWork h :), (congrArg State.engine h :), (congrArg State.benches h :),
    (congrArg State.outstanding h :), (congrArg State.responses h :), (congrArg State.mask h :),
    (congrArg State.frameErrors h :), (congrArg State.overruns h :), (congrArg State.power h :),
    (congrArg State.resetPin h :), (congrArg State.tamperLine h :), (congrArg State.battery h :),
    (congrArg State.powerResetOwed h :), (congrArg State.storeLost h :), (congrArg State.shiftedOut h :),
    (congrArg State.freeCount h :), (congrArg State.pending h :), (congrArg State.registry h :),
    (congrArg State.profile h :), (congrArg State.running h :), fun q => (congrArg (State.bench q) h :),
    fun q => (congrArg (State.ctx q) h :), fun cu => (congrArg (State.custodian cu) h :)⟩

/-- `abortCeremony` changes at most slots, journal, ceremony, engine, consoles, flags. -/
theorem abortCeremony_frame (reason : AbortReason) (leaver : Option Cust) (w : CeremonyWork) (s : State) :
    abortCeremony reason leaver w s = { s with
      store := { s.store with slots := (abortCeremony reason leaver w s).store.slots, journal := (abortCeremony reason leaver w s).store.journal }
      ceremony := (abortCeremony reason leaver w s).ceremony
      engine := (abortCeremony reason leaver w s).engine
      consoles := (abortCeremony reason leaver w s).consoles
      flags := (abortCeremony reason leaver w s).flags } := by
  apply State.eq_of_fields <;> first | rfl | (unfold abortCeremony; simp only []; split <;> split <;> simp)

@[simp] theorem abortCeremony_keeps (reason : AbortReason) (leaver : Option Cust) (w : CeremonyWork) (s : State) :
    (abortCeremony reason leaver w s).store.custodians = s.store.custodians
      ∧ (abortCeremony reason leaver w s).store.profile = s.store.profile
      ∧ (abortCeremony reason leaver w s).store.registry = s.store.registry
      ∧ (abortCeremony reason leaver w s).store.steps = s.store.steps
      ∧ (abortCeremony reason leaver w s).store.tamperLatch = s.store.tamperLatch
      ∧ (abortCeremony reason leaver w s).line = s.line ∧ (abortCeremony reason leaver w s).resetCause = s.resetCause
      ∧ (abortCeremony reason leaver w s).stream = s.stream
      ∧ (abortCeremony reason leaver w s).importWork = s.importWork
      ∧ (abortCeremony reason leaver w s).benches = s.benches
      ∧ (abortCeremony reason leaver w s).outstanding = s.outstanding
      ∧ (abortCeremony reason leaver w s).responses = s.responses ∧ (abortCeremony reason leaver w s).mask = s.mask
      ∧ (abortCeremony reason leaver w s).frameErrors = s.frameErrors
      ∧ (abortCeremony reason leaver w s).overruns = s.overruns ∧ (abortCeremony reason leaver w s).power = s.power
      ∧ (abortCeremony reason leaver w s).resetPin = s.resetPin
      ∧ (abortCeremony reason leaver w s).tamperLine = s.tamperLine
      ∧ (abortCeremony reason leaver w s).battery = s.battery
      ∧ (abortCeremony reason leaver w s).powerResetOwed = s.powerResetOwed
      ∧ (abortCeremony reason leaver w s).storeLost = s.storeLost
      ∧ (abortCeremony reason leaver w s).shiftedOut = s.shiftedOut
      ∧ (abortCeremony reason leaver w s).freeCount = s.freeCount
      ∧ (abortCeremony reason leaver w s).pending = s.pending
      ∧ (abortCeremony reason leaver w s).registry = s.registry
      ∧ (abortCeremony reason leaver w s).profile = s.profile ∧ (abortCeremony reason leaver w s).running = s.running
      ∧ (∀ q, (abortCeremony reason leaver w s).bench q = s.bench q)
      ∧ (∀ q, (abortCeremony reason leaver w s).ctx q = s.ctx q)
      ∧ (∀ q, (abortCeremony reason leaver w s).step q = s.step q)
      ∧ (∀ cu, (abortCeremony reason leaver w s).custodian cu = s.custodian cu) := by
  have h := abortCeremony_frame reason leaver w s
  exact ⟨(congrArg (fun x => x.store.custodians) h :), (congrArg (fun x => x.store.profile) h :),
    (congrArg (fun x => x.store.registry) h :), (congrArg (fun x => x.store.steps) h :),
    (congrArg (fun x => x.store.tamperLatch) h :), (congrArg State.line h :), (congrArg State.resetCause h :),
    (congrArg State.stream h :), (congrArg State.importWork h :), (congrArg State.benches h :),
    (congrArg State.outstanding h :), (congrArg State.responses h :), (congrArg State.mask h :),
    (congrArg State.frameErrors h :), (congrArg State.overruns h :), (congrArg State.power h :),
    (congrArg State.resetPin h :), (congrArg State.tamperLine h :), (congrArg State.battery h :),
    (congrArg State.powerResetOwed h :), (congrArg State.storeLost h :), (congrArg State.shiftedOut h :),
    (congrArg State.freeCount h :), (congrArg State.pending h :), (congrArg State.registry h :),
    (congrArg State.profile h :), (congrArg State.running h :), fun q => (congrArg (State.bench q) h :),
    fun q => (congrArg (State.ctx q) h :), fun q => (congrArg (State.step q) h :),
    fun cu => (congrArg (State.custodian cu) h :)⟩

/-- `settleCeremony` changes at most ceremony, consoles. -/
theorem settleCeremony_frame (s : State) :
    settleCeremony s = { s with
      ceremony := (settleCeremony s).ceremony
      consoles := (settleCeremony s).consoles } := by
  apply State.eq_of_fields <;> first | rfl | (unfold settleCeremony; split <;> simp)

@[simp] theorem settleCeremony_keeps (s : State) :
    (settleCeremony s).store.slots = s.store.slots ∧ (settleCeremony s).store.custodians = s.store.custodians
      ∧ (settleCeremony s).store.profile = s.store.profile ∧ (settleCeremony s).store.registry = s.store.registry
      ∧ (settleCeremony s).store.journal = s.store.journal ∧ (settleCeremony s).store.steps = s.store.steps
      ∧ (settleCeremony s).store.tamperLatch = s.store.tamperLatch ∧ (settleCeremony s).line = s.line
      ∧ (settleCeremony s).resetCause = s.resetCause ∧ (settleCeremony s).stream = s.stream
      ∧ (settleCeremony s).importWork = s.importWork ∧ (settleCeremony s).engine = s.engine
      ∧ (settleCeremony s).benches = s.benches ∧ (settleCeremony s).outstanding = s.outstanding
      ∧ (settleCeremony s).responses = s.responses ∧ (settleCeremony s).flags = s.flags
      ∧ (settleCeremony s).mask = s.mask ∧ (settleCeremony s).frameErrors = s.frameErrors
      ∧ (settleCeremony s).overruns = s.overruns ∧ (settleCeremony s).power = s.power
      ∧ (settleCeremony s).resetPin = s.resetPin ∧ (settleCeremony s).tamperLine = s.tamperLine
      ∧ (settleCeremony s).battery = s.battery ∧ (settleCeremony s).powerResetOwed = s.powerResetOwed
      ∧ (settleCeremony s).storeLost = s.storeLost ∧ (settleCeremony s).shiftedOut = s.shiftedOut
      ∧ (settleCeremony s).freeCount = s.freeCount ∧ (settleCeremony s).pending = s.pending
      ∧ (settleCeremony s).journal = s.journal ∧ (settleCeremony s).registry = s.registry
      ∧ (settleCeremony s).profile = s.profile ∧ (settleCeremony s).running = s.running
      ∧ (∀ q, (settleCeremony s).bench q = s.bench q) ∧ (∀ q, (settleCeremony s).ctx q = s.ctx q)
      ∧ (∀ j, (settleCeremony s).slot j = s.slot j) ∧ (∀ q, (settleCeremony s).step q = s.step q)
      ∧ (∀ cu, (settleCeremony s).custodian cu = s.custodian cu) := by
  have h := settleCeremony_frame s
  exact ⟨(congrArg (fun x => x.store.slots) h :), (congrArg (fun x => x.store.custodians) h :),
    (congrArg (fun x => x.store.profile) h :), (congrArg (fun x => x.store.registry) h :),
    (congrArg (fun x => x.store.journal) h :), (congrArg (fun x => x.store.steps) h :),
    (congrArg (fun x => x.store.tamperLatch) h :), (congrArg State.line h :), (congrArg State.resetCause h :),
    (congrArg State.stream h :), (congrArg State.importWork h :), (congrArg State.engine h :),
    (congrArg State.benches h :), (congrArg State.outstanding h :), (congrArg State.responses h :),
    (congrArg State.flags h :), (congrArg State.mask h :), (congrArg State.frameErrors h :),
    (congrArg State.overruns h :), (congrArg State.power h :), (congrArg State.resetPin h :),
    (congrArg State.tamperLine h :), (congrArg State.battery h :), (congrArg State.powerResetOwed h :),
    (congrArg State.storeLost h :), (congrArg State.shiftedOut h :), (congrArg State.freeCount h :),
    (congrArg State.pending h :), (congrArg State.journal h :), (congrArg State.registry h :),
    (congrArg State.profile h :), (congrArg State.running h :), fun q => (congrArg (State.bench q) h :),
    fun q => (congrArg (State.ctx q) h :), fun j => (congrArg (State.slot j) h :),
    fun q => (congrArg (State.step q) h :), fun cu => (congrArg (State.custodian cu) h :)⟩

/-- `unbindSerial` changes at most registry. -/
theorem unbindSerial_frame (x : Serial) (s : State) :
    unbindSerial x s = { s with
      store := { s.store with registry := (unbindSerial x s).store.registry } } := rfl

@[simp] theorem unbindSerial_keeps (x : Serial) (s : State) :
    (unbindSerial x s).store.slots = s.store.slots ∧ (unbindSerial x s).store.custodians = s.store.custodians
      ∧ (unbindSerial x s).store.profile = s.store.profile ∧ (unbindSerial x s).store.journal = s.store.journal
      ∧ (unbindSerial x s).store.steps = s.store.steps ∧ (unbindSerial x s).store.tamperLatch = s.store.tamperLatch
      ∧ (unbindSerial x s).line = s.line ∧ (unbindSerial x s).resetCause = s.resetCause
      ∧ (unbindSerial x s).stream = s.stream ∧ (unbindSerial x s).ceremony = s.ceremony
      ∧ (unbindSerial x s).importWork = s.importWork ∧ (unbindSerial x s).engine = s.engine
      ∧ (unbindSerial x s).consoles = s.consoles ∧ (unbindSerial x s).benches = s.benches
      ∧ (unbindSerial x s).outstanding = s.outstanding ∧ (unbindSerial x s).responses = s.responses
      ∧ (unbindSerial x s).flags = s.flags ∧ (unbindSerial x s).mask = s.mask
      ∧ (unbindSerial x s).frameErrors = s.frameErrors ∧ (unbindSerial x s).overruns = s.overruns
      ∧ (unbindSerial x s).power = s.power ∧ (unbindSerial x s).resetPin = s.resetPin
      ∧ (unbindSerial x s).tamperLine = s.tamperLine ∧ (unbindSerial x s).battery = s.battery
      ∧ (unbindSerial x s).powerResetOwed = s.powerResetOwed ∧ (unbindSerial x s).storeLost = s.storeLost
      ∧ (unbindSerial x s).shiftedOut = s.shiftedOut ∧ (unbindSerial x s).freeCount = s.freeCount
      ∧ (unbindSerial x s).pending = s.pending ∧ (unbindSerial x s).journal = s.journal
      ∧ (unbindSerial x s).profile = s.profile ∧ (unbindSerial x s).running = s.running
      ∧ (∀ k, (unbindSerial x s).console k = s.console k) ∧ (∀ q, (unbindSerial x s).bench q = s.bench q)
      ∧ (∀ q, (unbindSerial x s).ctx q = s.ctx q) ∧ (∀ j, (unbindSerial x s).slot j = s.slot j)
      ∧ (∀ q, (unbindSerial x s).step q = s.step q) ∧ (∀ cu, (unbindSerial x s).custodian cu = s.custodian cu) := by
  have h := unbindSerial_frame x s
  exact ⟨(congrArg (fun x => x.store.slots) h :), (congrArg (fun x => x.store.custodians) h :),
    (congrArg (fun x => x.store.profile) h :), (congrArg (fun x => x.store.journal) h :),
    (congrArg (fun x => x.store.steps) h :), (congrArg (fun x => x.store.tamperLatch) h :),
    (congrArg State.line h :), (congrArg State.resetCause h :), (congrArg State.stream h :),
    (congrArg State.ceremony h :), (congrArg State.importWork h :), (congrArg State.engine h :),
    (congrArg State.consoles h :), (congrArg State.benches h :), (congrArg State.outstanding h :),
    (congrArg State.responses h :), (congrArg State.flags h :), (congrArg State.mask h :),
    (congrArg State.frameErrors h :), (congrArg State.overruns h :), (congrArg State.power h :),
    (congrArg State.resetPin h :), (congrArg State.tamperLine h :), (congrArg State.battery h :),
    (congrArg State.powerResetOwed h :), (congrArg State.storeLost h :), (congrArg State.shiftedOut h :),
    (congrArg State.freeCount h :), (congrArg State.pending h :), (congrArg State.journal h :),
    (congrArg State.profile h :), (congrArg State.running h :), fun k => (congrArg (State.console k) h :),
    fun q => (congrArg (State.bench q) h :), fun q => (congrArg (State.ctx q) h :),
    fun j => (congrArg (State.slot j) h :), fun q => (congrArg (State.step q) h :),
    fun cu => (congrArg (State.custodian cu) h :)⟩

/-- `finishSession` changes at most registry, benches, flags. -/
theorem finishSession_frame (p : Port) (ss : Session) (reason : VoidReason) (next : PortContext) (s : State) :
    finishSession p ss reason next s = { s with
      store := { s.store with registry := (finishSession p ss reason next s).store.registry }
      benches := (finishSession p ss reason next s).benches
      flags := (finishSession p ss reason next s).flags } := by
  apply State.eq_of_fields <;> first | rfl | (unfold finishSession; simp only []; split <;> simp)

@[simp] theorem finishSession_keeps (p : Port) (ss : Session) (reason : VoidReason) (next : PortContext) (s : State) :
    (finishSession p ss reason next s).store.slots = s.store.slots
      ∧ (finishSession p ss reason next s).store.custodians = s.store.custodians
      ∧ (finishSession p ss reason next s).store.profile = s.store.profile
      ∧ (finishSession p ss reason next s).store.journal = s.store.journal
      ∧ (finishSession p ss reason next s).store.steps = s.store.steps
      ∧ (finishSession p ss reason next s).store.tamperLatch = s.store.tamperLatch
      ∧ (finishSession p ss reason next s).line = s.line
      ∧ (finishSession p ss reason next s).resetCause = s.resetCause
      ∧ (finishSession p ss reason next s).stream = s.stream
      ∧ (finishSession p ss reason next s).ceremony = s.ceremony
      ∧ (finishSession p ss reason next s).importWork = s.importWork
      ∧ (finishSession p ss reason next s).engine = s.engine
      ∧ (finishSession p ss reason next s).consoles = s.consoles
      ∧ (finishSession p ss reason next s).outstanding = s.outstanding
      ∧ (finishSession p ss reason next s).responses = s.responses ∧ (finishSession p ss reason next s).mask = s.mask
      ∧ (finishSession p ss reason next s).frameErrors = s.frameErrors
      ∧ (finishSession p ss reason next s).overruns = s.overruns ∧ (finishSession p ss reason next s).power = s.power
      ∧ (finishSession p ss reason next s).resetPin = s.resetPin
      ∧ (finishSession p ss reason next s).tamperLine = s.tamperLine
      ∧ (finishSession p ss reason next s).battery = s.battery
      ∧ (finishSession p ss reason next s).powerResetOwed = s.powerResetOwed
      ∧ (finishSession p ss reason next s).storeLost = s.storeLost
      ∧ (finishSession p ss reason next s).shiftedOut = s.shiftedOut
      ∧ (finishSession p ss reason next s).freeCount = s.freeCount
      ∧ (finishSession p ss reason next s).pending = s.pending
      ∧ (finishSession p ss reason next s).journal = s.journal
      ∧ (finishSession p ss reason next s).profile = s.profile
      ∧ (finishSession p ss reason next s).running = s.running
      ∧ (∀ k, (finishSession p ss reason next s).console k = s.console k)
      ∧ (∀ j, (finishSession p ss reason next s).slot j = s.slot j)
      ∧ (∀ q, (finishSession p ss reason next s).step q = s.step q)
      ∧ (∀ cu, (finishSession p ss reason next s).custodian cu = s.custodian cu) := by
  have h := finishSession_frame p ss reason next s
  exact ⟨(congrArg (fun x => x.store.slots) h :), (congrArg (fun x => x.store.custodians) h :),
    (congrArg (fun x => x.store.profile) h :), (congrArg (fun x => x.store.journal) h :),
    (congrArg (fun x => x.store.steps) h :), (congrArg (fun x => x.store.tamperLatch) h :),
    (congrArg State.line h :), (congrArg State.resetCause h :), (congrArg State.stream h :),
    (congrArg State.ceremony h :), (congrArg State.importWork h :), (congrArg State.engine h :),
    (congrArg State.consoles h :), (congrArg State.outstanding h :), (congrArg State.responses h :),
    (congrArg State.mask h :), (congrArg State.frameErrors h :), (congrArg State.overruns h :),
    (congrArg State.power h :), (congrArg State.resetPin h :), (congrArg State.tamperLine h :),
    (congrArg State.battery h :), (congrArg State.powerResetOwed h :), (congrArg State.storeLost h :),
    (congrArg State.shiftedOut h :), (congrArg State.freeCount h :), (congrArg State.pending h :),
    (congrArg State.journal h :), (congrArg State.profile h :), (congrArg State.running h :),
    fun k => (congrArg (State.console k) h :), fun j => (congrArg (State.slot j) h :),
    fun q => (congrArg (State.step q) h :), fun cu => (congrArg (State.custodian cu) h :)⟩

/-- `endSession` changes at most slots, registry, journal, steps, ceremony, engine, consoles, benches, flags. -/
theorem endSession_frame (reason : VoidReason) (p : Port) (s : State) :
    endSession reason p s = { s with
      store := { s.store with slots := (endSession reason p s).store.slots, registry := (endSession reason p s).store.registry, journal := (endSession reason p s).store.journal, steps := (endSession reason p s).store.steps }
      ceremony := (endSession reason p s).ceremony
      engine := (endSession reason p s).engine
      consoles := (endSession reason p s).consoles
      benches := (endSession reason p s).benches
      flags := (endSession reason p s).flags } := by
  apply State.eq_of_fields <;> first | rfl | (unfold endSession; split <;> (try simp only []) <;> (try split) <;> simp)

@[simp] theorem endSession_keeps (reason : VoidReason) (p : Port) (s : State) :
    (endSession reason p s).store.custodians = s.store.custodians
      ∧ (endSession reason p s).store.profile = s.store.profile
      ∧ (endSession reason p s).store.tamperLatch = s.store.tamperLatch ∧ (endSession reason p s).line = s.line
      ∧ (endSession reason p s).resetCause = s.resetCause ∧ (endSession reason p s).stream = s.stream
      ∧ (endSession reason p s).importWork = s.importWork ∧ (endSession reason p s).outstanding = s.outstanding
      ∧ (endSession reason p s).responses = s.responses ∧ (endSession reason p s).mask = s.mask
      ∧ (endSession reason p s).frameErrors = s.frameErrors ∧ (endSession reason p s).overruns = s.overruns
      ∧ (endSession reason p s).power = s.power ∧ (endSession reason p s).resetPin = s.resetPin
      ∧ (endSession reason p s).tamperLine = s.tamperLine ∧ (endSession reason p s).battery = s.battery
      ∧ (endSession reason p s).powerResetOwed = s.powerResetOwed ∧ (endSession reason p s).storeLost = s.storeLost
      ∧ (endSession reason p s).shiftedOut = s.shiftedOut ∧ (endSession reason p s).freeCount = s.freeCount
      ∧ (endSession reason p s).pending = s.pending ∧ (endSession reason p s).profile = s.profile
      ∧ (endSession reason p s).running = s.running ∧ (∀ cu, (endSession reason p s).custodian cu = s.custodian cu) := by
  have h := endSession_frame reason p s
  exact ⟨(congrArg (fun x => x.store.custodians) h :), (congrArg (fun x => x.store.profile) h :),
    (congrArg (fun x => x.store.tamperLatch) h :), (congrArg State.line h :), (congrArg State.resetCause h :),
    (congrArg State.stream h :), (congrArg State.importWork h :), (congrArg State.outstanding h :),
    (congrArg State.responses h :), (congrArg State.mask h :), (congrArg State.frameErrors h :),
    (congrArg State.overruns h :), (congrArg State.power h :), (congrArg State.resetPin h :),
    (congrArg State.tamperLine h :), (congrArg State.battery h :), (congrArg State.powerResetOwed h :),
    (congrArg State.storeLost h :), (congrArg State.shiftedOut h :), (congrArg State.freeCount h :),
    (congrArg State.pending h :), (congrArg State.profile h :), (congrArg State.running h :),
    fun cu => (congrArg (State.custodian cu) h :)⟩

/-- `closeFinish` changes at most line, outstanding, responses, flags. -/
theorem closeFinish_frame (s : State) :
    closeFinish s = { s with
      line := (closeFinish s).line
      outstanding := (closeFinish s).outstanding
      responses := (closeFinish s).responses
      flags := (closeFinish s).flags } := by
  apply State.eq_of_fields <;> first | rfl | (unfold closeFinish; split <;> (try split) <;> simp)

@[simp] theorem closeFinish_keeps (s : State) :
    (closeFinish s).store.slots = s.store.slots ∧ (closeFinish s).store.custodians = s.store.custodians
      ∧ (closeFinish s).store.profile = s.store.profile ∧ (closeFinish s).store.registry = s.store.registry
      ∧ (closeFinish s).store.journal = s.store.journal ∧ (closeFinish s).store.steps = s.store.steps
      ∧ (closeFinish s).store.tamperLatch = s.store.tamperLatch ∧ (closeFinish s).resetCause = s.resetCause
      ∧ (closeFinish s).stream = s.stream ∧ (closeFinish s).ceremony = s.ceremony
      ∧ (closeFinish s).importWork = s.importWork ∧ (closeFinish s).engine = s.engine
      ∧ (closeFinish s).consoles = s.consoles ∧ (closeFinish s).benches = s.benches ∧ (closeFinish s).mask = s.mask
      ∧ (closeFinish s).frameErrors = s.frameErrors ∧ (closeFinish s).overruns = s.overruns
      ∧ (closeFinish s).power = s.power ∧ (closeFinish s).resetPin = s.resetPin
      ∧ (closeFinish s).tamperLine = s.tamperLine ∧ (closeFinish s).battery = s.battery
      ∧ (closeFinish s).powerResetOwed = s.powerResetOwed ∧ (closeFinish s).storeLost = s.storeLost
      ∧ (closeFinish s).shiftedOut = s.shiftedOut ∧ (closeFinish s).freeCount = s.freeCount
      ∧ (closeFinish s).pending = s.pending ∧ (closeFinish s).journal = s.journal
      ∧ (closeFinish s).registry = s.registry ∧ (closeFinish s).profile = s.profile
      ∧ (closeFinish s).running = s.running ∧ (∀ k, (closeFinish s).console k = s.console k)
      ∧ (∀ q, (closeFinish s).bench q = s.bench q) ∧ (∀ q, (closeFinish s).ctx q = s.ctx q)
      ∧ (∀ j, (closeFinish s).slot j = s.slot j) ∧ (∀ q, (closeFinish s).step q = s.step q)
      ∧ (∀ cu, (closeFinish s).custodian cu = s.custodian cu) := by
  have h := closeFinish_frame s
  exact ⟨(congrArg (fun x => x.store.slots) h :), (congrArg (fun x => x.store.custodians) h :),
    (congrArg (fun x => x.store.profile) h :), (congrArg (fun x => x.store.registry) h :),
    (congrArg (fun x => x.store.journal) h :), (congrArg (fun x => x.store.steps) h :),
    (congrArg (fun x => x.store.tamperLatch) h :), (congrArg State.resetCause h :), (congrArg State.stream h :),
    (congrArg State.ceremony h :), (congrArg State.importWork h :), (congrArg State.engine h :),
    (congrArg State.consoles h :), (congrArg State.benches h :), (congrArg State.mask h :),
    (congrArg State.frameErrors h :), (congrArg State.overruns h :), (congrArg State.power h :),
    (congrArg State.resetPin h :), (congrArg State.tamperLine h :), (congrArg State.battery h :),
    (congrArg State.powerResetOwed h :), (congrArg State.storeLost h :), (congrArg State.shiftedOut h :),
    (congrArg State.freeCount h :), (congrArg State.pending h :), (congrArg State.journal h :),
    (congrArg State.registry h :), (congrArg State.profile h :), (congrArg State.running h :),
    fun k => (congrArg (State.console k) h :), fun q => (congrArg (State.bench q) h :),
    fun q => (congrArg (State.ctx q) h :), fun j => (congrArg (State.slot j) h :),
    fun q => (congrArg (State.step q) h :), fun cu => (congrArg (State.custodian cu) h :)⟩

/-- `custodianLeft` changes at most slots, journal, ceremony, engine, consoles, flags. -/
theorem custodianLeft_frame (c : Cust) (s : State) :
    custodianLeft c s = { s with
      store := { s.store with slots := (custodianLeft c s).store.slots, journal := (custodianLeft c s).store.journal }
      ceremony := (custodianLeft c s).ceremony
      engine := (custodianLeft c s).engine
      consoles := (custodianLeft c s).consoles
      flags := (custodianLeft c s).flags } := by
  apply State.eq_of_fields <;> first | rfl | (unfold custodianLeft; split <;> (try split) <;> simp)

@[simp] theorem custodianLeft_keeps (c : Cust) (s : State) :
    (custodianLeft c s).store.custodians = s.store.custodians ∧ (custodianLeft c s).store.profile = s.store.profile
      ∧ (custodianLeft c s).store.registry = s.store.registry ∧ (custodianLeft c s).store.steps = s.store.steps
      ∧ (custodianLeft c s).store.tamperLatch = s.store.tamperLatch ∧ (custodianLeft c s).line = s.line
      ∧ (custodianLeft c s).resetCause = s.resetCause ∧ (custodianLeft c s).stream = s.stream
      ∧ (custodianLeft c s).importWork = s.importWork ∧ (custodianLeft c s).benches = s.benches
      ∧ (custodianLeft c s).outstanding = s.outstanding ∧ (custodianLeft c s).responses = s.responses
      ∧ (custodianLeft c s).mask = s.mask ∧ (custodianLeft c s).frameErrors = s.frameErrors
      ∧ (custodianLeft c s).overruns = s.overruns ∧ (custodianLeft c s).power = s.power
      ∧ (custodianLeft c s).resetPin = s.resetPin ∧ (custodianLeft c s).tamperLine = s.tamperLine
      ∧ (custodianLeft c s).battery = s.battery ∧ (custodianLeft c s).powerResetOwed = s.powerResetOwed
      ∧ (custodianLeft c s).storeLost = s.storeLost ∧ (custodianLeft c s).shiftedOut = s.shiftedOut
      ∧ (custodianLeft c s).freeCount = s.freeCount ∧ (custodianLeft c s).pending = s.pending
      ∧ (custodianLeft c s).registry = s.registry ∧ (custodianLeft c s).profile = s.profile
      ∧ (custodianLeft c s).running = s.running ∧ (∀ q, (custodianLeft c s).bench q = s.bench q)
      ∧ (∀ q, (custodianLeft c s).ctx q = s.ctx q) ∧ (∀ q, (custodianLeft c s).step q = s.step q)
      ∧ (∀ cu, (custodianLeft c s).custodian cu = s.custodian cu) := by
  have h := custodianLeft_frame c s
  exact ⟨(congrArg (fun x => x.store.custodians) h :), (congrArg (fun x => x.store.profile) h :),
    (congrArg (fun x => x.store.registry) h :), (congrArg (fun x => x.store.steps) h :),
    (congrArg (fun x => x.store.tamperLatch) h :), (congrArg State.line h :), (congrArg State.resetCause h :),
    (congrArg State.stream h :), (congrArg State.importWork h :), (congrArg State.benches h :),
    (congrArg State.outstanding h :), (congrArg State.responses h :), (congrArg State.mask h :),
    (congrArg State.frameErrors h :), (congrArg State.overruns h :), (congrArg State.power h :),
    (congrArg State.resetPin h :), (congrArg State.tamperLine h :), (congrArg State.battery h :),
    (congrArg State.powerResetOwed h :), (congrArg State.storeLost h :), (congrArg State.shiftedOut h :),
    (congrArg State.freeCount h :), (congrArg State.pending h :), (congrArg State.registry h :),
    (congrArg State.profile h :), (congrArg State.running h :), fun q => (congrArg (State.bench q) h :),
    fun q => (congrArg (State.ctx q) h :), fun q => (congrArg (State.step q) h :),
    fun cu => (congrArg (State.custodian cu) h :)⟩

/-- `endLogon` changes at most slots, journal, ceremony, engine, consoles, flags. -/
theorem endLogon_frame (l : ConsoleLink) (s : State) :
    endLogon l s = { s with
      store := { s.store with slots := (endLogon l s).store.slots, journal := (endLogon l s).store.journal }
      ceremony := (endLogon l s).ceremony
      engine := (endLogon l s).engine
      consoles := (endLogon l s).consoles
      flags := (endLogon l s).flags } := by
  apply State.eq_of_fields <;> first | rfl | (unfold endLogon; split <;> simp)

@[simp] theorem endLogon_keeps (l : ConsoleLink) (s : State) :
    (endLogon l s).store.custodians = s.store.custodians ∧ (endLogon l s).store.profile = s.store.profile
      ∧ (endLogon l s).store.registry = s.store.registry ∧ (endLogon l s).store.steps = s.store.steps
      ∧ (endLogon l s).store.tamperLatch = s.store.tamperLatch ∧ (endLogon l s).line = s.line
      ∧ (endLogon l s).resetCause = s.resetCause ∧ (endLogon l s).stream = s.stream
      ∧ (endLogon l s).importWork = s.importWork ∧ (endLogon l s).benches = s.benches
      ∧ (endLogon l s).outstanding = s.outstanding ∧ (endLogon l s).responses = s.responses
      ∧ (endLogon l s).mask = s.mask ∧ (endLogon l s).frameErrors = s.frameErrors
      ∧ (endLogon l s).overruns = s.overruns ∧ (endLogon l s).power = s.power ∧ (endLogon l s).resetPin = s.resetPin
      ∧ (endLogon l s).tamperLine = s.tamperLine ∧ (endLogon l s).battery = s.battery
      ∧ (endLogon l s).powerResetOwed = s.powerResetOwed ∧ (endLogon l s).storeLost = s.storeLost
      ∧ (endLogon l s).shiftedOut = s.shiftedOut ∧ (endLogon l s).freeCount = s.freeCount
      ∧ (endLogon l s).pending = s.pending ∧ (endLogon l s).registry = s.registry
      ∧ (endLogon l s).profile = s.profile ∧ (endLogon l s).running = s.running
      ∧ (∀ q, (endLogon l s).bench q = s.bench q) ∧ (∀ q, (endLogon l s).ctx q = s.ctx q)
      ∧ (∀ q, (endLogon l s).step q = s.step q) ∧ (∀ cu, (endLogon l s).custodian cu = s.custodian cu) := by
  have h := endLogon_frame l s
  exact ⟨(congrArg (fun x => x.store.custodians) h :), (congrArg (fun x => x.store.profile) h :),
    (congrArg (fun x => x.store.registry) h :), (congrArg (fun x => x.store.steps) h :),
    (congrArg (fun x => x.store.tamperLatch) h :), (congrArg State.line h :), (congrArg State.resetCause h :),
    (congrArg State.stream h :), (congrArg State.importWork h :), (congrArg State.benches h :),
    (congrArg State.outstanding h :), (congrArg State.responses h :), (congrArg State.mask h :),
    (congrArg State.frameErrors h :), (congrArg State.overruns h :), (congrArg State.power h :),
    (congrArg State.resetPin h :), (congrArg State.tamperLine h :), (congrArg State.battery h :),
    (congrArg State.powerResetOwed h :), (congrArg State.storeLost h :), (congrArg State.shiftedOut h :),
    (congrArg State.freeCount h :), (congrArg State.pending h :), (congrArg State.registry h :),
    (congrArg State.profile h :), (congrArg State.running h :), fun q => (congrArg (State.bench q) h :),
    fun q => (congrArg (State.ctx q) h :), fun q => (congrArg (State.step q) h :),
    fun cu => (congrArg (State.custodian cu) h :)⟩

end Sys2Proof.Machine
end

