-- ==== Sys2Proof/Laws/PerInstr.lean ====
section
/-! SUPPORT. What holds of every command as syntax, one lemma for each constructor: a well-formed command that is a request
has a body of its stated length, within 2048 bytes, and one that is a serial message has a kind and a body of one byte's
length (R199, R210, R211). -/

open Sys2Proof Sys2Proof.Machine Sys2Proof.Safety

namespace Sys2Proof.Laws.Encodable

/-- The frame a command is laid out as has room for it. -/
def Statement (i : Instr) : Prop :=
  i.wf = true →
    (∀ r, request? i = some r → ∃ body, requestBody? i = some body ∧ body.length = r.length ∧ r.length ≤ 2048)
      ∧ ∀ m, linkMessage? i = some m → m.2.1 < 256 ∧ m.2.2.length < 256

theorem length_beBytes (w n : Nat) : (beBytes w n).length = w := by
  induction w with
  | zero => rfl
  | succ w ih => simp [beBytes, ih]

theorem length_b1 (n : Nat) : (b1 n).length = 1 := rfl

theorem length_bString (s : List Byte) : (bString s).length = s.length + 1 := by simp [bString, length_b1]; omega

theorem length_bFlag (f : Bool) : (bFlag f).length = 1 := by cases f <;> rfl

theorem length_bOpt_b1 (o : Option Nat) : (bOpt b1 o).length = if o.isSome then 2 else 1 := by cases o <;> rfl

theorem length_bOpt_four (o : Option Nat) : (bOpt (beBytes 4) o).length = if o.isSome then 5 else 1 := by
  cases o <;> simp [bOpt, length_beBytes]

/-- The frame of every command has room for it; the lemmas below say it of each. -/
theorem of_command (i : Instr) : Statement i := by
  intro h
  cases i <;> simp only [request?, addLength, requestBody?, linkMessage?, Instr.wf, fits1, fits4, fitsString, fitsLinkBody,
    Bool.and_eq_true, decide_eq_true_eq, reduceCtorEq, false_implies, implies_true, and_true, true_and, and_self,
    Option.some.injEq, forall_eq', exists_eq_left',
    List.length_append, length_b1, length_bString, length_bFlag, length_bOpt_b1, length_bOpt_four, length_beBytes,
    List.length_nil] at h ⊢ <;> (try split) <;> omega

theorem profileBegin (tag : Byte) : Statement (.profileBegin tag) := of_command _

theorem profileBlock (tag : Byte) (body : List Byte) : Statement (.profileBlock tag body) := of_command _

theorem profileCommit (tag : Byte) (streamCheck : Check32) : Statement (.profileCommit tag streamCheck) := of_command _

theorem profileAbandon (tag : Byte) : Statement (.profileAbandon tag) := of_command _

theorem linePause (tag : Byte) : Statement (.linePause tag) := of_command _

theorem lineResume (tag : Byte) : Statement (.lineResume tag) := of_command _

theorem lineClose (tag : Byte) : Statement (.lineClose tag) := of_command _

theorem lineReset (tag : Byte) : Statement (.lineReset tag) := of_command _

theorem importKey (tag : Byte) (body : List Byte) : Statement (.importKey tag body) := of_command _

theorem slotQuery (tag : Byte) (slot : Nat) : Statement (.slotQuery tag slot) := of_command _

theorem regAdd (tag : Byte) (serial : Serial) (recipe : Option Nat) : Statement (.regAdd tag serial recipe) := of_command _

theorem regQuery (tag : Byte) (serial : Serial) : Statement (.regQuery tag serial) := of_command _

theorem regSetState (tag : Byte) (serial : Serial) (expected new : Nat) : Statement (.regSetState tag serial expected new) := of_command _

theorem regRemove (tag : Byte) (serial : Serial) (expected : Nat) : Statement (.regRemove tag serial expected) := of_command _

theorem regScan (tag : Byte) (position count : Nat) : Statement (.regScan tag position count) := of_command _

theorem counterRead (tag : Byte) (slot : Nat) : Statement (.counterRead tag slot) := of_command _

theorem counterAdvance (tag : Byte) (slot value : Nat) : Statement (.counterAdvance tag slot value) := of_command _

theorem journalRead (tag : Byte) (count : Nat) : Statement (.journalRead tag count) := of_command _

theorem journalRelease (tag : Byte) (sequence : Nat) : Statement (.journalRelease tag sequence) := of_command _

theorem status (tag : Byte) (clearSet : BitVec 12) (clearCounts : Bool) : Statement (.status tag clearSet clearCounts) := of_command _

theorem setMask (tag : Byte) (mask : BitVec 12) : Statement (.setMask tag mask) := of_command _

theorem responseFetch (clocks : Nat) : Statement (.responseFetch clocks) := of_command _

theorem requestWriteDiscard (bytes : List Byte) : Statement (.requestWriteDiscard bytes) := of_command _

theorem logon (link : ConsoleLink) (number : Nat) (credential : List Byte) : Statement (.logon link number credential) := of_command _

theorem logoff (link : ConsoleLink) : Statement (.logoff link) := of_command _

theorem enrolFirst (link : ConsoleLink) (number group : Nat) (credential : List Byte) : Statement (.enrolFirst link number group credential) := of_command _

theorem zeroise (link : ConsoleLink) : Statement (.zeroise link) := of_command _

theorem query (link : ConsoleLink) : Statement (.query link) := of_command _

theorem openAssemble (link : ConsoleLink) (slot cls length count : Nat) (keySet : Option Nat) : Statement (.openAssemble link slot cls length count keySet) := of_command _

theorem openErase (link : ConsoleLink) (slot : Nat) : Statement (.openErase link slot) := of_command _

theorem openOpenLine (link : ConsoleLink) : Statement (.openOpenLine link) := of_command _

theorem openEnrol (link : ConsoleLink) (number group : Nat) (credential : List Byte) : Statement (.openEnrol link number group credential) := of_command _

theorem openRevoke (link : ConsoleLink) (number : Nat) : Statement (.openRevoke link number) := of_command _

theorem openUnlock (link : ConsoleLink) (number : Nat) : Statement (.openUnlock link number) := of_command _

theorem component (link : ConsoleLink) (value : List Byte) (check : Kcv) : Statement (.component link value check) := of_command _

theorem accept (link : ConsoleLink) : Statement (.accept link) := of_command _

theorem reject (link : ConsoleLink) : Statement (.reject link) := of_command _

theorem cancel (link : ConsoleLink) : Statement (.cancel link) := of_command _

theorem consoleBadMessage (link : ConsoleLink) (kind : Byte) : Statement (.consoleBadMessage link kind) := of_command _

theorem hello (port : Port) (serial : Serial) (model : ModelCode) : Statement (.hello port serial model) := of_command _

theorem fetch (port : Port) (index : Nat) : Statement (.fetch port index) := of_command _

theorem confirm (port : Port) (index : Nat) (kcv : Kcv) : Statement (.confirm port index kcv) := of_command _

theorem bye (port : Port) : Statement (.bye port) := of_command _

theorem benchBadMessage (port : Port) : Statement (.benchBadMessage port) := of_command _

theorem linkBadFrame (link : LinkId) : Statement (.linkBadFrame link) := of_command _

theorem receiverTimeout (link : LinkId) : Statement (.receiverTimeout link) := of_command _

theorem transmitDone (link : LinkId) : Statement (.transmitDone link) := of_command _

theorem consolePresentAsserted (link : ConsoleLink) : Statement (.consolePresentAsserted link) := of_command _

theorem consolePresentDeasserted (link : ConsoleLink) : Statement (.consolePresentDeasserted link) := of_command _

theorem terminalPresentAsserted (port : Port) : Statement (.terminalPresentAsserted port) := of_command _

theorem terminalPresentDeasserted (port : Port) : Statement (.terminalPresentDeasserted port) := of_command _

theorem tamperLineAsserted : Statement (.tamperLineAsserted) := of_command _

theorem tamperLineDeasserted : Statement (.tamperLineDeasserted) := of_command _

theorem tamperLatchSet : Statement (.tamperLatchSet) := of_command _

theorem powerOn : Statement (.powerOn) := of_command _

theorem powerOff : Statement (.powerOff) := of_command _

theorem resetPinAsserted : Statement (.resetPinAsserted) := of_command _

theorem resetPinReleased : Statement (.resetPinReleased) := of_command _

theorem custodianIdleExpiry (link : ConsoleLink) : Statement (.custodianIdleExpiry link) := of_command _

theorem windowExpiry : Statement (.windowExpiry) := of_command _

theorem sessionIdleExpiry (port : Port) : Statement (.sessionIdleExpiry port) := of_command _

theorem entryAged (position : RegIx) : Statement (.entryAged position) := of_command _

theorem prepareSharedDone : Statement (.prepareSharedDone) := of_command _

theorem prepareDerivedDone : Statement (.prepareDerivedDone) := of_command _

theorem checkComponentDone : Statement (.checkComponentDone) := of_command _

theorem combineDone : Statement (.combineDone) := of_command _

theorem unwrapDone : Statement (.unwrapDone) := of_command _

theorem linkByteReceived (link : LinkId) (byte : Byte) : Statement (.linkByteReceived link byte) := of_command _

theorem batteryLoss : Statement (.batteryLoss) := of_command _

end Sys2Proof.Laws.Encodable
end

