-- ==== Sys2Proof/Laws/Rows.lean ====
section
/-! SUPPORT. The registry: what lookup and insertion do in a registry that is in order (R110, R114), and what the application of a
manifest makes of it (R86). -/

namespace Sys2Proof.Machine

open Sys2Proof.Safety

/-! ### Rows -/

theorem mem_rowPositions {row : Fin 64} {i : RegIx} : i ∈ rowPositions row ↔ ∃ way, i = position row way := by
  simp only [rowPositions, List.mem_cons, List.not_mem_nil, or_false]
  constructor
  · rintro (h | h | h | h)
    exacts [⟨0, h⟩, ⟨1, h⟩, ⟨2, h⟩, ⟨3, h⟩]
  · rintro ⟨way, rfl⟩
    fin_cases way <;> simp

theorem position_injective {row : Fin 64} {v w : Fin 4} (h : position row v = position row w) : v = w := by
  have := congrArg Fin.val h
  simp only [position] at this
  exact Fin.ext (by omega)

/-- Every entry stands in the row of its serial (R110). -/
def InRows (r : Registry) : Prop := ∀ i e, r.get i = some e → i ∈ rowPositions (rowOf e.serial)

theorem inRows_of_placed {s : State} (h : RegistryPlaced s) : InRows s.registry := fun i e he => (h i e he).1

theorem inRows_set {r : Registry} {e : Entry} {way : Fin 4} (h : InRows r) :
    InRows (r.set (position (rowOf e.serial) way) (some e)) := by
  intro i f hf
  rw [Tab.get_set] at hf
  split at hf
  · cases hf; rename_i hi; exact mem_rowPositions.2 ⟨way, hi.symm⟩
  · exact h i f hf

/-! ### Lookup -/

theorem lookupSerial_of_absent {r : Registry} {x : Serial} (h : Absent x r) : lookupSerial r x = none := by
  rw [lookupSerial, List.find?_eq_none]
  intro i _ hi
  unfold holdsSerial at hi
  split at hi
  · rename_i e he; exact h i e he (by simpa using hi)
  · cases hi

theorem lookupSerial_of_present {r : Registry} {x : Serial} (hr : InRows r) (h : ¬Absent x r) :
    ∃ i e, lookupSerial r x = some i ∧ r.get i = some e ∧ e.serial = x := by
  simp only [Absent, not_forall, not_not] at h
  obtain ⟨i, e, he, rfl⟩ := h
  cases hl : lookupSerial r e.serial with
  | none =>
    rw [lookupSerial, List.find?_eq_none] at hl
    exact absurd (by simp [holdsSerial, he]) (hl i (hr i e he))
  | some j =>
    have hj := List.find?_some hl
    unfold holdsSerial at hj
    split at hj
    · rename_i f hf; exact ⟨j, f, rfl, hf, by simpa using hj⟩
    · cases hj

/-- The place of a serial that is there is found. -/
theorem lookupSerial_of_get {s : State} {i : RegIx} {e : Entry} (h : RegistryPlaced s) (he : s.registry.get i = some e) :
    lookupSerial s.registry e.serial = some i := by
  obtain ⟨j, f, hl, hf, hs⟩ := lookupSerial_of_present (inRows_of_placed h) (x := e.serial) (fun ha => ha i e he rfl)
  rw [hl, (h i e he).2.1 j f hf hs]

theorem entryOf_of_get {s : State} {i : RegIx} {e : Entry} (h : RegistryPlaced s) (he : s.registry.get i = some e) :
    entryOf s.registry e.serial = some e := by simp [entryOf, lookupSerial_of_get h he, he]

theorem entryOf_of_absent {r : Registry} {x : Serial} (h : Absent x r) : entryOf r x = none := by
  simp [entryOf, lookupSerial_of_absent h]

/-! ### Insertion (R114) -/

theorem insertEntry_of_free {r : Registry} {e : Entry} {way : Fin 4} (h : FreeWay e.serial way r) :
    insertEntry e r = some
      { registry := r.set (position (rowOf e.serial) way) (some e), place := position (rowOf e.serial) way, evicted := none } := by
  obtain ⟨hf, hl⟩ := h
  have hfind : (rowPositions (rowOf e.serial)).find? (fun i => (r.get i).isNone) = some (position (rowOf e.serial) way) := by
    have hl' : ∀ lower, lower < way → (r.get (position (rowOf e.serial) lower)).isNone = false := fun lower hw => by
      simpa [Option.isNone_eq_false_iff, Option.isSome_iff_ne_none] using hl lower hw
    have hf' : (r.get (position (rowOf e.serial) way)).isNone = true := by simp [hf]
    match way, hl', hf' with
    | 0, _, hf' => simp only [rowPositions, List.find?_cons, hf']
    | 1, hl', hf' => simp only [rowPositions, List.find?_cons, hl' 0 (by decide), hf']
    | 2, hl', hf' => simp only [rowPositions, List.find?_cons, hl' 0 (by decide), hl' 1 (by decide), hf']
    | 3, hl', hf' =>
      simp only [rowPositions, List.find?_cons, hl' 0 (by decide), hl' 1 (by decide), hl' 2 (by decide), hf']
  simp only [insertEntry, hfind]

theorem find_free_none {r : Registry} {x : Serial} (h : ∀ v, r.get (position (rowOf x) v) ≠ none) :
    (rowPositions (rowOf x)).find? (fun i => (r.get i).isNone) = none := by
  rw [List.find?_eq_none]
  intro i hi
  obtain ⟨way, rfl⟩ := mem_rowPositions.1 hi
  simpa [Option.isNone_iff_eq_none] using h way

theorem insertEntry_of_full {r : Registry} {e : Entry} (h : RowFull e.serial r) : insertEntry e r = none := by
  have hv : ∀ v, victimTime r (position (rowOf e.serial) v) = none := by
    intro v
    obtain ⟨f, hf, hn⟩ := h v
    have : f.evictable = false := by
      simp only [Entry.evictable, Bool.and_eq_false_iff, beq_eq_false_iff_ne]
      by_contra hc
      push Not at hc
      exact hn hc
    simp [victimTime, hf, this]
  have hvic : victim r (rowPositions (rowOf e.serial)) = none := by
    simp [rowPositions, victim, hv]
  have hfull : ∀ v, r.get (position (rowOf e.serial) v) ≠ none := fun v => by
    obtain ⟨f, hf, -⟩ := h v
    simp [hf]
  simp only [insertEntry, find_free_none hfull, hvic]

/-- The victim of a list of places: one that may be evicted, unbound longest, the first such among equals. -/
theorem victim_eq_some {r : Registry} {pre post : List RegIx} {i : RegIx} {t : Nat} (hi : victimTime r i = some t)
    (hpre : ∀ j ∈ pre, ∀ u, victimTime r j = some u → u < t) (hpost : ∀ j ∈ post, ∀ u, victimTime r j = some u → u ≤ t) :
    victim r (pre ++ i :: post) = some i := by
  have hp : ∀ l : List RegIx, (∀ j ∈ l, ∀ u, victimTime r j = some u → u ≤ t) →
      ∀ k, victim r l = some k → k ∈ l ∧ ∃ u, victimTime r k = some u := by
    intro l
    induction l with
    | nil => intro _ k hk; cases hk
    | cons a l ih =>
      intro hl k hk
      have ih := ih fun j hj => hl j (by simp [hj])
      rw [victim] at hk
      split at hk
      · obtain ⟨h1, h2⟩ := ih k hk; exact ⟨by simp [h1], h2⟩
      · cases hk; rename_i u h1 h2; exact ⟨by simp, u, h1⟩
      · rename_i u j h1 h2
        split at hk
        · cases hk; obtain ⟨h3, h4⟩ := ih _ h2; exact ⟨by simp [h3], h4⟩
        · cases hk; exact ⟨by simp, u, h1⟩
  induction pre with
  | nil =>
    rw [List.nil_append, victim, hi]
    cases hv : victim r post with
    | none => rfl
    | some k =>
      obtain ⟨hk, u, hu⟩ := hp post hpost k hv
      have := hpost k hk u hu
      dsimp only
      rw [if_neg (by simp [hu]; omega)]
  | cons a pre ih =>
    have ih := ih fun j hj => hpre j (by simp [hj])
    rw [List.cons_append, victim, ih]
    cases ha : victimTime r a with
    | none => rfl
    | some u =>
      have := hpre a (by simp) u ha
      dsimp only
      rw [if_pos (by simp [hi]; omega)]

theorem insertEntry_of_victim {r : Registry} {e v : Entry} {way : Fin 4} (h : VictimWay e.serial way v r) :
    insertEntry e r = some
      { registry := r.set (position (rowOf e.serial) way) (some e), place := position (rowOf e.serial) way
        evicted := some v.serial } := by
  obtain ⟨hfull, hg, ho, hs, hmost⟩ := h
  have hi : victimTime r (position (rowOf e.serial) way) = some (v.unboundSince.getD 0) := by
    simp [victimTime, hg, Entry.evictable, ho, hs]
  have hother : ∀ w u, victimTime r (position (rowOf e.serial) w) = some u →
      (w < way → u < v.unboundSince.getD 0) ∧ u ≤ v.unboundSince.getD 0 := by
    intro w u hu
    unfold victimTime at hu
    split at hu
    · rename_i f hf
      split at hu
      · rename_i he
        simp only [Entry.evictable, Bool.and_eq_true, beq_iff_eq] at he
        cases hu
        exact hmost w f hf he.1 he.2
      · cases hu
    · cases hu
  have hvic : victim r (rowPositions (rowOf e.serial)) = some (position (rowOf e.serial) way) := by
    have hlist : rowPositions (rowOf e.serial) =
        ((List.finRange 4).filter fun w => decide (w < way)).map (position (rowOf e.serial)) ++
          position (rowOf e.serial) way ::
          ((List.finRange 4).filter fun w => decide (way < w)).map (position (rowOf e.serial)) := by
      fin_cases way <;> rfl
    rw [hlist]
    apply victim_eq_some hi
    · intro j hj u hu
      obtain ⟨w, hw, rfl⟩ := List.mem_map.1 hj
      exact (hother w u hu).1 (by simpa using hw)
    · intro j hj u hu
      obtain ⟨w, hw, rfl⟩ := List.mem_map.1 hj
      exact (hother w u hu).2
  simp only [insertEntry, find_free_none hfull, hvic, hg, Option.map_some]

/-- A row has a free way, or a victim, or is full (R114). -/
theorem row_cases (x : Serial) (r : Registry) :
    (∃ way, FreeWay x way r) ∨ (∃ way e, VictimWay x way e r) ∨ RowFull x r := by
  classical
  by_cases hf : ∃ way, r.get (position (rowOf x) way) = none
  · obtain ⟨way, hw, hmin⟩ := Finset.exists_min_image (Finset.univ.filter fun v => r.get (position (rowOf x) v) = none) id
      (by obtain ⟨w, hw⟩ := hf; exact ⟨w, by simpa using hw⟩)
    refine Or.inl ⟨way, by simpa using hw, fun lower hl hn => ?_⟩
    have := hmin lower (by simpa using hn)
    exact absurd hl (not_lt.2 this)
  have hf : ∀ v, r.get (position (rowOf x) v) ≠ none := not_exists.1 hf
  by_cases he : ∃ v e, r.get (position (rowOf x) v) = some e ∧ e.origin = .discovered ∧ e.state = .expected
  · obtain ⟨way, hw, hmax⟩ := Finset.exists_max_image
      (Finset.univ.filter fun v => ∃ e, r.get (position (rowOf x) v) = some e ∧ e.origin = .discovered ∧ e.state = .expected)
      (fun v => (((r.get (position (rowOf x) v)).bind Entry.unboundSince).getD 0) * 4 + (3 - v.val))
      (by obtain ⟨w, hw⟩ := he; exact ⟨w, by simpa using hw⟩)
    obtain ⟨e, hg, ho, hs⟩ : ∃ e, r.get (position (rowOf x) way) = some e ∧ e.origin = .discovered ∧ e.state = .expected := by
      simpa using hw
    refine Or.inr (Or.inl ⟨way, e, hf, hg, ho, hs, fun v f hv hfo hfs => ?_⟩)
    have := hmax v (by simpa using ⟨f, hv, hfo, hfs⟩)
    simp only [hg, hv, Option.bind_some] at this
    have h1 := v.isLt
    have h2 := way.isLt
    refine ⟨fun hlt => ?_, ?_⟩
    · have : v.val < way.val := hlt
      omega
    · omega
  · refine Or.inr (Or.inr fun v => ?_)
    cases hv : r.get (position (rowOf x) v) with
    | none => exact absurd hv (hf v)
    | some e => exact ⟨e, rfl, fun hc => he ⟨v, e, hv, hc.1, hc.2⟩⟩

/-! ### The application of a manifest (R83, R86) -/

theorem absent_pinned {lines : List ManifestLine} {r pinned : Registry} (h : Pinned lines r pinned) {i : RegIx} :
    (pinned.get i).map Entry.serial = (r.get i).map Entry.serial := by
  obtain ⟨h1, h2⟩ := h i
  cases hr : r.get i with
  | none => rw [h2 (by simp [hr]), hr]
  | some e =>
    by_cases hx : ∃ x ∈ lines, x.serial = e.serial
    · obtain ⟨x, hx, hs⟩ := hx
      rw [h1 e x hr hx hs]; rfl
    · push Not at hx
      rw [h2 (fun f x hf hxl => by rw [hr] at hf; cases hf; exact hx x hxl), hr]

theorem inRows_pinned {lines : List ManifestLine} {r pinned : Registry} (hr : InRows r) (h : Pinned lines r pinned) :
    InRows pinned := by
  intro i e he
  have := absent_pinned h (i := i)
  rw [he] at this
  obtain ⟨f, hf, hs⟩ := Option.map_eq_some_iff.1 this.symm
  rw [← hs]; exact hr i f hf

/-- Pinning the entry of one serial, when its place is the only one that holds it. -/
theorem modifyEntry_get {s : State} (h : RegistryPlaced s) (x : Serial) (f : Entry → Entry) (i : RegIx) :
    (modifyEntry x f s.registry).get i = (s.registry.get i).map fun e => if e.serial = x then f e else e := by
  by_cases ha : Absent x s.registry
  · rw [modifyEntry, lookupSerial_of_absent ha]
    cases hi : s.registry.get i with
    | none => rw [Option.map_none]
    | some e => rw [Option.map_some, if_neg (ha i e hi)]
  · obtain ⟨j, e, hl, hj, hs⟩ := lookupSerial_of_present (inRows_of_placed h) ha
    rw [modifyEntry, hl]
    dsimp only
    by_cases hij : j = i
    · subst hij; rw [Tab.get_modify_self, hj]; simp [hs]
    · rw [Tab.get_modify_other _ _ _ _ hij]
      cases hi : s.registry.get i with
      | none => rfl
      | some g =>
        rw [Option.map_some, if_neg]
        intro hg
        exact hij ((h i g hi).2.1 j e hj (by rw [hs, hg]))

theorem placed_modifyEntry {s : State} (h : RegistryPlaced s) (x : Serial) {f : Entry → Entry}
    (hf : ∀ e, (f e).serial = e.serial ∧ (f e).state = e.state ∧ (f e).boundPort = e.boundPort) :
    RegistryPlaced (s.setRegistry (modifyEntry x f s.registry)) := by
  intro i e he
  rw [State.registry_setRegistry, modifyEntry_get h, Option.map_eq_some_iff] at he
  obtain ⟨e', he', hee⟩ := he
  have hsame : e.serial = e'.serial ∧ e.state = e'.state ∧ e.boundPort = e'.boundPort := by
    rw [← hee]
    by_cases hx : e'.serial = x
    · rw [if_pos hx]; exact hf e'
    · rw [if_neg hx]; exact ⟨rfl, rfl, rfl⟩
  obtain ⟨h1, h2, h3⟩ := h i e' he'
  rw [hsame.1, hsame.2.1, hsame.2.2]
  refine ⟨h1, fun j g hg hgs => ?_, h3⟩
  rw [State.registry_setRegistry, modifyEntry_get h, Option.map_eq_some_iff] at hg
  obtain ⟨g', hg', hgg⟩ := hg
  have : g.serial = g'.serial := by
    rw [← hgg]
    by_cases hx : g'.serial = x
    · rw [if_pos hx]; exact (hf g').1
    · rw [if_neg hx]
  exact h2 j g' hg' (by rw [← this, hgs])

theorem pinLines_get {lines : List ManifestLine} {s : State} (h : RegistryPlaced s) (hn : (lines.map ManifestLine.serial).Nodup)
    (i : RegIx) : (pinLines lines s.registry).get i = (s.registry.get i).map fun e =>
      match lines.find? fun x => x.serial == e.serial with
      | some x => e.pinned x.recipe
      | none => e := by
  induction lines generalizing s with
  | nil => simp [pinLines]
  | cons x lines ih =>
    rw [List.map_cons, List.nodup_cons] at hn
    have hp := placed_modifyEntry h x.serial (f := Entry.pinned x.recipe) (fun e => ⟨rfl, rfl, rfl⟩)
    have := ih hp hn.2
    rw [State.registry_setRegistry] at this
    rw [pinLines, List.foldl_cons]
    rw [pinLines] at this
    rw [this, modifyEntry_get h, Option.map_map]
    congr 1
    funext e
    simp only [Function.comp_apply]
    by_cases he : e.serial = x.serial
    · rw [if_pos he]
      have hnone : lines.find? (fun y => y.serial == (Entry.pinned x.recipe e).serial) = none := by
        rw [List.find?_eq_none]
        intro y hy hys
        have : y.serial = x.serial := by
          rw [← he]; exact (beq_iff_eq.1 hys)
        exact hn.1 (this ▸ List.mem_map_of_mem hy)
      rw [hnone, List.find?_cons, he]; simp
    · rw [if_neg he, List.find?_cons]
      have : (x.serial == e.serial) = false := by simpa using fun h => he h.symm
      rw [this]

theorem pinLines_eq {lines : List ManifestLine} {s : State} {pinned : Registry} (h : RegistryPlaced s)
    (hn : (lines.map ManifestLine.serial).Nodup) (hp : Pinned lines s.registry pinned) :
    pinLines lines s.registry = pinned := by
  apply Tab.ext_get
  intro i
  rw [pinLines_get h hn]
  obtain ⟨h1, h2⟩ := hp i
  cases hi : s.registry.get i with
  | none => rw [Option.map_none, h2 (by simp [hi]), hi]
  | some e =>
    rw [Option.map_some]
    cases hf : lines.find? fun x => x.serial == e.serial with
    | none =>
      rw [List.find?_eq_none] at hf
      rw [h2 (fun f x hf' hx => by rw [hi] at hf'; cases hf'; simpa using hf x hx), hi]
    | some x =>
      have hxs : x.serial = e.serial := by simpa using List.find?_some hf
      rw [h1 e x hi (List.mem_of_find?_eq_some hf) hxs]
      dsimp only [Entry.pinned]
      congr 2
      cases x.recipe with
      | none => simp
      | some n => by_cases he : e.state = .expected <;> simp [he]

theorem insertLines_of_inserts {lines rest : List ManifestLine} {r t : Registry} {n m : Nat} (hr : InRows r)
    (h : Inserts lines r t n m) (n0 m0 : Nat) :
    insertLines { registry := r, inserted := n0, evicted := m0 } (lines ++ rest)
      = insertLines { registry := t, inserted := n0 + n, evicted := m0 + m } rest ∧ InRows t := by
  induction h generalizing n0 m0 with
  | done => exact ⟨rfl, hr⟩
  | present ha _ ih =>
    obtain ⟨i, e, hl, -, -⟩ := lookupSerial_of_present hr ha
    rw [List.cons_append, insertLines, hl]
    exact ih hr n0 m0
  | @free x rest' r t n m way ha hw _ ih =>
    have hin := insertEntry_of_free (e := newEntry x.serial .manifest x.recipe) hw
    rw [List.cons_append, insertLines, lookupSerial_of_absent ha]
    simp only [hin]
    obtain ⟨h1, h2⟩ := ih (inRows_set (e := newEntry x.serial .manifest x.recipe) hr) (n0 + 1) m0
    refine ⟨?_, h2⟩
    have hn : n0 + 1 + n = n0 + (n + 1) := by omega
    rw [hn] at h1
    exact h1
  | @evict x rest' r t n m way e ha hw _ ih =>
    have hin := insertEntry_of_victim (e := newEntry x.serial .manifest x.recipe) hw
    rw [List.cons_append, insertLines, lookupSerial_of_absent ha]
    simp only [hin]
    obtain ⟨h1, h2⟩ := ih (inRows_set (e := newEntry x.serial .manifest x.recipe) hr) (n0 + 1) (m0 + 1)
    refine ⟨?_, h2⟩
    have hn : n0 + 1 + n = n0 + (n + 1) := by omega
    have hm : m0 + 1 + m = m0 + (m + 1) := by omega
    rw [hn, hm] at h1
    exact h1

/-- A manifest that is applied leaves the registry its two passes lead to, with its numbers. -/
theorem applyManifest_of_inserts {lines : List ManifestLine} {s : State} {pinned filled : Registry} {n m : Nat}
    (h : RegistryPlaced s) (hn : (lines.map ManifestLine.serial).Nodup) (hp : Pinned lines s.registry pinned)
    (hi : Inserts lines pinned filled n m) :
    applyManifest lines s.registry = .passed { registry := filled, inserted := n, evicted := m } := by
  have := (insertLines_of_inserts (rest := []) (inRows_pinned (inRows_of_placed h) hp) hi 0 0).1
  rw [applyManifest, pinLines_eq h hn hp]
  simpa [insertLines] using this

/-- A manifest with a line that finds no room fails at that line's block. -/
theorem applyManifest_of_noRoom {lines : List ManifestLine} {s : State} {k : Nat} (h : RegistryPlaced s)
    (hn : (lines.map ManifestLine.serial).Nodup) (hk : NoRoom lines s.registry k) :
    applyManifest lines s.registry = .failed .registryFull (some k) := by
  obtain ⟨before, x, after, pinned, t, n, m, rfl, rfl, hp, hi, ha, hf⟩ := hk
  obtain ⟨h1, -⟩ := insertLines_of_inserts (rest := x :: after) (inRows_pinned (inRows_of_placed h) hp) hi 0 0
  rw [applyManifest, pinLines_eq h hn hp, h1, insertLines, lookupSerial_of_absent ha]
  simp only [insertEntry_of_full (e := newEntry x.serial .manifest x.recipe) hf]

theorem removeAged_get (limit : Nat) (r : Registry) (i : RegIx) : (removeAged limit r).get i = (r.get i).bind (notAged limit) := by
  rw [removeAged, Tab.get_map]
  cases r.get i with
  | none => rfl
  | some e => rfl

/-- The first pass over lines with different serials pins the entries they name. -/
theorem pinned_pinLines {lines : List ManifestLine} {s : State} (h : RegistryPlaced s)
    (hn : (lines.map ManifestLine.serial).Nodup) : Pinned lines s.registry (pinLines lines s.registry) := by
  intro i
  rw [pinLines_get h hn]
  refine ⟨fun e x he hx hs => ?_, fun hno => ?_⟩
  · have hf : lines.find? (fun y => y.serial == e.serial) = some x := by
      cases hf : lines.find? fun y => y.serial == e.serial with
      | none =>
        rw [List.find?_eq_none] at hf
        exact absurd (by simpa using hs) (hf x hx)
      | some y =>
        have hy : y.serial = e.serial := by simpa using List.find?_some hf
        rw [List.inj_on_of_nodup_map hn (List.mem_of_find?_eq_some hf) hx (by rw [hy, hs])]
    simp only [he, Option.map_some, hf, Option.some.injEq, Entry.pinned, Entry.mk.injEq, true_and, and_true]
    cases x.recipe with
    | none => simp
    | some n => by_cases he : e.state = .expected <;> simp [he]
  · cases he : s.registry.get i with
    | none => rfl
    | some e =>
      have hf : lines.find? (fun y => y.serial == e.serial) = none := by
        rw [List.find?_eq_none]
        intro y hy hys
        exact hno e y he hy (by simpa using hys)
      simp only [Option.map_some, hf]

/-- The second pass inserts every line, or finds a row full. -/
theorem inserts_or_full (lines : List ManifestLine) (r : Registry) :
    (∃ t n m, Inserts lines r t n m)
      ∨ ∃ before x after t n m, lines = before ++ x :: after ∧ Inserts before r t n m ∧ Absent x.serial t
        ∧ RowFull x.serial t := by
  induction lines generalizing r with
  | nil => exact Or.inl ⟨r, 0, 0, .done⟩
  | cons x rest ih =>
    by_cases ha : Absent x.serial r
    · rcases row_cases x.serial r with ⟨way, hw⟩ | ⟨way, e, hw⟩ | hfull
      · rcases ih (r.set (position (rowOf x.serial) way) (some (newEntry x.serial .manifest x.recipe))) with
          ⟨t, n, m, h⟩ | ⟨before, y, after, t, n, m, rfl, h, h1, h2⟩
        · exact Or.inl ⟨t, _, _, .free ha hw h⟩
        · exact Or.inr ⟨x :: before, y, after, t, _, _, rfl, .free ha hw h, h1, h2⟩
      · rcases ih (r.set (position (rowOf x.serial) way) (some (newEntry x.serial .manifest x.recipe))) with
          ⟨t, n, m, h⟩ | ⟨before, y, after, t, n, m, rfl, h, h1, h2⟩
        · exact Or.inl ⟨t, _, _, .evict ha hw h⟩
        · exact Or.inr ⟨x :: before, y, after, t, _, _, rfl, .evict ha hw h, h1, h2⟩
      · exact Or.inr ⟨[], x, rest, r, 0, 0, rfl, .done, ha, hfull⟩
    · rcases ih r with ⟨t, n, m, h⟩ | ⟨before, y, after, t, n, m, rfl, h, h1, h2⟩
      · exact Or.inl ⟨t, n, m, .present ha h⟩
      · exact Or.inr ⟨x :: before, y, after, t, n, m, rfl, .present ha h, h1, h2⟩

/-- The trial of a manifest passes, or fails at a line that finds no room. -/
theorem manifest_cases {lines : List ManifestLine} {s : State} (h : RegistryPlaced s)
    (hn : (lines.map ManifestLine.serial).Nodup) :
    (∃ pinned filled n m, Pinned lines s.registry pinned ∧ Inserts lines pinned filled n m)
      ∨ ∃ k, NoRoom lines s.registry k := by
  rcases inserts_or_full lines (pinLines lines s.registry) with ⟨t, n, m, hi⟩ | ⟨before, x, after, t, n, m, hl, hi, ha, hf⟩
  · exact Or.inl ⟨_, t, n, m, pinned_pinLines h hn, hi⟩
  · exact Or.inr ⟨x.place, before, x, after, _, t, n, m, hl, rfl, pinned_pinLines h hn, hi, ha, hf⟩

end Sys2Proof.Machine
end

