-- ==== Sys2Proof/Laws/Steps.lean ====
section
/-! SUPPORT. What the shared operations below a command can do, said once: looking a serial or a record up, the checks on a
number, the claims a step gives back when it ends. -/

open Sys2Proof Sys2Proof.Machine Sys2Proof.Safety

/-! ### Looking things up -/

theorem slotIx_of_ge {n : Nat} (h : 64 ≤ n) : slotIx? n = none := by simp [slotIx?]; omega

theorem slotIx_of_val {n : Nat} {i : SlotIx} (h : i.val = n) : slotIx? n = some i := by subst h; simp [slotIx?]

theorem serialValid_iff (x : Serial) : serialValid x = true ↔ 1 ≤ x.length ∧ x.length ≤ 16 := by simp [serialValid]

/-- Changing the entry of a serial changes its place and no other. -/
theorem modifyEntry_of_placed {s : State} {x : Serial} {i : RegIx} {e : Entry} {f : Entry → Entry}
    (hp : RegistryPlaced s) (he : s.registry.get i = some e) (hx : e.serial = x) :
    modifyEntry x f s.registry = s.registry.set i (some (f e)) := by
  subst hx
  simp [modifyEntry, lookupSerial_of_get hp he, Tab.modify, he]

theorem recordPlace_of_absent {n : Nat} {l : List Record} (h : ∀ r ∈ l, r.sequence ≠ n) : recordPlace n l = none := by
  induction l with
  | nil => rfl
  | cons a l ih => simp [recordPlace, h a (by simp), ih (fun r hr => h r (by simp [hr]))]

/-- A record's place is how many stand before it (R189). -/
theorem recordPlace_of_first {n : Nat} {old kept : List Record} {r : Record} (h : ∀ r ∈ old, r.sequence ≠ n)
    (hr : r.sequence = n) : recordPlace n (old ++ r :: kept) = some old.length := by
  induction old with
  | nil => simp [recordPlace, hr]
  | cons a l ih => simp [recordPlace, h a (by simp), ih (fun r hr => h r (by simp [hr]))]

/-! ### Regions, counters, time -/

theorem grantsPort_iff (i : SlotIx) (p : Port) (s : State) : grantsPort i p s = true ↔ granted i p s := by
  unfold grantsPort granted
  cases h : regionOf i s <;> simp [Region.grants]

theorem counterEnd_eq : counterEnd = 1048576 := by rw [counterEnd]

/-- The order of the expiries of one second is free, the expiries are the same (log entry 3). -/
theorem shuffled_perm (n : Nat) (l : List Instr) : (shuffled n l).Perm l := by
  induction l generalizing n with
  | nil => exact List.Perm.refl _
  | cons a l ih =>
    simp only [shuffled]
    refine (List.perm_insertIdx a (shuffled (n+1) l) ?_).trans ((ih (n+1)).cons a)
    exact Nat.lt_succ_iff.mp (Nat.mod_lt _ (by omega))

/-- A reservation granted and returned in one event leaves only what the grant signalled (R182, R184). -/
theorem returnReservation_reserved {p : Port} {s : State} (h : ResHolder.bench p ∉ s.journal.reservations) :
    returnReservation (.bench p) (reserved (.bench p) s) = { s with flags := (reserved (.bench p) s).flags } := by
  have he' : (s.journal.reservations ++ [ResHolder.bench p]).erase (ResHolder.bench p) = s.journal.reservations := by
    rw [List.erase_append_right _ h]; simp
  apply State.eq_of_fields <;> simp [returnReservation, he']
  rfl

/-! ### Claims given back (R8, R11, R17) -/

/-- An erasure empties its slot, and writes at most the KEY_ERASED record of the ceremony it ends (R17). -/
theorem completeErasure_spec (i : SlotIx) (s : State) :
    (∀ j, (completeErasure i s).slot j = if i = j then { s.slot i with content := .empty } else s.slot j)
      ∧ ((completeErasure i s).journal.records = s.journal.records
        ∨ ((∃ w, s.ceremony.run = .work w) ∧ (completeErasure i s).ceremony.run = .idle
          ∧ ∃ n g pr, (completeErasure i s).journal.records = s.journal.records ++ [⟨n, .keyErased i g pr⟩]))
      ∧ (∀ h, h ∉ s.journal.reservations → h ∉ (completeErasure i s).journal.reservations) := by
  refine ⟨fun j => ?_, ?_, fun h hn => ?_⟩
  · unfold completeErasure; simp only []; by_cases hij : i = j <;> split <;> (try split) <;> simp_all [State.slot_setSlot]
  · unfold completeErasure; simp only []; split <;> (try split)
    · rename_i w hw _ pr _
      exact Or.inr ⟨⟨w, hw⟩, by simp [finishCeremony], s.journal.nextSequence, (s.slot i).generation, pr,
        by simp [writeRecord, Journal.append]⟩
    · left; simp
    · left; simp
  · unfold completeErasure; simp only []; split <;> (try split) <;> simp [hn, writeRecord, Journal.append]
    exact fun hm => hn (List.mem_of_mem_erase hm)

/-- A claim given back lowers one count, and empties an ERASING slot at 0 (R11, R17). -/
theorem lowerInUse_spec (i : SlotIx) (s : State) :
    (∀ j, i ≠ j → (lowerInUse i s).slot j = s.slot j)
      ∧ ((lowerInUse i s).slot i).inUse = (s.slot i).inUse - 1
      ∧ ((lowerInUse i s).slot i).generation = (s.slot i).generation
      ∧ ((∀ k, (s.slot i).content ≠ .erasing k) → ((lowerInUse i s).slot i).content = (s.slot i).content)
      ∧ ((lowerInUse i s).journal.records = s.journal.records
        ∨ ((∃ w, s.ceremony.run = .work w) ∧ (lowerInUse i s).ceremony.run = .idle
          ∧ ∃ n g pr, (lowerInUse i s).journal.records = s.journal.records ++ [⟨n, .keyErased i g pr⟩]))
      ∧ (∀ h, h ∉ s.journal.reservations → h ∉ (lowerInUse i s).journal.reservations) := by
  have he := completeErasure_spec i (s.setSlot i { s.slot i with inUse := (s.slot i).inUse - 1 })
  refine ⟨fun j hij => ?_, ?_, ?_, ?_, ?_, ?_⟩ <;> unfold lowerInUse <;> simp only []
  · split <;> (try split) <;> simp [State.slot_setSlot, he.1, hij]
  · split <;> (try split) <;> simp [he.1]
  · split <;> (try split) <;> simp [he.1]
  · split
    · rename_i k hk; exact fun h => absurd hk (h k)
    · exact fun _ => by simp
  · split
    · split
      · simpa using he.2.1
      · left; simp
    · left; simp
  · intro h hn; split
    · split
      · exact he.2.2 h (by simpa using hn)
      · simpa using hn
    · simpa using hn

/-- A step that ends stands in the journal, uses its reservation and gives its claims back (R8, R11, R183). -/
theorem endStep_spec (p : Port) (ps : PendingStep) (body : RecordBody) (s : State) :
    StepReleased ps.facts s (endStep p ps body s)
      ∧ (s.journal.reservations.Nodup → StepRecorded p body s (endStep p ps body s)) := by
  simp only [endStep]
  generalize hv : (writeRecord (.bench p) body s).setStep p none = v
  have hvs : ∀ i, v.slot i = s.slot i := by subst hv; simp
  have ha := lowerInUse_spec ps.facts.source v
  have hb := lowerInUse_spec ps.facts.cover (lowerInUse ps.facts.source v)
  refine ⟨⟨fun hne => ⟨?_, ?_⟩, fun i h1 h2 => ?_, fun i => ?_⟩, fun hn => ⟨?_, ?_, ?_⟩⟩
  · rw [hb.1 _ (Ne.symm hne), ha.2.1, hvs]
  · rw [hb.2.1, ha.1 _ hne, hvs]
  · rw [hb.1 _ (Ne.symm h2), ha.1 _ (Ne.symm h1), hvs]
  · have hmid : ((lowerInUse ps.facts.source v).slot i).generation = (s.slot i).generation
        ∧ ((∀ k, (s.slot i).content ≠ .erasing k) →
          ((lowerInUse ps.facts.source v).slot i).content = (s.slot i).content) := by
      by_cases h1 : ps.facts.source = i
      · subst h1; exact ⟨by rw [ha.2.2.1, hvs], fun hk => by rw [ha.2.2.2.1 (by rw [hvs]; exact hk), hvs]⟩
      · rw [ha.1 _ h1, hvs]; exact ⟨rfl, fun _ => rfl⟩
    by_cases h2 : ps.facts.cover = i
    · subst h2
      exact ⟨by rw [hb.2.2.1, hmid.1],
        fun hk => by rw [hb.2.2.2.1 (by rw [hmid.2 hk]; exact hk), hmid.2 hk]⟩
    · rw [hb.1 _ h2]; exact hmid
  · subst hv; simp
  · have hvr : v.journal.records = s.journal.records ++ [{ sequence := s.journal.nextSequence, body := body }] := by
      subst hv; simp [writeRecord, Journal.append]
    rcases ha.2.2.2.2.1 with h1 | ⟨-, h1i, n, g, pr, h1⟩
    · rcases hb.2.2.2.2.1 with h2 | ⟨-, -, n, g, pr, h2⟩
      · exact ⟨[], by rw [h2, h1, hvr], by simp, by simp⟩
      · exact ⟨[⟨n, .keyErased ps.facts.cover g pr⟩], by rw [h2, h1, hvr]; simp, by simp, by simp⟩
    · rcases hb.2.2.2.2.1 with h2 | ⟨⟨w, hw⟩, -⟩
      · exact ⟨[⟨n, .keyErased ps.facts.source g pr⟩], by rw [h2, h1, hvr]; simp, by simp, by simp⟩
      · rw [h1i] at hw; cases hw
  · apply hb.2.2.2.2.2; apply ha.2.2.2.2.2
    subst hv
    simp [writeRecord, Journal.append]
    exact hn.not_mem_erase

/-! ### The end of an import (R71, R143) -/

theorem unwrapEnvelope_of_authentic {transport : KeyBytes} {e : BankEnvelope} (h : Authentic transport e) :
    unwrapEnvelope transport e =
      .opened (e.recovered transport) (Config.kcv ((e.recovered transport).getD [])) e.usableClass e.length e.keySet := by
  rw [unwrapEnvelope, if_pos ((passes_iff _ _).2 h)]

theorem unwrapEnvelope_of_unauthentic {transport : KeyBytes} {e : BankEnvelope} (h : ¬Authentic transport e) :
    unwrapEnvelope transport e = .failed := by
  rw [unwrapEnvelope, if_neg (mt (passes_iff _ _).1 h)]

theorem lengthUsable_iff (e : BankEnvelope) :
    e.lengthUsable = true ↔ (e.length = 16 ∨ e.length = 32) ∧ e.length + 8 = e.wrapped.length := by
  simp [BankEnvelope.lengthUsable]

/-- What an authentic envelope gives is a key for its target exactly when it can be installed there. -/
theorem usableKey_iff (target : SlotIx) (transport : KeyBytes) (e : BankEnvelope) (held : HeldKey) (s : State) :
    usableKey target (e.recovered transport) (Config.kcv ((e.recovered transport).getD [])) e.usableClass e.length e.keySet s
        = some held
      ↔ Installable target transport e held s := by
  unfold Installable
  cases hl : e.lengthUsable with
  | false =>
    have hn := mt (lengthUsable_iff e).2 (by simp [hl])
    simp only [BankEnvelope.recovered, hl, usableKey]
    constructor
    · intro h; cases h
    · rintro ⟨c, r, -, -, -, h1, h2, -⟩; exact absurd ⟨h1, h2⟩ hn
  | true =>
    obtain ⟨h1, h2⟩ := (lengthUsable_iff e).1 hl
    simp only [BankEnvelope.recovered, hl, if_true, BankEnvelope.usableClass, Bool.true_and, Option.getD_some]
    obtain ⟨use, length, material, kcv⟩ := held
    cases hc : classOf? e.cls.toNat with
    | none => simp [usableKey]
    | some c =>
      cases hr : regionOf target s with
      | none => cases hk : keySetFits c e.keySet <;> simp [usableKey, hr]
      | some r =>
        cases ha : r.admits c <;> cases c <;> cases hk : e.keySet <;>
          simp [usableKey, keySetFits, newKeyUse, hr, ha, h1, h2] <;> grind

/-- The outcome of an import in the order of R71. -/
theorem importOutcome_spec (w : ImportWork) (transport : KeyBytes) (e : BankEnvelope) (s : State) :
    (w.zeroised = true → importOutcome w (.unwrap transport e) s = .failed .zeroised)
    ∧ (w.zeroised = false → ¬Authentic transport e → importOutcome w (.unwrap transport e) s = .failed .authFailed)
    ∧ (w.zeroised = false → Authentic transport e → (∀ held, ¬Installable w.target transport e held s) →
      importOutcome w (.unwrap transport e) s = .failed .wrongClass)
    ∧ ∀ held, w.zeroised = false → Authentic transport e → Installable w.target transport e held s →
      importOutcome w (.unwrap transport e) s = .installed held := by
  refine ⟨fun h => ?_, fun h ha => ?_, fun h ha hn => ?_, fun held h ha hi => ?_⟩
  · simp [importOutcome, h]
  · simp [importOutcome, h, unwrapEnvelope_of_unauthentic ha]
  · have : usableKey w.target (e.recovered transport) (Config.kcv ((e.recovered transport).getD [])) e.usableClass e.length
        e.keySet s = none := by
      rw [Option.eq_none_iff_forall_ne_some]
      intro held hu
      exact hn held ((usableKey_iff _ _ _ _ _).1 hu)
    simp [importOutcome, h, unwrapEnvelope_of_authentic ha, this]
  · simp [importOutcome, h, unwrapEnvelope_of_authentic ha, (usableKey_iff _ _ _ _ _).2 hi]
end

