-- ==== Sys2Proof/Laws/Validation.lean ====
section
/-! SUPPORT. Validation (R82): what each check of PROFILE_COMMIT finds in the staged blocks, and that validation as a whole fails or
passes as the statements say. -/

namespace Sys2Proof.Machine

open Sys2Proof.Safety

/-! ### Positions -/

/-- The staged block at a position, as the checks hold it. -/
def atPlace (x : Nat × StagedBlock) : Placed := { place := x.1, block := x.2 }

theorem placed_eq_zip (l : List StagedBlock) (n : Nat) : placed n l = ((List.range' n l.length).zip l).map atPlace := by
  induction l generalizing n with
  | nil => rfl
  | cons b l ih => simp [placed, List.range'_succ, ih, atPlace]

theorem placed_eq_positioned (staged : List StagedBlock) : placed 0 staged = (positioned staged).map atPlace := by
  rw [placed_eq_zip, positioned, List.range_eq_range']

theorem ofKind_eq_blocksOf (kind : Byte) (staged : List StagedBlock) :
    ofKind kind (placed 0 staged) = (blocksOf kind staged).map atPlace := by
  rw [placed_eq_positioned, ofKind, List.filter_map]; rfl

theorem mem_positioned {staged : List StagedBlock} {x : Nat × StagedBlock} :
    x ∈ positioned staged ↔ staged[x.1]? = some x.2 := by
  rw [List.mem_iff_getElem?]
  simp only [positioned, List.getElem?_zip_eq_some]
  constructor
  · rintro ⟨i, h1, h2⟩
    obtain ⟨hi, h1⟩ := List.getElem?_eq_some_iff.1 h1
    rw [List.getElem_range] at h1
    rw [← h1]; exact h2
  · intro h
    obtain ⟨hi, -⟩ := List.getElem?_eq_some_iff.1 h
    exact ⟨x.1, List.getElem?_eq_some_iff.2 ⟨by simpa using hi, by simp⟩, h⟩

theorem mem_blocksOf {kind : Byte} {staged : List StagedBlock} {x : Nat × StagedBlock} :
    x ∈ blocksOf kind staged ↔ staged[x.1]? = some x.2 ∧ x.2.kind = kind := by
  simp [blocksOf, mem_positioned]

theorem blocksOf_sorted (kind : Byte) (staged : List StagedBlock) :
    (blocksOf kind staged).Pairwise fun x y => x.1 < y.1 := by
  refine List.Pairwise.filter _ ?_
  have : ((positioned staged).map Prod.fst).Pairwise (· < ·) := by
    rw [positioned, List.map_fst_zip (by simp)]
    exact List.pairwise_lt_range
  exact List.pairwise_map.1 this

/-- The blocks of a kind around one of them. -/
theorem blocksOf_split {kind : Byte} {staged : List StagedBlock} {x : Nat × StagedBlock} (h : x ∈ blocksOf kind staged) :
    ∃ pre post, blocksOf kind staged = pre ++ x :: post ∧ ∀ y, y ∈ pre ↔ y ∈ blocksOf kind staged ∧ y.1 < x.1 := by
  obtain ⟨pre, post, hs⟩ := List.mem_iff_append.1 h
  have hp := blocksOf_sorted kind staged
  rw [hs, List.pairwise_append, List.pairwise_cons] at hp
  refine ⟨pre, post, hs, fun y => ⟨fun hy => ⟨by rw [hs]; simp [hy], hp.2.2 y hy x (by simp)⟩, ?_⟩⟩
  rintro ⟨hy, hlt⟩
  rw [hs, List.mem_append, List.mem_cons] at hy
  rcases hy with hy | rfl | hy
  · exact hy
  · omega
  · have := hp.2.1.1 y hy; omega

theorem blocksOf_eq_of_not_repeats {kind : Byte} {staged : List StagedBlock} {x : Nat × StagedBlock}
    (hk : kind ∈ [1#8, 2#8, 3#8]) (hr : ∀ k, ¬Repeats staged k) (hx : x ∈ blocksOf kind staged) :
    blocksOf kind staged = [x] := by
  have hone : ∀ y z, y ∈ blocksOf kind staged → z ∈ blocksOf kind staged → ¬y.1 < z.1 := by
    intro y z hy hz hlt
    rw [mem_blocksOf] at hy hz
    exact hr z.1 ⟨y.1, y.2, z.2, hlt, hy.1, hz.1, by rw [hy.2, hz.2], Or.inl (by rw [hy.2]; exact hk)⟩
  obtain ⟨pre, post, hs, -⟩ := blocksOf_split hx
  have hp := blocksOf_sorted kind staged
  have hpre : pre = [] := by
    rw [List.eq_nil_iff_forall_not_mem]
    intro y hy
    rw [hs, List.pairwise_append] at hp
    exact hone y x (by rw [hs]; simp [hy]) hx (hp.2.2 y hy x (by simp))
  subst hpre
  have hpost : post = [] := by
    rw [List.eq_nil_iff_forall_not_mem]
    intro y hy
    rw [hs, List.nil_append, List.pairwise_cons] at hp
    exact hone x y hx (by rw [hs]; simp [hy]) (hp.1 y hy)
  rw [hs, hpost]; rfl

theorem exists_of_not_missing {staged : List StagedBlock} (h : ¬MissingBlock staged) {kind : Byte}
    (hk : kind ∈ [1#8, 2#8, 3#8, 4#8]) : ∃ x, x ∈ blocksOf kind staged := by
  by_contra hn
  refine h ⟨kind, hk, fun b hb hbk => hn ?_⟩
  obtain ⟨i, hi⟩ := List.mem_iff_getElem?.1 hb
  exact ⟨(i, b), mem_blocksOf.2 ⟨hi, hbk⟩⟩

/-! ### Duplicates -/

theorem duplicates_iff (x y : Placed) : duplicates x y = true ↔ x.block.kind = y.block.kind
    ∧ (x.block.kind ∈ [1#8, 2#8, 3#8]
      ∨ x.block.kind = 4 ∧ ∃ n, x.block.body.head? = some n ∧ y.block.body.head? = some n) := by
  simp only [duplicates, Placed.recipeByte, Bool.and_eq_true, Bool.or_eq_true, beq_iff_eq, List.mem_cons, List.not_mem_nil,
    or_false]
  have hn : ((x.block.body.head?.isSome = true ∧ x.block.body.head? = y.block.body.head?)
      ↔ ∃ n, x.block.body.head? = some n ∧ y.block.body.head? = some n) := by
    rw [Option.isSome_iff_exists]
    constructor
    · rintro ⟨⟨n, hn⟩, h⟩; exact ⟨n, hn, by rw [← h, hn]⟩
    · rintro ⟨n, h1, h2⟩; exact ⟨⟨n, h1⟩, by rw [h1, h2]⟩
  rw [← hn]
  tauto

theorem firstDuplicate_none {earlier xs : List Placed}
    (h : ∀ (i : Nat) x, xs[i]? = some x → (∀ y ∈ earlier, duplicates x y = false)
      ∧ ∀ (j : Nat) y, j < i → xs[j]? = some y → duplicates x y = false) : firstDuplicate earlier xs = none := by
  induction xs generalizing earlier with
  | nil => rfl
  | cons x xs ih =>
    have h0 := (h 0 x rfl).1
    rw [firstDuplicate, if_neg (by simpa using h0)]
    apply ih
    intro i z hz
    obtain ⟨h1, h2⟩ := h (i + 1) z (by simpa using hz)
    refine ⟨?_, fun j y hj hy => h2 (j + 1) y (by omega) (by simpa using hy)⟩
    intro y hy
    rcases List.mem_cons.1 hy with rfl | hy
    · exact h2 0 y (by omega) rfl
    · exact h1 y hy

theorem firstDuplicate_some {earlier xs : List Placed} {k : Nat} {x : Placed} (hk : xs[k]? = some x)
    (hd : (∃ y ∈ earlier, duplicates x y = true) ∨ ∃ (j : Nat) (y : Placed), j < k ∧ xs[j]? = some y ∧ duplicates x y = true)
    (h : ∀ (i : Nat) z, i < k → xs[i]? = some z → (∀ y ∈ earlier, duplicates z y = false)
      ∧ ∀ (j : Nat) y, j < i → xs[j]? = some y → duplicates z y = false) : firstDuplicate earlier xs = some x.place := by
  induction xs generalizing earlier k with
  | nil => simp at hk
  | cons a xs ih =>
    cases k with
    | zero =>
      simp only [List.getElem?_cons_zero, Option.some.injEq] at hk
      subst hk
      rcases hd with ⟨y, hy, hd⟩ | ⟨j, y, hj, -⟩
      · rw [firstDuplicate, if_pos]; simp only [List.any_eq_true]; exact ⟨y, hy, hd⟩
      · omega
    | succ k =>
      have h0 := (h 0 a (by omega) rfl).1
      rw [firstDuplicate, if_neg (by simpa using h0)]
      refine ih (by simpa using hk) ?_ ?_
      · rcases hd with ⟨y, hy, hd⟩ | ⟨j, y, hj, hy, hd⟩
        · exact Or.inl ⟨y, by simp [hy], hd⟩
        · cases j with
          | zero => cases hy; exact Or.inl ⟨a, by simp, hd⟩
          | succ j => exact Or.inr ⟨j, y, by omega, by simpa using hy, hd⟩
      · intro i z hi hz
        obtain ⟨h1, h2⟩ := h (i + 1) z (by omega) (by simpa using hz)
        refine ⟨?_, fun j y hj hy => h2 (j + 1) y (by omega) (by simpa using hy)⟩
        intro y hy
        rcases List.mem_cons.1 hy with rfl | hy
        · exact h2 0 y (by omega) rfl
        · exact h1 y hy

theorem placed_getElem? (staged : List StagedBlock) (i : Nat) :
    (placed 0 staged)[i]? = staged[i]?.map fun b => atPlace (i, b) := by
  have key : ∀ (l : List StagedBlock) (n i : Nat), (placed n l)[i]? = l[i]?.map fun b => atPlace (n + i, b) := by
    intro l
    induction l with
    | nil => intro n i; simp [placed]
    | cons b l ih =>
      intro n i
      cases i with
      | zero => simp [placed, atPlace]
      | succ i =>
        simp only [placed, List.getElem?_cons_succ, ih]
        congr; funext b; congr 2; omega
  simpa using key staged 0 i

theorem repeats_iff {staged : List StagedBlock} {k : Nat} : Repeats staged k ↔
    ∃ j x y, j < k ∧ (placed 0 staged)[j]? = some x ∧ (placed 0 staged)[k]? = some y ∧ duplicates y x = true := by
  simp only [placed_getElem?, Option.map_eq_some_iff]
  constructor
  · rintro ⟨j, x, y, hj, hx, hy, hk, h⟩
    refine ⟨j, _, _, hj, ⟨x, hx, rfl⟩, ⟨y, hy, rfl⟩, (duplicates_iff _ _).2 ⟨hk.symm, ?_⟩⟩
    rcases h with h | ⟨h, n, h1, h2⟩
    · exact Or.inl (show y.kind ∈ _ from hk ▸ h)
    · exact Or.inr ⟨show y.kind = 4 from hk ▸ h, n, h2, h1⟩
  · rintro ⟨j, -, -, hj, ⟨x, hx, rfl⟩, ⟨y, hy, rfl⟩, h⟩
    obtain ⟨hk, h⟩ := (duplicates_iff _ _).1 h
    refine ⟨j, x, y, hj, hx, hy, hk.symm, ?_⟩
    rcases h with h | ⟨h, n, h1, h2⟩
    · exact Or.inl (show x.kind ∈ _ from (show y.kind = x.kind from hk) ▸ h)
    · exact Or.inr ⟨show x.kind = 4 from (show y.kind = x.kind from hk) ▸ h, n, h2, h1⟩

theorem firstDuplicate_of_single {staged : List StagedBlock} (h : ∀ k, ¬Repeats staged k) :
    firstDuplicate [] (placed 0 staged) = none := by
  apply firstDuplicate_none
  intro i x hx
  refine ⟨by simp, fun j y hj hy => ?_⟩
  by_contra hd
  exact h i (repeats_iff.2 ⟨j, y, x, hj, hy, hx, by simpa using hd⟩)

theorem firstDuplicate_of_repeats {staged : List StagedBlock} {k : Nat} (h : FirstWith (Repeats staged) k) :
    firstDuplicate [] (placed 0 staged) = some k := by
  obtain ⟨j, x, y, hj, hx, hy, hd⟩ := repeats_iff.1 h.1
  have hp : y.place = k := by
    rw [placed_getElem?, Option.map_eq_some_iff] at hy
    obtain ⟨b, -, rfl⟩ := hy; rfl
  rw [firstDuplicate_some hy (Or.inr ⟨j, x, hj, hx, hd⟩) ?_, hp]
  intro i z hi hz
  refine ⟨by simp, fun j' y' hj' hy' => ?_⟩
  by_contra hd'
  exact h.2 i hi (repeats_iff.2 ⟨j', y', z, hj', hy', hz, by simpa using hd'⟩)

/-! ### Recipes -/

theorem recipeBody_unique {body : List Byte} {r q : Recipe} (hr : RecipeBody body r) (hq : RecipeBody body q) : r = q :=
  Option.some.inj (((readRecipe_eq_some body r).2 hr).symm.trans ((readRecipe_eq_some body q).2 hq))

theorem recipesStaged_unique {l : List (Nat × StagedBlock)} {a b : List Recipe}
    (ha : List.Forall₂ (fun x r => RecipeBody x.2.body r) l a) (hb : List.Forall₂ (fun x r => RecipeBody x.2.body r) l b) :
    a = b := by
  induction ha generalizing b with
  | nil => cases hb; rfl
  | cons h _ ih => cases hb with | cons h' hb => rw [recipeBody_unique h h', ih hb]

theorem readRecipes_append {pre rest : List (Nat × StagedBlock)} {earlier new : List Recipe}
    (h : List.Forall₂ (fun x r => RecipeBody x.2.body r) pre new)
    (hm : ((earlier ++ new).map Recipe.model).Nodup) :
    readRecipes earlier ((pre ++ rest).map atPlace) = readRecipes (earlier ++ new) (rest.map atPlace) := by
  induction h generalizing earlier with
  | nil => simp
  | @cons x r pre new hx _ ih =>
    have hr := (readRecipe_eq_some _ _).2 hx
    have hm' : ∀ q ∈ earlier, q.model ≠ r.model := by
      rw [List.map_append, List.nodup_append] at hm
      intro q hq
      exact hm.2.2 q.model (List.mem_map_of_mem hq) r.model (by simp)
    rw [List.cons_append, List.map_cons, readRecipes]
    simp only [atPlace, hr]
    rw [if_neg (by simpa using hm')]
    have := ih (earlier := earlier ++ [r]) (by simpa using hm)
    simpa [atPlace] using this

theorem readRecipes_bad {x : Nat × StagedBlock} {rest : List (Nat × StagedBlock)} {earlier : List Recipe}
    (h : ∀ r, RecipeBody x.2.body r → ∃ q ∈ earlier, q.model = r.model) :
    readRecipes earlier ((x :: rest).map atPlace) = .failed .badRecipe (some x.1) := by
  rw [List.map_cons, readRecipes]
  cases hr : readRecipe (atPlace x).block.body with
  | none => rfl
  | some r =>
    obtain ⟨q, hq, hm⟩ := h r ((readRecipe_eq_some _ _).1 hr)
    dsimp only
    rw [if_pos (by simpa using ⟨q, hq, hm⟩)]; rfl

theorem forall₂_of_mem_right {α β : Type} {R : α → β → Prop} {l : List α} {m : List β} (h : List.Forall₂ R l m) :
    ∀ b ∈ m, ∃ a ∈ l, R a b := by
  induction h with
  | nil => simp
  | cons h _ ih =>
    intro b hb
    rcases List.mem_cons.1 hb with rfl | hb
    · exact ⟨_, by simp, h⟩
    · obtain ⟨a, ha, hr⟩ := ih b hb; exact ⟨a, by simp [ha], hr⟩

theorem forall₂_of_mem_left {α β : Type} {R : α → β → Prop} {l : List α} {m : List β} (h : List.Forall₂ R l m) :
    ∀ a ∈ l, ∃ b ∈ m, R a b := by
  induction h with
  | nil => simp
  | cons h _ ih =>
    intro b hb
    rcases List.mem_cons.1 hb with rfl | hb
    · exact ⟨_, by simp, h⟩
    · obtain ⟨a, ha, hr⟩ := ih b hb; exact ⟨a, by simp [ha], hr⟩

/-- The recipe blocks before one that is bad read, with model codes all different. -/
theorem recipes_of_good {staged : List StagedBlock} {pre : List (Nat × StagedBlock)}
    (hs : pre.Pairwise fun x y => x.1 < y.1) (hm : ∀ y ∈ pre, y ∈ blocksOf 4 staged) (h : ∀ y ∈ pre, ¬BadRecipe staged y.1) :
    ∃ new, List.Forall₂ (fun x r => RecipeBody x.2.body r) pre new ∧ (new.map Recipe.model).Nodup := by
  induction pre using List.reverseRecOn with
  | nil => exact ⟨[], .nil, by simp⟩
  | append_singleton pre y ih =>
    rw [List.pairwise_append] at hs
    obtain ⟨new, hf, hd⟩ := ih hs.1 (fun z hz => hm z (by simp [hz])) (fun z hz => h z (by simp [hz]))
    have hy := h y (by simp)
    have : ∃ r, RecipeBody y.2.body r ∧ ∀ j c q, j < y.1 → (j, c) ∈ blocksOf 4 staged → RecipeBody c.body q →
        q.model ≠ r.model := by
      by_contra hc
      refine hy ⟨y.2, hm y (by simp), fun r hr => ?_⟩
      by_contra hx
      exact hc ⟨r, hr, fun j c q hj hjc hq he => hx ⟨j, c, q, hj, hjc, hq, he⟩⟩
    obtain ⟨r, hr, hne⟩ := this
    refine ⟨new ++ [r], List.rel_append hf (.cons hr .nil), ?_⟩
    rw [List.map_append, List.nodup_append]
    refine ⟨hd, by simp, ?_⟩
    intro a ha b hb
    obtain ⟨q, hq, rfl⟩ := List.mem_map.1 ha
    obtain ⟨z, hz, hzq⟩ := forall₂_of_mem_right hf q hq
    rw [List.map_singleton, List.mem_singleton] at hb
    subst hb
    exact hne z.1 z.2 q (hs.2.2 z hz y (by simp)) (hm z (by simp [hz])) hzq

theorem readRecipes_of_bad {staged : List StagedBlock} {k : Nat} (h : FirstWith (BadRecipe staged) k) :
    readRecipes [] (ofKind 4 (placed 0 staged)) = .failed .badRecipe (some k) := by
  obtain ⟨⟨b, hb, hbad⟩, hbefore⟩ := h
  obtain ⟨pre, post, hs, hpre⟩ := blocksOf_split hb
  have hsorted := blocksOf_sorted 4 staged
  rw [hs, List.pairwise_append] at hsorted
  obtain ⟨new, hf, hd⟩ := recipes_of_good (staged := staged) hsorted.1 (fun y hy => ((hpre y).1 hy).1)
    (fun y hy => hbefore y.1 ((hpre y).1 hy).2)
  rw [ofKind_eq_blocksOf, hs, readRecipes_append hf (by simpa using hd), List.nil_append, readRecipes_bad]
  intro r hr
  obtain ⟨j, c, q, hj, hjc, hq, he⟩ := hbad r hr
  obtain ⟨q', hq', hr'⟩ := forall₂_of_mem_left hf (j, c) ((hpre _).2 ⟨hjc, hj⟩)
  rw [recipeBody_unique hq hr'] at he
  exact ⟨q', hq', he⟩

theorem readRecipes_of_staged {staged : List StagedBlock} {recipes : List Recipe} (h : RecipesStaged staged recipes)
    (hm : (recipes.map Recipe.model).Nodup) : readRecipes [] (ofKind 4 (placed 0 staged)) = .passed recipes := by
  have := readRecipes_append (rest := []) (earlier := []) h (by simpa using hm)
  rw [ofKind_eq_blocksOf]
  simpa [readRecipes] using this

theorem readRecipes_of_good {staged : List StagedBlock} {recipes : List Recipe} (h : ∀ k, ¬BadRecipe staged k)
    (hs : RecipesStaged staged recipes) : readRecipes [] (ofKind 4 (placed 0 staged)) = .passed recipes := by
  obtain ⟨new, hf, hd⟩ := recipes_of_good (staged := staged) (blocksOf_sorted 4 staged) (fun y hy => hy) (fun y _ => h y.1)
  rw [recipesStaged_unique hs hf]
  exact readRecipes_of_staged hf hd

/-! ### Ports -/

theorem hasRecipe_iff (recipes : List Recipe) (n : Fin 16) : hasRecipe recipes n = true ↔ Names recipes n := by
  simp [hasRecipe, Names]

theorem tab_forall {α : Type} {n : Nat} (t : Tab α n) (f : α → Prop) : (∀ a ∈ t.data, f a) ↔ ∀ i, f (t.get i) := by
  constructor
  · intro h i; exact h _ (List.getElem_mem _)
  · intro h a ha
    obtain ⟨i, hi, rfl⟩ := List.mem_iff_getElem.1 ha
    exact h ⟨i, by rw [← t.size]; exact hi⟩

theorem portsNameRecipes_iff (ports : Tab PortEntry 8) (recipes : List Recipe) :
    portsNameRecipes ports recipes = true ↔ ∀ p n, (ports.get p).allowed.getLsbD n.val = true → Names recipes n := by
  have hall : ∀ n : Fin 16, n ∈ allRecipeNumbers := by decide
  simp only [portsNameRecipes, List.all_eq_true]
  rw [tab_forall ports fun e => ∀ n ∈ allRecipeNumbers, (!e.allowed.getLsbD n.val || hasRecipe recipes n) = true]
  refine forall_congr' fun p => forall_congr' fun n => ?_
  rw [← hasRecipe_iff]
  have := hall n
  cases (ports.get p).allowed.getLsbD n.val <;> simp [this]

/-! ### The manifest -/

theorem linesGood_left {recipes : List Recipe} {a b : List ManifestLine} (h : LinesGood recipes (a ++ b)) :
    LinesGood recipes a := by
  obtain ⟨h1, h2, h3⟩ := h
  rw [List.map_append, List.nodup_append] at h1
  rw [List.length_append] at h2
  exact ⟨h1.1, by omega, fun x hx => h3 x (by simp [hx])⟩

theorem joinLines_good {recipes : List Recipe} {earlier lines : List ManifestLine}
    (h : LinesGood recipes (earlier ++ lines)) : joinLines recipes earlier lines = some (earlier ++ lines) := by
  induction lines generalizing earlier with
  | nil => simp [joinLines]
  | cons x lines ih =>
    have h' : LinesGood recipes ((earlier ++ [x]) ++ lines) := by simpa using h
    obtain ⟨h1, h2, h3⟩ := linesGood_left h'
    rw [List.map_append, List.nodup_append] at h1
    have hs : ∀ y ∈ earlier, y.serial ≠ x.serial := fun y hy =>
      h1.2.2 y.serial (List.mem_map_of_mem hy) x.serial (by simp)
    rw [joinLines, if_neg (by simpa using hs), if_neg, if_neg, ih h']
    · simp
    · simp at h2; omega
    · have := h3 x (by simp)
      cases hx : x.recipe with
      | none => simp
      | some n => simp [(hasRecipe_iff recipes n).2 (this n hx)]

theorem joinLines_bad {recipes : List Recipe} {earlier lines : List ManifestLine} (he : LinesGood recipes earlier)
    (h : ¬LinesGood recipes (earlier ++ lines)) : joinLines recipes earlier lines = none := by
  induction lines generalizing earlier with
  | nil => simp at h; exact absurd he h
  | cons x lines ih =>
    rw [joinLines]
    by_cases hs : (earlier.any fun y => y.serial == x.serial) = true
    · rw [if_pos hs]
    rw [if_neg hs]
    by_cases hn : ∀ n, x.recipe = some n → hasRecipe recipes n = true
    · by_cases hl : 256 ≤ earlier.length
      · simp [hl]
      · have hx : (!(match x.recipe with | none => true | some n => hasRecipe recipes n)) = false := by
          cases hx : x.recipe with
          | none => rfl
          | some n => simp [hn n hx]
        have hg : LinesGood recipes (earlier ++ [x]) := by
          refine ⟨?_, by simp; omega, fun y hy n hn' => ?_⟩
          · rw [List.map_append, List.nodup_append]
            refine ⟨he.1, by simp, ?_⟩
            intro a ha b hb
            obtain ⟨y, hy, rfl⟩ := List.mem_map.1 ha
            simp only [List.map_cons, List.map_nil, List.mem_singleton] at hb
            subst hb
            simp only [List.any_eq_true, beq_iff_eq, not_exists, not_and] at hs
            exact hs y hy
          · rcases List.mem_append.1 hy with hy | hy
            · exact he.2.2 y hy n hn'
            · rw [List.mem_singleton] at hy
              subst hy
              exact (hasRecipe_iff recipes n).1 (hn n hn')
        have := ih hg (by simpa using h)
        cases hx' : x.recipe with
        | none => simp [hl, this]
        | some n => simp [hn n hx', hl, this]
    · push Not at hn
      obtain ⟨n, hx, hf⟩ := hn
      simp [hx, hf]

theorem manifestBody_unique {place : Nat} {body : List Byte} {a b : List ManifestLine} (ha : ManifestBody place body a)
    (hb : ManifestBody place body b) : a = b :=
  Option.some.inj (((readManifest_eq_some place body a).2 ha).symm.trans ((readManifest_eq_some place body b).2 hb))

theorem readManifests_append {recipes : List Recipe} {pre rest : List (Nat × StagedBlock)} {earlier : List ManifestLine}
    {parts : List (List ManifestLine)} (h : List.Forall₂ (fun x part => ManifestBody x.1 x.2.body part) pre parts)
    (hg : LinesGood recipes (earlier ++ parts.flatten)) :
    readManifests recipes earlier ((pre ++ rest).map atPlace)
      = readManifests recipes (earlier ++ parts.flatten) (rest.map atPlace) := by
  induction h generalizing earlier with
  | nil => simp
  | @cons x part pre parts hx _ ih =>
    have hr := (readManifest_eq_some _ _ _).2 hx
    have hg' : LinesGood recipes ((earlier ++ part) ++ parts.flatten) := by simpa using hg
    rw [List.cons_append, List.map_cons, readManifests]
    simp only [atPlace, hr, joinLines_good (linesGood_left hg')]
    have := ih hg'
    simpa [atPlace] using this

theorem readManifests_bad {recipes : List Recipe} {x : Nat × StagedBlock} {rest : List (Nat × StagedBlock)}
    {earlier : List ManifestLine} (he : LinesGood recipes earlier)
    (h : ∀ lines, ManifestBody x.1 x.2.body lines → ¬LinesGood recipes (earlier ++ lines)) :
    readManifests recipes earlier ((x :: rest).map atPlace) = .failed .badManifest (some x.1) := by
  rw [List.map_cons, readManifests]
  cases hr : readManifest (atPlace x).place (atPlace x).block.body with
  | none => rfl
  | some lines =>
    have := joinLines_bad he (h lines ((readManifest_eq_some _ _ _).1 hr))
    simp only [this]; rfl

theorem linesBefore_eq {staged : List StagedBlock} {pre post : List (Nat × StagedBlock)} {x : Nat × StagedBlock}
    (hs : blocksOf 5 staged = pre ++ x :: post) (hpre : ∀ y, y ∈ pre ↔ y ∈ blocksOf 5 staged ∧ y.1 < x.1) :
    ((blocksOf 5 staged).filter fun y => y.1 < x.1) = pre := by
  have hp := blocksOf_sorted 5 staged
  rw [hs, List.pairwise_append, List.pairwise_cons] at hp
  rw [hs, List.filter_append, List.filter_cons, if_neg (by simp), List.filter_eq_self.2, List.filter_eq_nil_iff.2,
    List.append_nil]
  · intro y hy; have := hp.2.1.1 y hy; simp; omega
  · intro y hy; simpa using ((hpre y).1 hy).2

/-- The manifest blocks before one that is bad read, and their lines pass the check. -/
theorem lines_of_good {staged : List StagedBlock} {recipes : List Recipe} {pre : List (Nat × StagedBlock)}
    (hpre : ∃ post, blocksOf 5 staged = pre ++ post) (h : ∀ y ∈ pre, ¬BadManifest staged recipes y.1) :
    ∃ parts, List.Forall₂ (fun x part => ManifestBody x.1 x.2.body part) pre parts ∧ LinesGood recipes parts.flatten := by
  induction pre using List.reverseRecOn with
  | nil => exact ⟨[], .nil, by simp [LinesGood]⟩
  | append_singleton pre y ih =>
    obtain ⟨post, hs⟩ := hpre
    have hs' : blocksOf 5 staged = pre ++ y :: post := by simpa using hs
    obtain ⟨parts, hf, hg⟩ := ih ⟨y :: post, hs'⟩ (fun z hz => h z (by simp [hz]))
    have hy : y ∈ blocksOf 5 staged := by rw [hs']; simp
    have hlt : ((blocksOf 5 staged).filter fun z => z.1 < y.1) = pre := by
      have hp := blocksOf_sorted 5 staged
      rw [hs', List.pairwise_append, List.pairwise_cons] at hp
      refine linesBefore_eq hs' fun z => ⟨fun hz => ⟨by rw [hs']; simp [hz], hp.2.2 z hz y (by simp)⟩, ?_⟩
      rintro ⟨hz, hlt⟩
      rw [hs', List.mem_append, List.mem_cons] at hz
      rcases hz with hz | rfl | hz
      · exact hz
      · omega
      · have := hp.2.1.1 z hz; omega
    have hbad := h y (by simp)
    have : ∃ lines, ManifestBody y.1 y.2.body lines ∧ LinesGood recipes (parts.flatten ++ lines) := by
      by_contra hc
      refine hbad ⟨y.2, hy, ?_⟩
      rintro before lines ⟨parts', hf', rfl⟩ hl hgood
      rw [hlt] at hf'
      have hu : ∀ {l : List (Nat × StagedBlock)} {a b : List (List ManifestLine)},
          List.Forall₂ (fun x part => ManifestBody x.1 x.2.body part) l a →
          List.Forall₂ (fun x part => ManifestBody x.1 x.2.body part) l b → a = b := by
        intro l a b ha hb
        induction ha generalizing b with
        | nil => cases hb; rfl
        | cons h _ ih => cases hb with | cons h' hb => rw [manifestBody_unique h h', ih hb]
      rw [hu hf' hf] at hgood
      exact hc ⟨lines, hl, hgood⟩
    obtain ⟨lines, hl, hgood⟩ := this
    exact ⟨parts ++ [lines], List.rel_append hf (.cons hl .nil), by simpa using hgood⟩

theorem readManifests_of_bad {staged : List StagedBlock} {recipes : List Recipe} {k : Nat}
    (h : FirstWith (BadManifest staged recipes) k) :
    readManifests recipes [] (ofKind 5 (placed 0 staged)) = .failed .badManifest (some k) := by
  obtain ⟨⟨b, hb, hbad⟩, hbefore⟩ := h
  obtain ⟨pre, post, hs, hpre⟩ := blocksOf_split hb
  obtain ⟨parts, hf, hg⟩ := lines_of_good (staged := staged) (recipes := recipes) ⟨_, hs⟩
    (fun y hy => hbefore y.1 ((hpre y).1 hy).2)
  rw [ofKind_eq_blocksOf, hs, readManifests_append hf (by simpa using hg), List.nil_append, readManifests_bad hg]
  intro lines hl
  refine hbad parts.flatten lines ⟨parts, ?_, rfl⟩ hl
  rw [linesBefore_eq hs hpre]
  exact hf

theorem readManifests_of_good {staged : List StagedBlock} {recipes : List Recipe} {lines : List ManifestLine}
    (h : LinesBefore staged staged.length lines) (hg : LinesGood recipes lines) :
    readManifests recipes [] (ofKind 5 (placed 0 staged)) = .passed lines := by
  obtain ⟨parts, hf, rfl⟩ := h
  rw [List.filter_eq_self.2] at hf
  · have := readManifests_append (rest := []) (earlier := []) hf (by simpa using hg)
    rw [ofKind_eq_blocksOf]
    simpa [readManifests] using this
  · intro y hy
    obtain ⟨hi, -⟩ := List.getElem?_eq_some_iff.1 (mem_blocksOf.1 hy).1
    simpa using hi

/-! ### Validation -/

theorem portTable_of_bad {recipes : List Recipe} {body : List Byte} (h : BadPorts recipes body) :
    readPortTable body = none ∨ ∃ t, readPortTable body = some t ∧ portsNameRecipes t recipes = false := by
  cases hr : readPortTable body with
  | none => exact Or.inl rfl
  | some t =>
    refine Or.inr ⟨t, rfl, ?_⟩
    obtain ⟨p, n, h1, h2⟩ := h t ((readPortTable_eq_some _ _).1 hr)
    by_contra hc
    rw [Bool.not_eq_false, portsNameRecipes_iff] at hc
    exact h2 (hc p n h1)

theorem portTable_of_good {recipes : List Recipe} {body : List Byte} (h : ¬BadPorts recipes body) :
    ∃ t, PortsBody body t ∧ readPortTable body = some t ∧ portsNameRecipes t recipes = true := by
  simp only [BadPorts, not_forall, not_exists, not_and, not_not] at h
  obtain ⟨t, hb, h⟩ := h
  exact ⟨t, hb, (readPortTable_eq_some _ _).2 hb, (portsNameRecipes_iff _ _).2 h⟩

/-- Validation from the region table on, when the tables are there and nothing repeats. -/
theorem validate_of_single {staged : List StagedBlock} {params ports table : Nat × StagedBlock} (hm : ¬MissingBlock staged)
    (hr : ∀ k, ¬Repeats staged k) (h1 : params ∈ blocksOf 1 staged) (h2 : ports ∈ blocksOf 2 staged)
    (h3 : table ∈ blocksOf 3 staged) :
    validate staged = match readRegionTable table.2.body with
      | none => .failed .badRegion (some table.1)
      | some regions => validateFrom (placed 0 staged) (atPlace params) (atPlace ports) regions := by
  obtain ⟨r, hr4⟩ := exists_of_not_missing hm (kind := 4) (by simp)
  obtain ⟨pre, post, hs, -⟩ := blocksOf_split hr4
  obtain ⟨r0, rest, h4⟩ : ∃ r0 rest, blocksOf 4 staged = r0 :: rest := by
    rw [hs]; cases pre <;> simp
  unfold validate
  simp only [ofKind_eq_blocksOf, blocksOf_eq_of_not_repeats (by simp) hr h1, blocksOf_eq_of_not_repeats (by simp) hr h2,
    blocksOf_eq_of_not_repeats (by simp) hr h3, h4, List.map_cons, List.map_nil, firstDuplicate_of_single hr]
  rfl

/-- Validation fails as R82 says. -/
theorem validate_of_invalid {staged : List StagedBlock} {code : Status} {place : Option Nat}
    (h : Invalid staged code place) : validate staged = .failed code place := by
  have nil_of : ∀ kind, (∀ b ∈ staged, b.kind ≠ kind) → blocksOf kind staged = [] := by
    intro kind hk
    rw [List.eq_nil_iff_forall_not_mem]
    intro x hx
    rw [mem_blocksOf] at hx
    exact hk x.2 (List.mem_of_getElem? hx.1) hx.2
  cases h with
  | missing h =>
    obtain ⟨kind, hk, hb⟩ := h
    have hn := nil_of kind hb
    unfold validate
    simp only [ofKind_eq_blocksOf]
    simp only [List.mem_cons, List.not_mem_nil, or_false] at hk
    rcases hk with rfl | rfl | rfl | rfl
    · rw [show blocksOf 1 staged = [] from hn]; rfl
    · rw [show blocksOf 2 staged = [] from hn]; cases (blocksOf 1 staged) <;> rfl
    · rw [show blocksOf 3 staged = [] from hn]; cases (blocksOf 1 staged) <;> cases (blocksOf 2 staged) <;> rfl
    · rw [show blocksOf 4 staged = [] from hn]
      cases (blocksOf 1 staged) <;> cases (blocksOf 2 staged) <;> cases (blocksOf 3 staged) <;> rfl
  | @duplicate k hm hd =>
    obtain ⟨a, ha⟩ := exists_of_not_missing hm (kind := 1) (by simp)
    obtain ⟨b, hb⟩ := exists_of_not_missing hm (kind := 2) (by simp)
    obtain ⟨c, hc⟩ := exists_of_not_missing hm (kind := 3) (by simp)
    obtain ⟨d, hd4⟩ := exists_of_not_missing hm (kind := 4) (by simp)
    obtain ⟨a0, ar, h1⟩ := List.exists_cons_of_ne_nil (List.ne_nil_of_mem ha)
    obtain ⟨b0, br, h2⟩ := List.exists_cons_of_ne_nil (List.ne_nil_of_mem hb)
    obtain ⟨c0, cr, h3⟩ := List.exists_cons_of_ne_nil (List.ne_nil_of_mem hc)
    obtain ⟨d0, dr, h4⟩ := List.exists_cons_of_ne_nil (List.ne_nil_of_mem hd4)
    unfold validate
    simp only [ofKind_eq_blocksOf, h1, h2, h3, h4, List.map_cons, firstDuplicate_of_repeats hd]
  | @region k b hm hr hb hbad =>
    obtain ⟨a, ha⟩ := exists_of_not_missing hm (kind := 1) (by simp)
    obtain ⟨c, hc⟩ := exists_of_not_missing hm (kind := 2) (by simp)
    have hn : readRegionTable b.body = none := by
      rw [Option.eq_none_iff_forall_ne_some]
      intro regions h
      exact hbad regions ((readRegionTable_eq_some _ _).1 h)
    rw [validate_of_single hm hr ha hc hb]
    simp only [hn]
  | @recipe k x regions hm hr hx hg hbad =>
    obtain ⟨a, ha⟩ := exists_of_not_missing hm (kind := 1) (by simp)
    obtain ⟨c, hc⟩ := exists_of_not_missing hm (kind := 2) (by simp)
    rw [validate_of_single hm hr ha hc hx]
    simp only [(readRegionTable_eq_some _ _).2 hg, validateFrom, readRecipes_of_bad hbad]
  | @port k b x regions recipes hm hr hx hg hgood hs hb hbad =>
    obtain ⟨a, ha⟩ := exists_of_not_missing hm (kind := 1) (by simp)
    rw [validate_of_single hm hr ha hb hx]
    simp only [(readRegionTable_eq_some _ _).2 hg, validateFrom, readRecipes_of_good hgood hs, atPlace]
    rcases portTable_of_bad hbad with h | ⟨t, h, hf⟩
    · simp only [h]
    · simp [h, hf]
  | @range k b x y regions recipes hm hr hx hg hgood hs hy hports hb hbad =>
    obtain ⟨t, -, ht, hn⟩ := portTable_of_good hports
    have hp : (readWhole readParams b.body).bind paramsInRange = none := by
      rw [Option.eq_none_iff_forall_ne_some]
      intro p h
      exact hbad p ((readLineParams_eq_some _ _).1 h)
    rw [validate_of_single hm hr hb hy hx]
    simp only [(readRegionTable_eq_some _ _).2 hg, validateFrom, readRecipes_of_good hgood hs, atPlace, ht, hn, hp]
    rfl
  | @manifest k x y z regions recipes params hm hr hx hg hgood hs hy hports hz hparams hbad =>
    obtain ⟨t, -, ht, hn⟩ := portTable_of_good hports
    rw [validate_of_single hm hr hz hy hx]
    simp only [(readRegionTable_eq_some _ _).2 hg, validateFrom, readRecipes_of_good hgood hs, atPlace, ht, hn,
      (readLineParams_eq_some _ _).2 hparams, readManifests_of_bad hbad]
    rfl

/-- Blocks that pass every check are validated as the profile and the lines they carry. -/
theorem validate_of_validates {staged : List StagedBlock} {profile : Profile} {lines : List ManifestLine}
    (h : Validates staged profile lines) : validate staged = .passed { profile := profile, lines := lines } := by
  obtain ⟨x, hx, hg⟩ := h.regions
  obtain ⟨y, hy, hp⟩ := h.ports
  obtain ⟨z, hz, hl⟩ := h.params
  rw [validate_of_single h.present h.single hz hy hx]
  simp only [(readRegionTable_eq_some _ _).2 hg, validateFrom, readRecipes_of_staged h.recipes h.models, atPlace,
    (readPortTable_eq_some _ _).2 hp, (portsNameRecipes_iff _ _).2 h.allowed, (readLineParams_eq_some _ _).2 hl,
    readManifests_of_good h.manifest h.good]
  rfl

/-! ### Every commit is judged -/

theorem firstWith_of_exists {p : Nat → Prop} (h : ∃ k, p k) : ∃ k, FirstWith p k := by
  classical
  exact ⟨Nat.find h, Nat.find_spec h, fun j hj => Nat.find_min h hj⟩

/-- Staged blocks fail one check or pass them all. -/
theorem invalid_or_validates (staged : List StagedBlock) :
    (∃ code place, Invalid staged code place) ∨ ∃ profile lines, Validates staged profile lines := by
  by_cases hm : MissingBlock staged
  · exact Or.inl ⟨_, _, .missing hm⟩
  by_cases hr : ∃ k, Repeats staged k
  · obtain ⟨k, hk⟩ := firstWith_of_exists hr
    exact Or.inl ⟨_, _, .duplicate hm hk⟩
  have hr : ∀ k, ¬Repeats staged k := not_exists.1 hr
  obtain ⟨x, hx⟩ := exists_of_not_missing hm (kind := 3) (by simp)
  obtain ⟨y, hy⟩ := exists_of_not_missing hm (kind := 2) (by simp)
  obtain ⟨z, hz⟩ := exists_of_not_missing hm (kind := 1) (by simp)
  by_cases hg : ∃ regions, RegionsBody x.2.body regions
  swap
  · exact Or.inl ⟨_, _, .region hm hr hx (not_exists.1 hg)⟩
  obtain ⟨regions, hg⟩ := hg
  by_cases hb : ∃ k, BadRecipe staged k
  · obtain ⟨k, hk⟩ := firstWith_of_exists hb
    exact Or.inl ⟨_, _, .recipe hm hr hx hg hk⟩
  have hb : ∀ k, ¬BadRecipe staged k := not_exists.1 hb
  obtain ⟨recipes, hs, hd⟩ := recipes_of_good (staged := staged) (blocksOf_sorted 4 staged) (fun y hy => hy) (fun y _ => hb y.1)
  by_cases hp : BadPorts recipes y.2.body
  · exact Or.inl ⟨_, _, .port hm hr hx hg hb hs hy hp⟩
  by_cases hl : ∃ params, ParamsBody z.2.body params
  swap
  · exact Or.inl ⟨_, _, .range hm hr hx hg hb hs hy hp hz (not_exists.1 hl)⟩
  obtain ⟨params, hl⟩ := hl
  by_cases hf : ∃ k, BadManifest staged recipes k
  · obtain ⟨k, hk⟩ := firstWith_of_exists hf
    exact Or.inl ⟨_, _, .manifest hm hr hx hg hb hs hy hp hz hl hk⟩
  obtain ⟨parts, hparts, hgood⟩ := lines_of_good (staged := staged) (recipes := recipes)
    (pre := blocksOf 5 staged) ⟨[], by simp⟩ (fun y _ => not_exists.1 hf y.1)
  obtain ⟨t, ht, -, hn⟩ := portTable_of_good hp
  refine Or.inr ⟨{ params := params, ports := t, regions := regions, recipes := recipes }, parts.flatten, ?_⟩
  exact
    { present := hm
      single := hr
      regions := ⟨x, hx, hg⟩
      recipes := hs
      models := hd
      ports := ⟨y, hy, ht⟩
      allowed := (portsNameRecipes_iff _ _).1 hn
      params := ⟨z, hz, hl⟩
      manifest := ⟨parts, by
        rw [List.filter_eq_self.2]
        · exact hparts
        · intro w hw
          obtain ⟨hi, -⟩ := List.getElem?_eq_some_iff.1 (mem_blocksOf.1 hw).1
          simpa using hi, rfl⟩
      good := hgood }

/-- Validation fails exactly as R82 says. -/
theorem validate_failed_iff (staged : List StagedBlock) (code : Status) (place : Option Nat) :
    validate staged = .failed code place ↔ Invalid staged code place := by
  refine ⟨fun h => ?_, validate_of_invalid⟩
  rcases invalid_or_validates staged with ⟨c, p, hi⟩ | ⟨profile, lines, hv⟩
  · have := validate_of_invalid hi
    rw [h] at this
    cases this
    exact hi
  · have := validate_of_validates hv
    rw [h] at this
    cases this

/-- Validation passes exactly when every check does. -/
theorem validate_passed_iff (staged : List StagedBlock) (profile : Profile) (lines : List ManifestLine) :
    validate staged = .passed { profile := profile, lines := lines } ↔ Validates staged profile lines := by
  refine ⟨fun h => ?_, validate_of_validates⟩
  rcases invalid_or_validates staged with ⟨c, p, hi⟩ | ⟨profile', lines', hv⟩
  · have := validate_of_invalid hi
    rw [h] at this
    cases this
  · have := validate_of_validates hv
    rw [h] at this
    cases this
    exact hv

end Sys2Proof.Machine
end

