-- ==== Sys2Proof/Tests/Slice0.lean ====
section
/-! SUPPORT. Tests of the model on fixed values: ill-formed commands, the checks and the row function of the manual, and for
each statement of the certificate that has hypotheses a state and operands that meet them, clause by clause. -/

namespace Sys2Proof.Test

open Sys2Proof.Machine Sys2Proof.Safety

/-! ### Well-formedness: one ill-formed command for each check -/

theorem test_wf_byte : (Instr.slotQuery 0 256).wf = false ∧ (Instr.slotQuery 0 255).wf = true := by decide
theorem test_wf_four_bytes : (Instr.counterAdvance 0 0 4294967296).wf = false
    ∧ (Instr.journalRelease 0 4294967295).wf = true := by decide
theorem test_wf_string : (Instr.regQuery 0 (List.replicate 256 0)).wf = false
    ∧ (Instr.regQuery 0 (List.replicate 255 0)).wf = true := by decide +kernel
theorem test_wf_optional_byte : (Instr.regAdd 0 [] (some 256)).wf = false ∧ (Instr.regAdd 0 [] none).wf = true := by decide
theorem test_wf_optional_four : (Instr.openAssemble 0 0 0 0 0 (some 4294967296)).wf = false
    ∧ (Instr.openAssemble 0 0 0 0 0 none).wf = true := by decide
theorem test_wf_link_body : (Instr.logon 0 1 (List.replicate 254 0)).wf = false
    ∧ (Instr.openEnrol 0 1 1 (List.replicate 252 0)).wf = false ∧ (Instr.component 0 (List.replicate 252 0) 0).wf = false
    ∧ (Instr.hello 0 (List.replicate 251 0) 0).wf = false ∧ (Instr.enrolFirst 0 1 1 (List.replicate 252 0)).wf = true := by
  decide +kernel
theorem test_wf_request_body : (Instr.importKey 0 (List.replicate 2049 0)).wf = false := by decide +kernel
theorem test_wf_codes : (Instr.regSetState 0 [] 256 0).wf = false ∧ (Instr.regRemove 0 [] 256).wf = false
    ∧ (Instr.regScan 0 0 256).wf = false ∧ (Instr.journalRead 0 256).wf = false ∧ (Instr.fetch 0 256).wf = false
    ∧ (Instr.openErase 0 256).wf = false ∧ (Instr.openRevoke 0 256).wf = false := by decide

/-! ### Values the manual states -/

/-- The bytes 31h to 39h, for which R208 gives the two checks. -/
def digits : List Byte := [0x31, 0x32, 0x33, 0x34, 0x35, 0x36, 0x37, 0x38, 0x39]

theorem test_crc16_of_digits : crc16 digits = 0x29B1#16 := by decide +kernel
theorem test_crc32_of_digits : crc32 digits = 0xCBF43926#32 := by decide +kernel

/-- The serial of the worked sequences (R110, 12.2). -/
def s20 : Serial := [0x4B, 0x54, 0x30, 0x31]

theorem test_row_of_s20 : rowOf s20 = 7 ∧ position (rowOf s20) 0 = 28 := by decide
theorem test_most_significant_first : beBytes 4 0x12345678 = [0x12, 0x34, 0x56, 0x78] ∧ beNat [0x12, 0x34] = 0x1234 := by
  decide

/-- An OPEN_LINE accepted, then its completion: the absent reason has a presence byte of its own (R62, R211). -/
def openNotice (event : NoticeEvent) (result : Option CeremonyResult) : Notice where
  state := .gathering
  event := event
  kind := some .openLine
  opener := some { cust := 0, group := .a }
  named := .nothing
  componentCount := none
  held := none
  badEntries := none
  acceptances := []
  kcv := none
  result := result

theorem test_notice_optional_fields :
    (openNotice .opened none).bytes = [1, 1, 1, 3, 1, 1, 1, 0, 0, 0, 0, 0, 0, 0, 0]
    ∧ (openNotice .completed (some .completed)).bytes = [1, 8, 1, 3, 1, 1, 1, 0, 0, 0, 0, 0, 0, 1, 1, 0]
    ∧ (openNotice .aborted (some (.aborted .cancelled))).bytes = [1, 9, 1, 3, 1, 1, 1, 0, 0, 0, 0, 0, 0, 1, 2, 1, 3] := by
  decide

/-! ### A part at work

Line LIVE. Port 0 ATTACHED, 1 IDENTIFIED, 2 PREPARING with its job pending, 3 OFFERED, 4 FINISHED, 5 DRAINING with the running
job, 6 VACANT, 7 OFF. Custodian 1 (group A) on link 1 and custodian 5 (group B) on link 2; 2 and 6 enrolled, 3 locked. -/

def key (use : KeyUse) : HeldKey := { use := use, length := 16, material := List.replicate 16 1, kcv := 0xC40F17 }

def holding (content : SlotContent) (inUse : Nat) : Slot := { content := content, generation := 1, inUse := inUse }

def recipe (number : Fin 16) (model : ModelCode) : Recipe where
  number := number
  version := 2
  model := model
  cover := 4
  steps :=
    [{ terminalSlot := 1, kind := .shared, source := 20, usage := 3 },
      { terminalSlot := 2, kind := .derived, source := 12, usage := 5 },
      { terminalSlot := 3, kind := .shared, source := 21, usage := 3 },
      { terminalSlot := 4, kind := .derived, source := 13, usage := 5 },
      { terminalSlot := 5, kind := .shared, source := 63, usage := 5 },
      { terminalSlot := 6, kind := .shared, source := 22, usage := 5 }]

def plan : Profile where
  params :=
    { policy := .openPolicy, sessionIdle := 30, retry := 3, window := 300, custodianIdle := 600, ageLimit := 3600
      highMark := 500, lowMargin := 4096 }
  ports := (Tab.fill 8 { attach := true, allowed := 0x0028 }).set 7 { attach := false, allowed := 0 }
  regions :=
    [{ number := 0, base := 0, size := 8, classes := 1, ceremonyWritable := true, importWritable := false, ports := 0xFF },
      { number := 1, base := 8, size := 8, classes := 2, ceremonyWritable := true, importWritable := true, ports := 0xFF },
      { number := 2, base := 16, size := 16, classes := 4, ceremonyWritable := true, importWritable := false, ports := 0xFF }]
  recipes := [recipe 3 0x4B543430, recipe 4 0x4B543431, recipe 5 0x4B543432]

def person (group : Group) (lock : EntryLock) : CustEntry := { group := group, digest := 0, lock := lock, fails := 4 }

def entry (serial : Serial) (origin : Origin) (state : EntryState) (port : Option Port) (version : Nat) (delivered : BitVec 12) :
    Entry where
  serial := serial
  origin := origin
  recipe := some 3
  version := some version
  state := state
  boundPort := port
  delivered := delivered
  mismatches := 2
  unboundSince := none

/-- Terminals of one byte: 1 to 3 bound, 6 expected, 10 complete, 11 rejected, 12 and 13 partial, 16 partial with all done. Row 8
is full of pinned entries, and of row 9 two may be evicted. -/
def entries : Registry :=
  let put (way : Fin 4) (e : Entry) (r : Registry) : Registry := r.set (position (rowOf e.serial) way) (some e)
  let aging (x : Byte) : Entry := { entry [x] .discovered .expected none 2 0 with unboundSince := some 5 }
  let bound (x : Byte) (p : Port) : Registry → Registry := put 0 (entry [x] .manifest .loading (some p) 2 0x002)
  let pinned (x : Byte) (way : Fin 4) : Registry → Registry := put way (entry [x] .manifest .expected none 2 0)
  let rows := (bound 1 1 ∘ bound 2 2 ∘ bound 3 3 ∘ pinned 6 0 ∘ pinned 8 0 ∘ pinned 72 1 ∘ pinned 136 2 ∘ pinned 200 3
    ∘ pinned 9 0 ∘ pinned 201 3) (Tab.fill 256 none)
  (put 1 (aging 73) ∘ put 2 (aging 137) ∘ put 0 (entry [10] .manifest .complete none 2 0xFFF)
    ∘ put 0 (entry [11] .manifest .rejected none 2 0) ∘ put 0 (entry [12] .manifest .partialLoad none 2 0x001)
    ∘ put 0 (entry [13] .manifest .partialLoad none 1 0x001) ∘ put 0 (entry [16] .manifest .partialLoad none 2 0x03F)
    ∘ put 0 { entry [17] .manifest .expected none 2 0 with recipe := some 9 }
    ∘ put 0 { entry [18] .manifest .expected none 2 0 with recipe := some 4 }) rows

def session (serial : Serial) : Session := { serial := serial, recipe := 3, version := 2, stepCount := 6, cover := 4 }

def facts (p : Port) (serial : Serial) (index : Nat) (source : SlotIx) : StepFacts where
  port := p
  serial := serial
  recipe := 3
  version := 2
  index := index
  terminalSlot := index + 1
  source := source
  sourceGen := 1
  cover := 4
  coverGen := 1
  counter := none

def stepOf (p : Port) (serial : Serial) (expected : Option Kcv) : PendingStep :=
  { facts := facts p serial 0 20, usage := 3, keySet := none, expected := expected }

def seat (ctx : PortContext) : Bench := { Bench.initial with present := true, ctx := ctx }

def idleFor (limit : Nat) : Timer := { count := 0, limit := limit }

def console (c : Cust) : Console := { Console.initial with present := true, logon := some { who := c, idle := idleFor 600 } }

/-- A job of a bench port, of the kind a SHARED step asks for. -/
def job (p : Port) (orphaned : Bool) : Job :=
  { requester := benchRequester p, inputs := .prepareShared (List.replicate 16 1) (List.replicate 16 1) 1 3
    orphaned := orphaned, zeroised := false }

/-- The same thing everywhere but in the places listed. -/
def table {α : Type} (n : Nat) (common : α) (listed : List (Fin n × α)) : Tab α n :=
  listed.foldl (fun t x => t.set x.1 x.2) (Tab.fill n common)

def busyStore : Store where
  slots := table 64 Slot.initial
    [(4, holding (.active (key .transport)) 3), (12, holding (.active (key (.baseDerivation 4096 0))) 0),
      (13, holding (.exhausted (key (.baseDerivation 4096 1048576))) 0), (20, holding (.active (key .working)) 3),
      (21, holding (.active (key .working)) 0)]
  custodians := table 8 none
    [(0, some (person .a .enrolled)), (1, some (person .a .enrolled)), (2, some (person .a .locked)),
      (4, some (person .b .enrolled)), (5, some (person .b .enrolled))]
  profile := some plan
  registry := entries
  journal := { Journal.initial with reservations := [.bench 2, .bench 3, .bench 5] }
  steps := table 8 none
    [(2, some (stepOf 2 [2] none)), (3, some (stepOf 3 [3] (some 0xC40F17))), (5, some (stepOf 5 [6] none))]
  tamperLatch := false

def busy : State :=
  { State.reset with
    store := busyStore
    line := .live
    engine := { running := some (job 5 true), waiting := table 10 none [(2, some (job 2 false))], lastGranted := 5 }
    consoles := table 2 Console.initial [(0, console 0), (1, console 4)]
    benches := table 8 { Bench.initial with ctx := .vacant }
      [(0, seat .attached), (1, seat (.identified (session [1]) (idleFor 30))), (2, seat (.preparing (session [2]))),
        (3, seat (.offered (session [3]) (idleFor 30))), (4, seat .finished), (5, seat (.draining .detached true)),
        (7, Bench.initial)] }

def withLine (line : LineState) (s : State) : State := { s with line := line }

/-- The journal full: 511 records and reservations together. -/
def full (s : State) : State :=
  s.setJournal { s.journal with
    records := List.replicate (511 - s.journal.reservations.length) { sequence := 7, body := .lineOpened { a := 0, b := 4 } } }

/-- So many requests outstanding, with tags 0, 1, 2, ... and no response. -/
def owing (n : Nat) (s : State) : State :=
  { s with outstanding := (List.range n).map fun k => { tag := BitVec.ofNat 8 k, kind := 0x20, queued := false } }

/-! ### Hypotheses about every entry, slot or record, from checks of finitely many -/

/-- An entry is in order in its place. -/
def placeChecked (r : Registry) (k : Nat) (e : Entry) : Bool :=
  ((rowPositions (rowOf e.serial)).map Fin.val).contains k && (e.state == .loading) == e.boundPort.isSome
    && (rowPositions (rowOf e.serial)).all fun j => match r.get j with
      | none => true
      | some f => f.serial != e.serial || j.val == k

/-- The places of a registry from place `k` on are in order. -/
def registryChecked (r : Registry) : Nat → List (Option Entry) → Bool
  | _, [] => true
  | k, none :: rest => registryChecked r (k + 1) rest
  | k, some e :: rest => placeChecked r k e && registryChecked r (k + 1) rest

theorem placeChecked_of_registryChecked {r : Registry} {l : List (Option Entry)} {k j : Nat} {e : Entry}
    (h : registryChecked r k l = true) (hj : l[j]? = some (some e)) : placeChecked r (k + j) e = true := by
  induction l generalizing k j with
  | nil => simp at hj
  | cons a l ih =>
    cases j with
    | zero => simp at hj; subst hj; simp only [registryChecked, Bool.and_eq_true] at h; exact h.1
    | succ j =>
      have hl : registryChecked r (k + 1) l = true := by
        cases a <;> simp only [registryChecked, Bool.and_eq_true] at h <;> first | exact h | exact h.2
      have := ih hl (by simpa using hj)
      rwa [Nat.add_assoc, Nat.add_comm 1 j] at this

/-- The check gives order. -/
theorem registryPlaced_of_checked {s : State} (h : registryChecked s.registry 0 s.registry.data = true) :
    RegistryPlaced s := by
  have key : ∀ i e, s.registry.get i = some e →
      (i ∈ rowPositions (rowOf e.serial) ∧ ((e.state == .loading) = e.boundPort.isSome))
        ∧ ∀ j ∈ rowPositions (rowOf e.serial), ∀ f, s.registry.get j = some f → f.serial = e.serial → j = i := by
    intro i e he
    have hj : s.registry.data[i.val]? = some (some e) := by
      rw [List.getElem?_eq_getElem (by rw [s.registry.size]; exact i.isLt)]; exact congrArg some he
    have hi := placeChecked_of_registryChecked h hj
    simp only [placeChecked, Nat.zero_add, Bool.and_eq_true, List.contains_iff_mem, List.all_eq_true, List.mem_map] at hi
    obtain ⟨⟨⟨j, hjm, hji⟩, h2⟩, h3⟩ := hi
    refine ⟨⟨Fin.ext hji ▸ hjm, by simpa using h2⟩, fun j hj f hf hs => Fin.ext ?_⟩
    have := h3 j hj
    simpa [hf, hs] using this
  intro i e he
  obtain ⟨⟨h1, h2⟩, h3⟩ := key i e he
  refine ⟨h1, fun j f hf hs => ?_, ?_⟩
  · exact h3 j (by rw [← hs]; exact (key j f hf).1.1) f hf hs
  · rw [← h2]; simp

/-- The serials in a row, by which one is absent. -/
def rowSerials (r : Registry) (x : Serial) : List (Option Serial) :=
  (rowPositions (rowOf x)).map fun i => (r.get i).map Entry.serial

theorem absent_of_row {s : State} {x : Serial} (hp : RegistryPlaced s) (h : some x ∉ rowSerials s.registry x) :
    ∀ i e, s.registry.get i = some e → e.serial ≠ x := by
  intro i e he hx
  subst hx
  exact h (List.mem_map.mpr ⟨i, (hp i e he).1, by rw [he]; rfl⟩)

theorem busy_placed : RegistryPlaced busy := registryPlaced_of_checked (by decide +kernel)
/-- A check passed, and what it gave passes another. -/
def passes {α : Type} (f : α → Bool) : Checked α → Bool
  | .passed a => f a
  | .failed _ _ => false

theorem passed_of_passes {α : Type} {f : α → Bool} {c : Checked α} (h : passes f c = true) :
    ∃ a, c = .passed a ∧ f a = true := by
  cases c with
  | passed a => exact ⟨a, rfl, h⟩
  | failed st p => exact absurd h (by simp [passes])

theorem failed_of_not_passes {α : Type} {c : Checked α} (h : passes (fun _ => true) c = false) :
    ∃ st p, c = .failed st p := by
  cases c with
  | passed a => exact absurd h (by simp [passes])
  | failed st p => exact ⟨st, p, rfl⟩

/-! ### The hypotheses of the statements are met: the step and the control port -/

def unpowered (s : State) : State := { s with power := false }

theorem test_met_EveryCommandIsAnswered : (unpowered busy).running = false ∧ changesLevel (.bye 7) = false := by
  decide +kernel

theorem test_met_RequestsDiscardedAtTheLimits :
    request? (.slotQuery 8 63) = some ⟨8, 0x21, 1⟩ ∧ (Instr.slotQuery 8 63).wf = true ∧ (owing 8 busy).running = true
      ∧ 8 ≤ (owing 8 busy).outstanding.length
      ∧ request? (.slotQuery 6 63) = some ⟨6, 0x21, 1⟩ ∧ (owing 7 busy).outstanding.length < 8
      ∧ ∃ o ∈ (owing 7 busy).outstanding, o.tag = 6 := by decide +kernel

theorem test_met_TransactionsAreJudged : busy.running = true ∧ (0 : Byte) ≠ 1 ∧ (3 : Byte) ≠ 2
    ∧ (∀ tag kind body, body.length ≤ 2048 → [] ≠ requestFrame tag kind body)
    ∧ Accepts 0xFF busy ∧ (List.replicate 2048 (0 : Byte)).length ≤ 2048
    ∧ (∀ c r body, request? c = some r → r.kind = 0x05 → c.wf = true → requestBody? c ≠ some body)
    ∧ (∀ c r, request? c = some r → r.kind = 0x21 → c.wf = true → requestBody? c ≠ some [])
    ∧ (∀ c r, request? c = some r → r.kind = 0x60 → c.wf = true → requestBody? c ≠ some [0, 0, 2]) := by
  refine ⟨by decide +kernel, by decide, by decide, fun tag kind body _ h => ?_, by decide +kernel,
    (List.length_replicate ..).le, ?_, ?_, ?_⟩
  · simp [requestFrame] at h
  · intro c r body h hk
    cases c <;> simp [request?] at h <;> subst h <;> simp at hk
  · intro c r h hk _ hb
    cases c <;> simp [request?] at h <;> subst h <;> simp [requestBody?, b1, beBytes] at hk hb
  · intro c r h hk _ hb
    cases c <;> simp [request?] at h <;> subst h <;> simp [requestBody?, beBytes, bFlag] at hk hb
    obtain ⟨-, -, hb⟩ := hb
    split at hb <;> simp at hb

theorem test_met_RequestFramesRunAsTheirRows : request? (.regScan 0xFF 255 8) = some ⟨0xFF, 0x34, 2⟩
    ∧ requestBody? (.regScan 0xFF 255 8) = some [255, 8] ∧ (Instr.regScan 0xFF 255 8).wf = true := by decide +kernel

/-- A response of nine bytes. -/
def answeredOnce : State :=
  { busy with responses := [{ tag := 1, kind := 0x10, status := .ok, changed := false, body := .nothing }] }

theorem test_met_ResponseFetchTakesTheOldest : busy.running = true ∧ busy.responses = [] ∧ answeredOnce.running = true
    ∧ ∃ r, answeredOnce.responses = [r] ∧ 8 < r.frame.length ∧ r.frame.length ≤ 9 :=
  ⟨by decide +kernel, rfl, by decide +kernel, _, rfl, by decide +kernel, by decide +kernel⟩

theorem test_met_StatusAndMask : Accepts 7 (owing 7 busy) := by decide +kernel

/-! ### The profile -/

/-- A block as PROFILE_BLOCK stages it, with its check. -/
def block (kind : Byte) (body : List Byte) : StagedBlock := { kind := kind, body := body, check := crc32 (kind :: body) }

def streaming (spoilt : Bool) (staged : List StagedBlock) : State :=
  { busy with line := .setup, stream := some { spoilt := spoilt, staged := staged } }

def checkOf (staged : List StagedBlock) : Check32 := crc32 (staged.flatMap fun b => beBytes 4 b.check.toNat)

/-- Four tables and a manifest of one line. -/
def wholeProfile (serial : Serial) : List StagedBlock :=
  [block 1 [2, 0, 30, 3, 1, 44, 2, 88, 14, 16, 0, 16, 16, 0], block 2 ((List.replicate 8 [1, 0, 8]).flatten),
    block 3 [1, 0, 0, 64, 7, 1, 1, 255], block 4 [3, 0, 2, 0x4B, 0x54, 0x34, 0x30, 4, 1, 1, 1, 20, 3],
    block 5 ([1] ++ bString serial ++ [1, 3])]

theorem test_met_ProfileBeginAndAbandon : Accepts 0 (streaming false []) ∧ (streaming false []).line = .setup
    ∧ Accepts 0 busy ∧ busy.line ≠ .setup := by decide +kernel

theorem test_met_ProfileBlockStagesOrSpoils :
    (Accepts 0 busy ∧ busy.stream = none)
    ∧ (Accepts 0 (streaming true []) ∧ (streaming true []).stream = some { spoilt := true, staged := [] })
    ∧ (Accepts 0 (streaming false []) ∧ (streaming false []).stream = some { spoilt := false, staged := [] }
      ∧ (∀ k c3 c2 c1 c0 rest, ([5, 0, 0, 0] : List Byte) = k :: c3 :: c2 :: c1 :: c0 :: rest → k = 0 ∨ 5 < k.toNat)
      ∧ (∀ k c3 c2 c1 c0 rest, ([6, 0, 0, 0, 0] : List Byte) = k :: c3 :: c2 :: c1 :: c0 :: rest → k = 0 ∨ 5 < k.toNat)
      ∧ beNat [0, 0, 0, 0] ≠ (crc32 [5]).toNat
      ∧ beNat [0xA5, 0x05, 0xDF, 0x1B] = (crc32 [1]).toNat)
    ∧ (Accepts 0 (streaming false (List.replicate 40 (block 5 [])))
      ∧ 40 ≤ (List.replicate 40 (block 5 [])).length ∧ (List.replicate 39 (block 5 [])).length < 40) := by
  refine ⟨by decide +kernel, by decide +kernel, ⟨by decide +kernel, rfl, ?_, ?_, by decide +kernel, by decide +kernel⟩,
    by decide +kernel, by decide, by decide⟩
  · intro k c3 c2 c1 c0 rest h; simp at h
  · intro k c3 c2 c1 c0 rest h; simp at h; right; rw [← h.1]; decide

theorem test_met_ProfileCommitRefused : (Accepts 0 busy ∧ busy.stream = none) ∧ Accepts 0 (streaming true [])
    ∧ (1 : Check32) ≠ checkOf [] ∧ Accepts 0 (streaming false (wholeProfile [7])) := by decide +kernel

/-- A staged profile for each check of R82 that fails it, and one that two checks fail, for which the earlier answers. -/
theorem test_met_ProfileCommitRefused_checks :
    Invalid ((wholeProfile [7]).drop 1) .missingBlock none
    ∧ Invalid (wholeProfile [7] ++ [block 2 []]) .duplicateBlock (some 5)
    ∧ Invalid (wholeProfile [7] ++ [block 4 [3]]) .duplicateBlock (some 5)
    ∧ Invalid ((wholeProfile [7]).set 2 (block 3 [1, 0, 0, 5, 7, 1, 1, 255])) .badRegion (some 2)
    ∧ Invalid ((wholeProfile [7]).set 3 (block 4 [16, 0, 2, 0, 0, 0, 0, 4, 1, 1, 1, 20, 3])) .badRecipe (some 3)
    ∧ Invalid (wholeProfile [7] ++ [block 4 [4, 0, 1, 0x4B, 0x54, 0x34, 0x30, 4, 1, 1, 1, 20, 3]]) .badRecipe (some 5)
    ∧ Invalid ((wholeProfile [7]).set 1 (block 2 (List.replicate 8 [1, 0, 16]).flatten)) .badPort (some 1)
    ∧ Invalid ((wholeProfile [7]).set 0 (block 1 [2, 0, 4, 3, 1, 44, 2, 88, 14, 16, 0, 16, 16, 0])) .range (some 0)
    ∧ Invalid ((wholeProfile [7]).set 4 (block 5 [0])) .badManifest (some 4)
    ∧ Invalid (wholeProfile [7] ++ [block 5 [1, 1, 7, 0]]) .badManifest (some 5)
    ∧ Invalid (((wholeProfile [7]).set 2 (block 3 [])).set 4 (block 5 [])) .badRegion (some 2) := by
  simp only [← validate_failed_iff]
  decide +kernel

/-- A manifest whose serial finds its row full. -/
theorem test_met_ProfileCommitRefused_full : ∃ profile lines k, Validates (wholeProfile [8, 0]) profile lines
    ∧ RegistryPlaced (streaming false (wholeProfile [8, 0])) ∧ NoRoom lines busy.registry k := by
  obtain ⟨good, h, hf⟩ := passed_of_passes (f := fun good => !passes (fun _ => true) (applyManifest good.lines busy.registry))
    (c := validate (wholeProfile [8, 0])) (by decide +kernel)
  have hv := (validate_passed_iff _ _ _).1 h
  rcases manifest_cases busy_placed hv.good.1 with ⟨pinned, filled, n, m, hp, hi⟩ | ⟨k, hk⟩
  · rw [applyManifest_of_inserts busy_placed hv.good.1 hp hi] at hf
    simp [passes] at hf
  · exact ⟨_, _, k, hv, busy_placed, hk⟩

/-- A profile is committed, its manifest of one serial inserting and evicting so many entries. -/
theorem committed_of_checked {serial : Serial} {n m : Nat}
    (h : passes (fun good => passes (fun a => a.inserted == n && a.evicted == m) (applyManifest good.lines busy.registry))
      (validate (wholeProfile serial)) = true) : ∃ profile lines pinned filled, Validates (wholeProfile serial) profile lines
        ∧ Pinned lines busy.registry pinned ∧ Inserts lines pinned filled n m := by
  obtain ⟨good, hg, hf⟩ := passed_of_passes h
  have hv := (validate_passed_iff _ _ _).1 hg
  rcases manifest_cases busy_placed hv.good.1 with ⟨pinned, filled, n', m', hp, hi⟩ | ⟨k, hk⟩
  · rw [applyManifest_of_inserts busy_placed hv.good.1 hp hi] at hf
    simp only [passes, Bool.and_eq_true, beq_iff_eq] at hf
    obtain ⟨rfl, rfl⟩ := hf
    exact ⟨_, _, pinned, filled, hv, hp, hi⟩
  · rw [applyManifest_of_noRoom busy_placed hv.good.1 hk] at hf
    simp [passes] at hf

/-- A serial that is inserted, one that evicts, and one that is there already. -/
theorem test_met_ProfileCommitPutsInForce : Accepts 0 (streaming false (wholeProfile [7]))
    ∧ RegistryPlaced (streaming false (wholeProfile [7]))
    ∧ (∃ profile lines pinned filled, Validates (wholeProfile [7]) profile lines ∧ Pinned lines busy.registry pinned
      ∧ Inserts lines pinned filled 1 0)
    ∧ (∃ profile lines pinned filled, Validates (wholeProfile [9, 0]) profile lines ∧ Pinned lines busy.registry pinned
      ∧ Inserts lines pinned filled 1 1)
    ∧ ∃ profile lines pinned filled, Validates (wholeProfile [6]) profile lines ∧ Pinned lines busy.registry pinned
      ∧ Inserts lines pinned filled 0 0 :=
  ⟨by decide +kernel, busy_placed, committed_of_checked (by decide +kernel), committed_of_checked (by decide +kernel),
    committed_of_checked (by decide +kernel)⟩

/-! ### The line -/

theorem test_met_LinePauseAndResume : Accepts 0 busy ∧ busy.line = .live ∧ busy.line ≠ .paused
    ∧ Accepts 0 (withLine .paused busy) ∧ (withLine .paused busy).line = .paused ∧ (withLine .paused busy).line ≠ .live := by
  decide +kernel

/-- What a command leaves has a property. -/
def leaves (c : Instr) (s : State) (f : State → Bool) : Bool :=
  match exec c s with
  | .next t => f t
  | _ => false

/-- The part with nothing at port 5 and the engine's job done. -/
def calm : State := { busy.setBench 5 Bench.initial with engine := { busy.engine with running := none } }

def someDraining (s : State) : Bool := allPorts.any fun p => (s.ctx p).state == .draining

theorem test_met_LineCloseEndsEverySession : Accepts 9 (withLine .setup busy) ∧ Accepts 9 (withLine (.closing 8) busy)
    ∧ Accepts 9 (withLine .zeroised busy) ∧ Accepts 9 (withLine .paused busy) ∧ Accepts 9 busy ∧ busy.line = .live
    ∧ leaves (.lineClose 9) busy someDraining = true ∧ Accepts 9 calm
    ∧ leaves (.lineClose 9) calm (fun t => !someDraining t) = true
    ∧ (sessionOf? (busy.ctx 1) = some (session [1]) ∧ stepEnds busy 3 = true ∧ endedClaims busy 20 = 2) := by decide +kernel

theorem test_met_ZeroiseReachesEveryBlock : busy.running = true ∧ busy.tamperLine = false ∧ Listens 1 busy
    ∧ LoggedOn 1 4 busy := by decide +kernel

/-- The levels of main power and of the reset pin, and whether a power-on reset is owed. -/
structure Levels where
  power : Bool
  pin : Bool
  owed : Bool
  deriving DecidableEq, Repr

def supplied (l : Levels) : State := { busy with power := l.power, resetPin := l.pin, powerResetOwed := l.owed }

theorem test_met_ResetsByTheirCause : busy.storeLost = false ∧ Accepts 0xFF busy
    ∧ ((supplied ⟨true, true, false⟩).resetPin = true ∧ (supplied ⟨true, true, false⟩).powerResetOwed = false)
    ∧ (supplied ⟨true, true, true⟩).powerResetOwed = true ∧ (supplied ⟨false, false, false⟩).power = false
    ∧ (supplied ⟨false, true, false⟩).resetPin = true
    ∧ (busy.store.tamperLatch = false ∧ busy.tamperLine = false ∧ tamperRecords busy = []) := by decide +kernel

def lost (tamper : Bool) (l : Levels) : State := { supplied l with storeLost := true, tamperLine := tamper }

theorem test_met_PowerOnAfterStoreLoss : (lost true ⟨false, false, false⟩).power = false
    ∧ (lost true ⟨false, false, false⟩).resetPin = false ∧ (lost true ⟨false, false, false⟩).storeLost = true
    ∧ (lost true ⟨false, false, false⟩).tamperLine = true ∧ (lost false ⟨false, false, false⟩).tamperLine = false
    ∧ ((lost false ⟨false, true, false⟩).power = false ∧ (lost false ⟨false, true, false⟩).resetPin = true)
    ∧ ((lost false ⟨true, true, true⟩).power = true ∧ (lost false ⟨true, true, true⟩).resetPin = true
      ∧ (lost false ⟨true, true, true⟩).powerResetOwed = true) := by decide +kernel

theorem test_met_SuppliesPinAndCover : busy.power = true ∧ busy.battery = true
    ∧ ({ busy with battery := false } : State).battery = false ∧ (unpowered busy).power = false
    ∧ (unpowered busy).running = false ∧ (unpowered busy).tamperLine = false ∧ (unpowered busy).storeLost = false := by
  decide +kernel

/-! ### Slots, counters and imports -/

def withSlot (i : SlotIx) (content : SlotContent) (s : State) : State := s.setSlot i (holding content 0)

theorem test_met_SlotQueryAndCounterRead : Accepts 0 busy ∧ (63 : SlotIx).val = 63 ∧ (busy.slot 63).content.key? = none
    ∧ ((busy.slot 20).content.key? = some (key .working) ∧ (key .working).use.cls ≠ .baseDerivation)
    ∧ (busy.slot 12).content.held? = some (.active, key (.baseDerivation 4096 0))
    ∧ (busy.slot 13).content.held? = some (.exhausted, key (.baseDerivation 4096 1048576)) := by decide +kernel

theorem test_met_CounterAdvanceRaises : Accepts 0 busy ∧ 1048576 < 1048577 ∧ (busy.slot 63).content.key? = none
    ∧ ((busy.slot 20).content.key? = some (key .working) ∧ (key .working).use.cls ≠ .baseDerivation)
    ∧ (key (.baseDerivation 4096 0)).use = .baseDerivation 4096 0
    ∧ ((withSlot 0 (.erasing (key (.baseDerivation 4096 0))) busy).slot 0).content = .erasing (key (.baseDerivation 4096 0))
    ∧ (busy.slot 12).content = .active (key (.baseDerivation 4096 0))
    ∧ (busy.slot 13).content = .exhausted (key (.baseDerivation 4096 1048576))
    ∧ (Accepts 0 (full busy) ∧ ((full busy).slot 12).content = .active (key (.baseDerivation 4096 0))
      ∧ 511 ≤ (full busy).journal.occupancy)
    ∧ busy.journal.occupancy < 511 ∧ ResHolder.counterAdvance ∉ busy.journal.reservations := by decide +kernel

/-- An IMPORT body for slots 9 and 4: a base derivation key of 16 bytes, key set number 4096. -/
def importBody (version : Byte) (wrapped : Nat) : List Byte :=
  [9, 4, version, 2, 16, 1, 0, 0, 16, 0, BitVec.ofNat 8 wrapped] ++ List.replicate wrapped 3 ++ List.replicate 8 0

def importing (zeroised : Bool) (s : State) : State :=
  { s with importWork := some { tag := 200, target := 9, transport := 4, transportGen := 1, zeroised := zeroised } }

theorem test_met_ImportStarts : Accepts 0 busy ∧ (importBody 1 40).length ≤ 2048 ∧ (importing false busy).importWork ≠ none
    ∧ Accepts 0 (importing false busy) ∧ busy.importWork = none ∧ (withLine .zeroised busy).line = .zeroised
    ∧ (withLine (.closing 3) busy).line = .closing 3 ∧ busy.line = .live ∧ readImportBody [9] = none
    ∧ ((readImportBody (importBody 2 24)).map fun b => b.envelope.version) = some 2
    ∧ ((readImportBody (importBody 1 25)).map fun b => b.envelope.wrapped.length) = some 25
    ∧ ((readImportBody (importBody 1 24)).map fun b =>
        (b.target, b.transport, b.envelope.version, b.envelope.wrapped.length)) = some (9, 4, 1, 24)
    ∧ ((regionOf 4 busy).isSome ∧ (busy.slot 4).content = .active (key .transport) ∧ (key .transport).use = .transport)
    ∧ ((busy.slot 9).content = .empty ∧ (regionOf 9 busy).map Region.importWritable = some true
      ∧ (busy.slot 9).generation < 4294967295)
    ∧ 511 ≤ (full busy).journal.occupancy ∧ busy.journal.occupancy < 511 := by decide +kernel

/-- The same IMPORT for other slots. -/
def importFor (target transport : Byte) : List Byte := [target, transport] ++ (importBody 1 24).drop 2

theorem test_met_ImportStarts_slots :
    ((readImportBody (importFor 64 64)).map fun b => (b.target, b.transport)) = some (64, 64)
    ∧ ((readImportBody (importFor 9 63)).map fun b => (b.target, b.transport)) = some (9, 63) ∧ regionOf 63 busy = none
    ∧ (regionOf 0 busy ≠ none ∧ (busy.slot 0).content = .empty)
    ∧ (regionOf 20 busy ≠ none ∧ (busy.slot 20).content = .active (key .working) ∧ (key .working).use ≠ .transport)
    ∧ (busy.slot 12).content ≠ .empty ∧ (busy.slot 63).content = .empty
    ∧ (regionOf 0 busy).map Region.importWritable = some false
    ∧ 4294967295 ≤ ((busy.setSlot 9 { Slot.initial with generation := 4294967295 }).slot 9).generation := by decide +kernel

/-- The bytes before the wrapped key of the envelopes below. -/
def envelopeHeader (cls : Byte) : List Byte := 1 :: cls :: beBytes 1 16 ++ 1 :: beBytes 4 4096 ++ beBytes 1 24

/-- The envelope of an UNWRAP job: a wrap under the key [1], whatever the cipher is, with this class code and authenticator. -/
def envelope (cls : Byte) (authenticator : List Byte) : BankEnvelope where
  version := 1
  cls := cls
  length := 16
  keySet := some 4096
  wrapped := wrappedBytes [1] (envelopeHeader cls) (List.replicate 16 3)
  authenticator := authenticator

/-- The authenticator the envelope must carry, whatever the cipher is. -/
def rightful (cls : Byte) : List Byte := authenticator [1] (envelope cls []).covered

theorem envelope_header (cls : Byte) (a : List Byte) : (envelope cls a).header = envelopeHeader cls := by
  simp [BankEnvelope.header, envelope, wrappedBytes_length, envelopeHeader]

theorem envelope_authentic (cls : Byte) : Authentic [1] (envelope cls (rightful cls)) :=
  ⟨⟨List.replicate 16 3, by rw [envelope_header]; rfl⟩, rfl⟩

def unwrapping (zeroised : Bool) (e : BankEnvelope) : State :=
  { withSlot 9 (.assembling .importUnit) (importing zeroised busy) with
    engine := { busy.engine with
      running := some { requester := 9, inputs := .unwrap [1] e, orphaned := false, zeroised := false } } }

/-- An authentic envelope of BASE_DERIVATION is installed; one of TRANSPORT, with a key set number, cannot be. -/
theorem test_met_UnwrapDoneEndsTheImport_envelopes : ¬Authentic [1] (envelope 2 []) ∧ Authentic [1] (envelope 2 (rightful 2))
    ∧ (∃ held, Installable 9 [1] (envelope 2 (rightful 2)) held (unwrapping false (envelope 2 (rightful 2))))
    ∧ Authentic [1] (envelope 1 (rightful 1))
    ∧ ∀ held, ¬Installable 9 [1] (envelope 1 (rightful 1)) held (unwrapping false (envelope 1 (rightful 1))) := by
  refine ⟨?_, envelope_authentic 2, ?_, envelope_authentic 1, ?_⟩
  · exact fun h => absurd (congrArg List.length h.2) (by simp [authenticator_length, envelope])
  · obtain ⟨r, hr, ha⟩ : ∃ r, regionOf 9 (unwrapping false (envelope 2 (rightful 2))) = some r
        ∧ r.admits .baseDerivation = true := ⟨_, rfl, by decide +kernel⟩
    let k := recoveredKey [1] (envelope 2 (rightful 2)).header (envelope 2 (rightful 2)).wrapped
    exact ⟨{ use := .baseDerivation 4096 0, length := 16, material := k, kcv := Config.kcv k }, .baseDerivation, r, rfl, hr,
      ha, Or.inl rfl, rfl, rfl, rfl, rfl, Or.inr (Or.inr ⟨rfl, 4096, rfl, rfl⟩)⟩
  · rintro held ⟨c, r, hc, -, -, -, -, -, -, -, h⟩
    have hb : c = .transport := (Option.some.inj hc).symm
    subst hb
    simp [envelope] at h

/-- The three ways to change an authentic envelope: the class or a key set number that goes, the first byte of the wrapped key, the
authenticator; and an envelope that is changed into no wrap at all. -/
theorem test_met_UnwrapDoneEndsTheImport_changed : Authentic [1] (envelope 2 (rightful 2))
    ∧ Changed (envelope 2 (rightful 2)) { envelope 2 (rightful 2) with cls := 1 }
    ∧ Changed (envelope 2 (rightful 2)) { envelope 2 (rightful 2) with keySet := none }
    ∧ (∃ w, Changed (envelope 2 (rightful 2)) { envelope 2 (rightful 2) with wrapped := w })
    ∧ Changed (envelope 2 (rightful 2)) { envelope 2 (rightful 2) with authenticator := [] }
    ∧ ∀ key, [] ≠ wrappedBytes [1] { envelope 2 (rightful 2) with wrapped := [] }.header key := by
  refine ⟨envelope_authentic 2, .fields rfl rfl (by simp [BankEnvelope.header, envelope]),
    .fields rfl rfl (by simp [BankEnvelope.header, envelope]), ?_,
    .authenticator rfl fun h => absurd (congrArg List.length h) (by simp [authenticator_length, envelope, rightful]),
    fun key h => absurd (congrArg List.length h) (by simp [wrappedBytes_length])⟩
  cases hw : (envelope 2 (rightful 2)).wrapped with
  | nil => exact absurd (congrArg List.length hw) (by simp [envelope, wrappedBytes_length])
  | cons x rest =>
    have not_same : ∀ y : Byte, y ≠ ~~~y := by decide
    exact ⟨~~~x :: rest, .wrapped [] [x] [~~~x] rest rfl (by rw [BankEnvelope.header, BankEnvelope.header, hw]; rfl) hw rfl rfl
      (by simp) (by simp [not_same])⟩

/-! ### The registry -/

/-- What the statements ask of an entry: its state, recipe version, recipe number and delivered set. -/
structure EntrySeen where
  state : EntryState
  version : Nat
  recipe : Fin 16
  delivered : Nat
  deriving DecidableEq, Repr

/-- The entry of a one-byte serial in way 0. -/
def seen (x : Byte) : Option EntrySeen :=
  (busy.registry.get (position (rowOf [x]) 0)).map fun e =>
    { state := e.state, version := e.version.getD 0, recipe := e.recipe.getD 0, delivered := e.delivered.toNat }

theorem test_met_RegAddInsertsOrPins : Accepts 0 busy ∧ (16 < (List.replicate 17 (0 : Byte)).length ∧ ¬256 ≤ 17)
    ∧ recipeNumbered 15 busy = none ∧ recipeNumbered 3 busy ≠ none
    ∧ ((busy.registry.get (position (rowOf [6]) 0)).map Entry.serial = some [6])
    ∧ some [7] ∉ rowSerials busy.registry [7]
    ∧ (busy.registry.get (position (rowOf [7]) 0) = none ∧ ∀ lower, lower < (0 : Fin 4) →
      busy.registry.get (position (rowOf [7]) lower) ≠ none)
    ∧ some [9, 0] ∉ rowSerials busy.registry [9, 0]
    ∧ some [8, 0] ∉ rowSerials busy.registry [8, 0] := by decide +kernel

theorem test_met_RegAdd_rows : (∃ e, VictimWay [9, 0] 1 e busy.registry) ∧ RowFull [8, 0] busy.registry := by
  constructor
  · refine ⟨{ entry [73] .discovered .expected none 2 0 with unboundSince := some 5 }, by decide +kernel, by decide +kernel,
      rfl, rfl, fun v f hf ho hs => ?_⟩
    fin_cases v
    · have : some (entry [9] .manifest .expected none 2 0) = some f := hf ▸ (by decide +kernel)
      cases this; cases ho
    · have : some { entry [73] .discovered .expected none 2 0 with unboundSince := some 5 } = some f :=
        hf ▸ (by decide +kernel)
      cases this; exact ⟨fun h => absurd h (by decide), by decide⟩
    · have : some { entry [137] .discovered .expected none 2 0 with unboundSince := some 5 } = some f :=
        hf ▸ (by decide +kernel)
      cases this; exact ⟨fun h => absurd h (by decide), by decide⟩
    · have : some (entry [201] .manifest .expected none 2 0) = some f := hf ▸ (by decide +kernel)
      cases this; cases ho
  · intro v
    have : ∀ v : Fin 4, ((busy.registry.get (position (rowOf [8, 0]) v)).map fun e => e.origin) = some .manifest := by
      decide +kernel
    cases h : busy.registry.get (position (rowOf [8, 0]) v) with
    | none => have := this v; rw [h] at this; cases this
    | some e =>
      refine ⟨e, rfl, fun hc => ?_⟩
      have := this v
      rw [h, Option.map_some, hc.1] at this
      cases this

theorem test_met_RegQueryAndScanRead : Accepts 0 busy ∧ (List.replicate 17 (0 : Byte)).length < 256
    ∧ (busy.registry.get (position (rowOf [6]) 0)).map Entry.serial = some [6]
    ∧ some (List.replicate 16 255) ∉ rowSerials busy.registry (List.replicate 16 255) ∧ 255 < 256 ∧ 8 < 9 ∧ 255 ≤ 255 := by
  decide +kernel


theorem test_met_RegSetStateCompares : entryStateOf? 0 = none ∧ entryStateOf? 6 = none
    ∧ entryStateOf? 1 = some .expected ∧ entryStateOf? 3 = some .partialLoad ∧ entryStateOf? 5 = some .rejected
    ∧ (EntryState.expected, EntryState.expected) ∉ [(.expected, .rejected), (.partialLoad, .rejected), (.rejected, .expected),
        (.rejected, .partialLoad)]
    ∧ some [7] ∉ rowSerials busy.registry [7]
    ∧ seen 1 = some ⟨.loading, 2, 3, 2⟩ ∧ seen 12 = some ⟨.partialLoad, 2, 3, 1⟩
    ∧ seen 11 = some ⟨.rejected, 2, 3, 0⟩ := by decide +kernel

theorem test_met_RegRemoveCompares : entryStateOf? 6 = none ∧ entryStateOf? 4 = some .complete
    ∧ some [7] ∉ rowSerials busy.registry [7] ∧ seen 1 = some ⟨.loading, 2, 3, 2⟩
    ∧ seen 10 = some ⟨.complete, 2, 3, 0xFFF⟩ ∧ seen 11 = some ⟨.rejected, 2, 3, 0⟩ := by decide +kernel

/-- The entry of serial 73 has waited so long. -/
def waited (time : Nat) (s : State) : State :=
  let i := position (rowOf [73]) 1
  s.setRegistry (s.registry.set i ((s.registry.get i).map fun e => { e with unboundSince := some time }))

theorem test_met_AgedEntryIsRemoved : busy.running = true ∧ busy.profile = some plan ∧ plan.params.ageLimit = 3600
    ∧ (((waited 3600 busy).registry.get (position (rowOf [73]) 1)).map Entry.unboundSince) = some (some 3600)
    ∧ (((waited 3599 busy).registry.get (position (rowOf [73]) 1)).map Entry.unboundSince) = some (some 3599)
    ∧ ((busy.registry.get (position (rowOf [6]) 0)).map Entry.unboundSince) = some none ∧ busy.registry.get 255 = none := by
  decide +kernel

/-! ### The journal -/

def journalled : State :=
  busy.setJournal { busy.journal with
    records := [{ sequence := 4294967295, body := .lineOpened { a := 0, b := 4 } },
      { sequence := 1, body := .tamper .tamperLine 255 }, { sequence := 2, body := .lineOpened { a := 0, b := 4 } }] }

theorem test_met_JournalReadAndRelease : Accepts 0 journalled ∧ (∀ r ∈ journalled.journal.records, r.sequence ≠ 3)
    ∧ journalled.journal.records = [{ sequence := 4294967295, body := .lineOpened { a := 0, b := 4 } }]
      ++ { sequence := 1, body := .tamper .tamperLine 255 } :: [{ sequence := 2, body := .lineOpened { a := 0, b := 4 } }]
    ∧ (∀ x ∈ [({ sequence := 4294967295, body := .lineOpened { a := 0, b := 4 } } : Record)], x.sequence ≠ 1)
    ∧ tamperRecords journalled ≠ [] := by
  decide +kernel

/-! ### Consoles and custodians -/

def withConsole (l : ConsoleLink) (c : Console) (s : State) : State := s.setConsole l c

/-- A console whose link owes so many answers in its queue. -/
def owingAnswers (n : Nat) (c : Console) : Console := { c with tx := List.replicate n (.answer 0x09 .ok .nothing) }

def work (phase : Phase) (params : CeremonyParams) : CeremonyWork where
  phase := phase
  opener := { cust := 0, group := .a }
  params := params
  underCheck := none
  held := []
  bound := []
  badEntries := 0
  combined := none
  acceptA := none
  acceptB := none
  window := some (idleFor 300)

def during (w : CeremonyWork) (s : State) : State := { s with ceremony := { run := .work w, last := none } }

/-- Slot 9 as the target of a two-component ceremony. -/
def assembling : CeremonyParams := .assemble 9 .baseDerivation 16 2 (some 4096)

def loggedOff (l : ConsoleLink) (s : State) : State := withConsole l { s.console l with logon := none } s

theorem test_met_ConsoleMessagesAreGated :
    consoleMessage? (.openErase 1 255) = some (1, 0x04) ∧ needsLogon (.openErase 1 255) = true
    ∧ opens (.openErase 1 255) = true ∧ ((withConsole 1 Console.initial busy).console 1).present = false
    ∧ 4 ≤ ((withConsole 1 (owingAnswers 4 (console 4)) busy).console 1).answersDue
    ∧ (Takes 1 (withConsole 1 { owingAnswers 2 (console 4) with unanswered := true } busy)
      ∧ ((withConsole 1 { owingAnswers 2 (console 4) with unanswered := true } busy).console 1).unanswered = true)
    ∧ (Listens 1 (withConsole 1 (owingAnswers 3 (console 4)) busy) ∧ Listens 1 (loggedOff 1 busy)
      ∧ ((loggedOff 1 busy).console 1).logon = none)
    ∧ (Listens 1 (during (work .gathering .openLine) busy) ∧ (busy.console 1).logon ≠ none
      ∧ (during (work .gathering .openLine) busy).ceremony.run ≠ .idle)
    ∧ Listens 1 (withLine .zeroised busy) ∧ (withLine .zeroised busy).ceremony.run = .idle := by decide +kernel

theorem test_met_QueryAndBadMessage : Listens 0 busy
    ∧ (during (work .gathering .openLine) busy).ceremony.run = .work (work .gathering .openLine)
    ∧ Listens 0 (during (work .gathering .openLine) busy) := by decide +kernel

theorem test_met_LogonChecks : (Listens 0 busy ∧ (busy.console 0).logon ≠ none) ∧ Listens 0 (loggedOff 0 busy)
    ∧ ((loggedOff 0 busy).console 0).logon = none ∧ 8 < 9 ∧ (loggedOff 0 busy).custodian 7 = none
    ∧ ((loggedOff 0 busy).custodian 4 ≠ none ∧ LoggedOn 1 4 (loggedOff 0 busy))
    ∧ ((loggedOff 0 busy).custodian 2 = some (person .a .locked) ∧ ∀ k, ¬LoggedOn k 2 (loggedOff 0 busy))
    ∧ ((loggedOff 0 busy).custodian 0 = some (person .a .enrolled) ∧ (∀ k, ¬LoggedOn k 0 (loggedOff 0 busy))
      ∧ (List.replicate 7 (0 : Byte)).length < 8 ∧ 32 < (List.replicate 33 (0 : Byte)).length) := by decide +kernel

/-- A digest that a credential has, and one that it has not. -/
theorem test_met_LogonChecks_digest (credential : List Byte) :
    (∃ e : CustEntry, e.lock = .enrolled ∧ Config.digest credential = e.digest)
      ∧ ∃ e : CustEntry, e.lock = .enrolled ∧ Config.digest credential ≠ e.digest := by
  refine ⟨⟨{ person .a .enrolled with digest := Config.digest credential }, rfl, rfl⟩,
    { person .a .enrolled with digest := ~~~Config.digest credential }, rfl, fun h => ?_⟩
  have := congrArg (fun d => d.getLsbD 0) h
  simp at this

def emptied (s : State) : State := { s with store := { s.store with custodians := Tab.fill 8 none } }

theorem test_met_EnrolFirstFillsAGroup : Listens 1 busy ∧ Group.b.code = 2
    ∧ busy.custodian 4 = some (person .b .enrolled) ∧ (Listens 1 (emptied busy)
      ∧ ∀ c : Cust, (emptied busy).custodian c = none)
    ∧ (∃ c : Cust, busy.custodian c = some (person .a .locked))
    ∧ (during (work .gathering (.enrol 7 .b 0)) (emptied busy)).ceremony.run = .work (work .gathering (.enrol 7 .b 0))
    ∧ (work .gathering (.enrol 7 .b 0)).params ≠ .enrol 6 .b 0 := by decide +kernel

theorem test_met_LogonEnds : LoggedOn 0 0 busy ∧ Listens 0 busy ∧ busy.running = true ∧ (busy.console 0).present = true
    ∧ ((loggedOff 0 busy).console 0).present = true ∧ ((loggedOff 0 busy).console 0).logon = none
    ∧ (work .verifying assembling).isBound 0 = false
    ∧ ({ work .verifying assembling with acceptA := some 0 }).isBound 0 = true := by decide +kernel

/-! ### Ceremonies -/

def spent (s : State) : State := s.setSlot 9 { s.slot 9 with generation := 4294967295 }

theorem test_met_OpenAssembleReservesItsSlot : (Listens 0 busy ∧ LoggedOn 0 0 busy ∧ busy.ceremony.run = .idle
      ∧ busy.line ≠ .zeroised)
    ∧ classOf? 0 = none ∧ classOf? 4 = none ∧ classOf? 2 = some .baseDerivation ∧ classOf? 3 = some .working
    ∧ (withLine (.closing 0) busy).line = .closing 0 ∧ (9 : SlotIx).val = 9 ∧ (63 : SlotIx).val = 63
    ∧ (busy.slot 12).content ≠ .empty ∧ (regionOf 63 busy = none ∧ (busy.slot 63).content = .empty)
    ∧ ((busy.slot 9).content = .empty ∧ (regionOf 9 busy).map
        (fun r => (r.ceremonyWritable, r.admits .baseDerivation, r.admits .working)) = some (true, true, false))
    ∧ 4294967295 ≤ ((spent busy).slot 9).generation ∧ (busy.slot 9).generation < 4294967295
    ∧ 511 ≤ (full busy).journal.occupancy ∧ busy.journal.occupancy < 511 := by decide +kernel

theorem test_met_OpenOtherKinds : (Listens 0 busy ∧ LoggedOn 0 0 busy ∧ busy.ceremony.run = .idle ∧ busy.line ≠ .zeroised)
    ∧ (busy.slot 20).content.held?.map Prod.fst ∈ [some .active, some .exhausted]
    ∧ (busy.slot 13).content.held?.map Prod.fst ∈ [some .active, some .exhausted]
    ∧ (busy.slot 0).content.held?.map Prod.fst ∉ [some .active, some .exhausted]
    ∧ ((withLine .setup busy).line = .setup ∧ busy.profile ≠ none) ∧ busy.line ≠ .setup
    ∧ (busy.custodian 7 = none ∧ Group.a.code = 1)
    ∧ ((0 : Cust) = 0 ∧ busy.custodian 0 = some (person .a .enrolled))
    ∧ ((4 : Cust) ≠ 0 ∧ busy.custodian 4 = some (person .b .enrolled) ∧ busy.custodian 5 = some (person .b .enrolled))
    ∧ (busy.setCustodian 5 none).custodian 5 = none ∧ busy.custodian 2 = some (person .a .locked) := by decide +kernel

def held (c : Cust) (g : Group) : Component := { who := { cust := c, group := g }, value := [] }

theorem test_met_ComponentGoesUnderCheck : Listens 0 busy ∧ LoggedOn 0 0 busy
    ∧ (work .verifying assembling).phase ≠ .gathering ∧ (work .gathering .openLine).params.kind ≠ .assemble
    ∧ (Listens 0 (during (work .gathering assembling) busy)
      ∧ (during (work .gathering assembling) busy).ceremony.run = .work (work .gathering assembling)
      ∧ (work .gathering assembling).underCheck = none)
    ∧ (∃ x ∈ [held 0 .a], x.who.cust = 0) ∧ (∀ x ∈ [held 1 .a], x.who.cust ≠ 0)
    ∧ personOf 0 busy = { cust := 0, group := .a }
    ∧ 2 - ([held 1 .a].length + 1) < groupsLacking [held 1 .a] (personOf 0 busy)
    ∧ groupsLacking [held 4 .b] (personOf 0 busy) ≤ 2 - ([held 4 .b].length + 1)
    ∧ groupsLacking [] (personOf 0 busy) ≤ 2 - (0 + 1)
    ∧ (List.replicate 15 (0 : Byte)).length ≠ 16 ∧ 1 + 1 < 3 ∧ 3 ≤ 2 + 1 := by decide +kernel

/-- The part with this job running. -/
def running (requester : Fin 10) (inputs : JobInputs) (orphaned : Bool) (s : State) : State :=
  { s with engine := { s.engine with
      running := some { requester := requester, inputs := inputs, orphaned := orphaned, zeroised := false } } }

/-- A component entered at link 1, and the bad entries before it. -/
structure Entered where
  value : KeyBytes
  check : Kcv
  bad : Nat
  deriving DecidableEq, Repr

def checking (e : Entered) : State :=
  running 8 (.checkComponent e.value e.check) false
    (withConsole 0 { console 0 with unanswered := true }
      (during { work .gathering assembling with
        underCheck := some { who := { cust := 0, group := .a }, value := e.value, check := e.check, link := 0 }
        badEntries := e.bad } busy))

theorem test_met_CheckComponentDoneJudges (e : Entered) :
    (checking e).running = true
    ∧ (∃ job, (checking e).engine.running = some job ∧ job.inputs = .checkComponent e.value e.check
      ∧ job.orphaned = false ∧ job.zeroised = false)
    ∧ (∃ w u, (checking e).ceremony.run = .work w ∧ w.underCheck = some u ∧ w.params = assembling
      ∧ w.badEntries = e.bad ∧ ((checking e).console u.link).unanswered = true
      ∧ ((checking e).console u.link).present = true)
    ∧ Config.kcv e.value ≠ ~~~Config.kcv e.value
    ∧ ([] ++ [held 0 .a]).length < 2 ∧ 2 ≤ ([held 4 .b] ++ [held 0 .a]).length := by
  refine ⟨rfl, ⟨_, rfl, rfl, rfl, rfl⟩, ⟨_, _, rfl, rfl, rfl, rfl, rfl, rfl⟩, fun h => ?_, by decide, by decide⟩
  have := congrArg (fun d => d.getLsbD 0) h
  simp at this

def settling (inputs : JobInputs) : State :=
  running 8 inputs true { busy with ceremony := { run := .settling .assemble { cust := 0, group := .a }, last := none } }

theorem test_met_orphaned_ceremony_jobs : (settling (.combine [[1], [2]])).running = true
    ∧ ((settling (.combine [[1], [2]])).engine.running.map fun j => (j.inputs, j.orphaned)) = some (.combine [[1], [2]], true)
    ∧ (settling (.combine [])).ceremony.run = .settling .assemble { cust := 0, group := .a } := by decide +kernel

theorem test_met_CombineDoneShowsTheKcv :
    ((running 8 (.combine [[1], [2]]) false (during (work .combining assembling) busy)).engine.running.map
      fun j => (j.inputs, j.orphaned, j.zeroised)) = some (.combine [[1], [2]], false, false)
    ∧ (work .combining assembling).phase = .combining ∧ ([[1], [2]] : List KeyBytes) ≠ []
    ∧ (∀ k ∈ ([[1], [2], [2]] : List KeyBytes), k.length = 1) ∧ (∀ k ∈ ([[1], [2], [2]] : List KeyBytes), k ∈ ([[2], [1]] : List KeyBytes))
    ∧ (∀ k ∈ ([[2], [1]] : List KeyBytes), k ∈ ([[1], [2], [2]] : List KeyBytes)) := by decide +kernel

/-- A ceremony with the acceptance of custodian 5, of group B. -/
def acceptedByB (phase : Phase) (params : CeremonyParams) : CeremonyWork :=
  { work phase params with acceptB := some 4, combined := some { key := [1], kcv := 2 } }

theorem test_met_AcceptChecksAndHolds : Listens 0 busy ∧ LoggedOn 0 0 busy
    ∧ ¬((work .gathering assembling).phase = .verifying ∨ ((work .gathering assembling).phase = .gathering
      ∧ (work .gathering assembling).params.kind ≠ .assemble))
    ∧ ((work .verifying assembling).phase = .verifying ∧ (work .verifying assembling).acceptA = none)
    ∧ (Listens 1 (during (acceptedByB .verifying assembling) busy) ∧ LoggedOn 1 4 busy
      ∧ (acceptedByB .verifying assembling).acceptB = some 4)
    ∧ ({ work .gathering (.revoke 0) with acceptA := some 1 }).acceptanceOf (personOf 0 busy).group ≠ none
    ∧ (acceptedByB .gathering (.revoke 0)).acceptanceOf (personOf 0 busy).group = none
    ∧ (acceptedByB .gathering (.revoke 0)).params = .revoke 0
    ∧ (∀ d f, d ≠ (5 : Cust) → (busy.setCustodian 4 none).custodian d = some f → f.group = .b → f.lock = .locked) := by
  refine ⟨by decide +kernel, by decide +kernel, by decide, by decide, by decide +kernel, by decide +kernel,
    by decide +kernel, by decide +kernel, ?_⟩
  intro d f hd hf hg
  have : ∀ d : Cust, d ≠ 5 → ((busy.setCustodian 4 none).custodian d).map CustEntry.group ≠ some .b := by decide +kernel
  exact absurd (by rw [hf, ← hg]; rfl) (this d hd)

theorem test_met_AcceptCompletes : (Listens 0 busy ∧ LoggedOn 0 0 busy)
    ∧ (acceptedByB .verifying assembling).phase = .verifying ∧ assembling.kind = .assemble
    ∧ (acceptedByB .verifying assembling).acceptA ≠ some 0 ∧ (acceptedByB .verifying assembling).acceptB ≠ some 0
    ∧ (acceptedByB .verifying assembling).acceptanceOf (personOf 0 busy).group = none
    ∧ (acceptedByB .verifying assembling).acceptanceOf (otherGroup (personOf 0 busy).group) = some 4
    ∧ ((acceptedByB .verifying assembling).combined = some { key := [1], kcv := 2 }
      ∧ newKeyUse .baseDerivation (some 4096) = some (.baseDerivation 4096 0)
      ∧ ((withSlot 9 (.assembling .ceremony) busy).slot 9).content = .assembling .ceremony)
    ∧ (busy.slot 21).inUse = 0 ∧ (busy.slot 20).inUse ≠ 0 ∧ (busy.slot 20).content.key? = some (key .working)
    ∧ (withLine .setup busy).line = .setup ∧ busy.custodian 2 = some (person .a .locked)
    ∧ ((5 : Cust) ≠ 0 ∧ (4 : Cust) ≠ 5 ∧ busy.custodian 4 = some (person .b .enrolled) ∧ (personOf 5 busy).group = .b) := by
  decide +kernel

theorem test_met_RejectCancelAndWindow : Listens 0 busy ∧ LoggedOn 0 0 busy ∧ busy.running = true
    ∧ (during (work .verifying assembling) busy).ceremony.run = .work (work .verifying assembling)
    ∧ (work .verifying assembling).opener.cust = 0 ∧ (work .verifying assembling).phase ≠ .draining
    ∧ (work .draining (.erase 20)).phase = .draining ∧ (work .verifying assembling).window ≠ none
    ∧ ({ work .draining (.erase 20) with window := none }).window = none := by decide +kernel

/-! ### Time: each timer so many seconds from its limit -/

/-- A component of custodian 5, entered at link 2, is under check. -/
def underCheck5 : UnderCheck := { who := { cust := 4, group := .b }, value := [1], check := 2, link := 1 }

def timer (back limit : Nat) : Timer := { count := limit - back, limit := limit }

def timedConsole (back : Nat) (c : Cust) : Console :=
  { console c with logon := some { who := c, idle := timer back 600 }, rx := .assembling [] (2 - back), unanswered := true }

/-- Every timer that runs so many seconds from its limit; an ASSEMBLE open with a component under check. -/
def timed (back : Nat) : State :=
  waited (3600 - back)
    (during { work .gathering assembling with underCheck := some underCheck5, window := some (timer back 300) }
      { busy with
        consoles := table 2 Console.initial [(0, timedConsole back 0), (1, timedConsole back 4)]
        benches := (busy.benches.set 1 (seat (.identified (session [1]) (timer back 30)))).set 3
          { seat (.offered (session [3]) (timer back 30)) with rx := .assembling [9] (2 - back) } })

theorem test_met_EmptyQueueCountsOneSecond : ((timed 1).pending = [] ∧ (timed 1).running = true)
    ∧ ((unpowered busy).pending = [] ∧ (unpowered busy).running = false)
    ∧ ((timed 1).console 0).logon = some { who := 0, idle := { count := 599, limit := 600 } }
    ∧ (timed 1).ctx 1 = .identified (session [1]) { count := 29, limit := 30 }
    ∧ (timed 1).ctx 3 = .offered (session [3]) { count := 29, limit := 30 }
    ∧ receiver (.console 1) (timed 1) = .assembling [] 1 ∧ receiver (.bench 3) (timed 1) = .assembling [9] 1
    ∧ (timed 1).profile = some plan
    ∧ ((timed 1).registry.get (position (rowOf [73]) 1)).map Entry.unboundSince = some (some 3599) := by decide +kernel

theorem test_met_EmptyQueueCountsOneSecond_window : ∃ w, (timed 1).ceremony.run = .work w
    ∧ w.window = some { count := 299, limit := 300 } := ⟨_, rfl, rfl⟩

/-- The timers at their limits, and one second before them. -/
theorem test_met_expiries : (timed 0).running = true ∧ (timed 1).running = true
    ∧ (((timed 0).console 1).logon = some { who := 4, idle := { count := 600, limit := 600 } }
      ∧ ((timed 1).console 1).logon = some { who := 4, idle := { count := 599, limit := 600 } })
    ∧ ((timed 0).ctx 1 = .identified (session [1]) { count := 30, limit := 30 }
      ∧ (timed 1).ctx 1 = .identified (session [1]) { count := 29, limit := 30 })
    ∧ ((timed 0).ctx 3 = .offered (session [3]) { count := 30, limit := 30 }
      ∧ (timed 1).ctx 3 = .offered (session [3]) { count := 29, limit := 30 })
    ∧ (receiver (.console 1) (timed 0) = .assembling [] 2 ∧ receiver (.console 1) (timed 1) = .assembling [] 1) := by
  decide +kernel

/-- A ceremony with a component under check: its sender is bound to it, and its window at the limit and before it. -/
theorem test_met_expiries_ceremony : (∃ w, (timed 0).ceremony.run = .work w ∧ w.underCheck = some underCheck5
      ∧ w.isBound 4 = true ∧ w.window = some { count := 300, limit := 300 } ∧ w.opener.cust = 0 ∧ w.phase ≠ .draining)
    ∧ (∃ w, (timed 1).ceremony.run = .work w ∧ w.window = some { count := 299, limit := 300 })
    ∧ ((timed 0).console underCheck5.link).unanswered = true ∧ LoggedOn 1 4 (timed 0)
    ∧ Listens 0 ((timed 0).setConsole 0 (console 0)) ∧ LoggedOn 0 0 (timed 0) :=
  ⟨⟨_, rfl, rfl, by decide, rfl, rfl, by decide⟩, ⟨_, rfl, rfl⟩, by decide +kernel⟩

/-! ### An import that ends -/

/-- The transport slot of the import is ERASING, approved by custodians 1 and 5, with the import's claim the last. -/
def erasingTransport (s : State) : State :=
  during { work .draining (.erase 4) with acceptA := some 0, acceptB := some 4, window := none }
    (s.setSlot 4 (holding (.erasing (key .transport)) 1))

theorem test_met_UnwrapDoneEndsTheImport : (unwrapping true (envelope 2 [])).running = true
    ∧ ((unwrapping true (envelope 2 [])).slot 4).content = .active (key .transport)
    ∧ (9 : SlotIx) ≠ 4 ∧ ((unwrapping false (envelope 2 [])).slot 9).content = .assembling .importUnit
    ∧ (unwrapping true (envelope 2 [])).importWork.map ImportWork.zeroised = some true
    ∧ ((erasingTransport (unwrapping false (envelope 2 []))).slot 4).content = .erasing (key .transport)
    ∧ ((erasingTransport (unwrapping false (envelope 2 []))).slot 4).inUse = 1
    ∧ ({ work .draining (.erase 4) with acceptA := some 0, acceptB := some 4 }).approvers = some { a := 0, b := 4 }
    ∧ 1 < (holding (.erasing (key .transport)) 2).inUse := by decide +kernel

/-! ### The engine and the bench sessions -/

theorem test_met_GrantsGoRoundRobin : (∀ r, (table 10 (none : Option Job) []).get r = none)
    ∧ (2 : Fin 10).val = (busy.engine.lastGranted.val + 1 + 6) % 10 ∧ busy.engine.waiting.get 2 ≠ none
    ∧ (∀ q : Fin 10, q ≠ 2 → busy.engine.waiting.get q = none)
    ∧ (5 : Fin 10).val = (busy.engine.lastGranted.val + 1 + 9) % 10 := by decide +kernel

def preparing2 : State := { busy with engine := { busy.engine with running := some (job 2 false) } }

theorem test_met_PrepareDoneOffersOrDrains : (preparing2.running = true ∧ preparing2.engine.running = some (job 2 false)
      ∧ (job 2 false).requester = benchRequester 2 ∧ (job 2 false).inputs.isPrepareShared = true
      ∧ preparing2.ctx 2 = .preparing (session [2]) ∧ preparing2.step 2 = some (stepOf 2 [2] none)
      ∧ (preparing2.bench 2).present = true)
    ∧ JobInputs.isPrepareDerived (.prepareDerived [] 4096 1048575 [] 1 2) = true
    ∧ (busy.engine.running = some (job 5 true) ∧ busy.ctx 5 = .draining .detached true
      ∧ busy.step 5 = some (stepOf 5 [6] none) ∧ busy.journal.reservations.Nodup)
    ∧ (withLine (.closing 3) busy).line = .closing 3 := by decide +kernel

theorem test_met_BenchMessagesByState : busy.running = true ∧ (busy.bench 6).present = false ∧ busy.ctx 7 = .off
    ∧ busy.ctx 6 = .vacant ∧ 4 ≤ ({ busy.bench 0 with tx := List.replicate 4 (.verdict .busy false false) } : Bench).answersDue
    ∧ (∀ p ∈ [(0 : Port), 1, 2, 3, 4, 5], Hears p busy)
    ∧ takenIn (.fetch 0 255) (busy.ctx 0) = false ∧ takenIn (.hello 1 [] 0) (busy.ctx 1) = false
    ∧ takenIn (.confirm 2 0 0) (busy.ctx 2) = false ∧ takenIn (.bye 4) (busy.ctx 4) = false
    ∧ takenIn (.bye 5) (busy.ctx 5) = false := by decide +kernel

theorem test_met_HelloOpensOrRefuses : (Hears 0 busy ∧ busy.ctx 0 = .attached ∧ busy.line = .live)
    ∧ (withLine .paused busy).line = .paused ∧ (withLine .setup busy).line ≠ .live
    ∧ [1, 10, 11, 6, 12].map seen =
      [some ⟨.loading, 2, 3, 2⟩, some ⟨.complete, 2, 3, 0xFFF⟩, some ⟨.rejected, 2, 3, 0⟩, some ⟨.expected, 2, 3, 0⟩,
        some ⟨.partialLoad, 2, 3, 1⟩]
    ∧ [13, 16, 17, 18].map seen =
      [some ⟨.partialLoad, 1, 3, 1⟩, some ⟨.partialLoad, 2, 3, 0x3F⟩, some ⟨.expected, 2, 9, 0⟩,
        some ⟨.expected, 2, 4, 0⟩] := by decide +kernel

theorem test_met_HelloOpensOrRefuses_recipes : recipeNumbered 9 busy = none ∧ (plan.ports.get 0).allowed.getLsbD 4 = false
    ∧ (plan.ports.get 0).allowed.getLsbD 3 = true ∧ recipeNumbered 3 busy = some (recipe 3 0x4B543430)
    ∧ (recipe 3 0x4B543430).model ≠ 0x4B543431
    ∧ (∀ k : Fin 6, (0x3F : BitVec 12).getLsbD k.val = true) ∧ (recipe 3 0x4B543430).steps.length = 6
    ∧ (5 < (recipe 3 0x4B543430).steps.length ∧ (1 : BitVec 12).getLsbD 5 = false) := by decide +kernel

theorem test_met_HelloOpensOrRefuses_unknown : some [7] ∉ rowSerials busy.registry [7]
    ∧ busy.profile = some plan ∧ plan.params.policy = .openPolicy
    ∧ ({ plan with params := { plan.params with policy := .manifestOnly } } : Profile).params.policy = .manifestOnly
    ∧ recipeForModel 0x4B543433 busy = none ∧ recipeForModel 0x4B543430 busy = some (recipe 3 0x4B543430) := by
  decide +kernel

theorem test_met_FetchAdmitsOrRefuses : (Hears 1 busy ∧ busy.ctx 1 = .identified (session [1]) (idleFor 30)
      ∧ ResHolder.bench 1 ∉ busy.journal.reservations ∧ busy.line = .live)
    ∧ (withLine .paused busy).line ≠ .live ∧ (session [1]).stepCount ≤ 6
    ∧ recipeNumbered 3 busy = some (recipe 3 0x4B543430) ∧ seen 1 = some ⟨.loading, 2, 3, 2⟩
    ∧ ((2 : BitVec 12).getLsbD 1 = true ∧ (2 : BitVec 12).getLsbD 0 = false)
    ∧ (511 ≤ (full busy).journal.occupancy ∧ busy.journal.occupancy < 511) := by decide +kernel

/-- What a region says of one bench port. -/
structure RegionSeen where
  number : Nat
  grants : Bool
  deriving DecidableEq, Repr

def region (i : SlotIx) (p : Port) : Option RegionSeen :=
  (regionOf i busy).map fun r => { number := r.number, grants := r.ports.getLsbD p.val }

theorem test_met_FetchAdmitsOrRefuses_slots : ((recipe 3 0).steps.map RecipeStep.source = [20, 12, 21, 13, 63, 22] ∧ regionOf 63 busy = none)
    ∧ region 20 1 = some ⟨2, true⟩
    ∧ (busy.slot 13).content = .exhausted (key (.baseDerivation 4096 1048576)) ∧ (busy.slot 22).content = .empty
    ∧ (busy.slot 20).content = .active (key .working) ∧ (busy.slot 12).content = .active (key (.baseDerivation 4096 0))
    ∧ region 4 1 = some ⟨0, true⟩
    ∧ (busy.slot 4).content = .active (key .transport)
    ∧ ((withSlot 4 .empty busy).slot 4).content = .empty
    ∧ regionOf 4 { busy with store := { busy.store with profile := some { plan with regions := plan.regions.drop 1 } } } = none := by
  decide +kernel

theorem test_met_ConfirmEndsTheStep : (Hears 3 busy ∧ busy.ctx 3 = .offered (session [3]) (idleFor 30)
      ∧ busy.step 3 = some (stepOf 3 [3] (some 0xC40F17)) ∧ busy.journal.reservations.Nodup)
    ∧ (stepOf 3 [3] (some 0xC40F17)).facts.index ≠ 255 ∧ (stepOf 3 [3] (some 0xC40F17)).facts.index = 0
    ∧ ((busy.registry.get (position (rowOf [3]) 0)).map fun e => (e.serial, e.state, e.mismatches)) = some ([3], .loading, 2)
    ∧ retryLimit busy = 3 ∧ (stepOf 3 [3] (some 0xC40F17)).expected ≠ some 0
    ∧ ((2 : BitVec 12) ||| BitVec.twoPow 12 0).getLsbD 5 = false
    ∧ (∀ k, k < 6 → ((0x3E : BitVec 12) ||| BitVec.twoPow 12 0).getLsbD k = true) := by decide +kernel

theorem test_met_SessionsEndByTheirReason : (Hears 1 busy ∧ sessionOf? (busy.ctx 1) = some (session [1])
      ∧ busy.journal.reservations.Nodup)
    ∧ (sessionOf? (busy.ctx 2) = some (session [2]) ∧ (busy.bench 2).present = true ∧ jobPlace (benchRequester 2) busy ≠ .running
      ∧ jobPlace (benchRequester 2) { preparing2 with engine := { preparing2.engine with waiting := table 10 none [] } } = .running)
    ∧ (sessionOf? (busy.ctx 3) = some (session [3]) ∧ busy.step 3 = some (stepOf 3 [3] (some 0xC40F17)))
    ∧ (sessionOf? (busy.ctx 5) = none ∧ (busy.bench 5).present = true ∧ busy.running = true)
    ∧ (busy.bench 6).present = false := by decide +kernel

/-! ### Links -/

def receiving (k : LinkId) (collected : List Byte) : State := setReceiver k (.assembling collected 0) busy

theorem test_met_ReceiversAndTransmitters : busy.running = true ∧ receiver (.bench 7) busy = .idle ∧ (0xA6 : Byte) ≠ 0xA5
    ∧ receiver (.console 1) (receiving (.console 1) []) = .assembling [] 0 ∧ (([] : List Byte) ++ [9]).length < 2
    ∧ ([0x09] ++ [0x00] : List Byte) = 0x09 :: 0x00 :: [] ∧ ([] : List Byte).length < (0x00 : Byte).toNat + 2
    ∧ ([0x09, 0x00, 0x12] ++ [0x34] : List Byte) = 0x09 :: 0x00 :: [0x12, 0x34]
    ∧ [0x12, 0x34].drop 0 ≠ beBytes 2 (crc16 (0x09 :: 0x00 :: [])).toNat
    ∧ (busy.console 0).tx = [] ∧ (receiver (.console 1) (timed 0) = .assembling [] 2 ∧ 2 ≤ 2)
    ∧ (receiver (.console 1) (timed 1) = .assembling [] 1 ∧ 1 < 2)
    ∧ ((withConsole 0 (owingAnswers 1 (console 0)) busy).console 0).tx = .answer 0x09 .ok .nothing :: [] := by decide +kernel

/-- A QUERY, and a frame of a kind that is laid out for no console. -/
theorem test_met_LinkFramesRunAsTheirRows :
    linkMessage? (.query 1) = some (.console 1, 0x09, []) ∧ (Instr.query 1).wf = true
    ∧ (∃ collected x, collected ++ [x] = frameAfterStart 0x09 []
      ∧ receiver (.console 1) (receiving (.console 1) collected) = .assembling collected 0)
    ∧ (∃ collected x, collected ++ [x] = frameAfterStart 0x7F [])
    ∧ ∀ c : Instr, c.wf = true → linkMessage? c ≠ some (.console 1, 0x7F, []) := by
  refine ⟨rfl, rfl, ⟨(frameAfterStart 0x09 []).dropLast, (frameAfterStart 0x09 []).getLastD 0, by decide +kernel,
    by decide +kernel⟩, ⟨(frameAfterStart 0x7F []).dropLast, (frameAfterStart 0x7F []).getLastD 0, by decide +kernel⟩, ?_⟩
  intro c _ h
  cases c <;> simp [linkMessage?] at h

/-- An OPEN of no kind, one of a kind that is not one of the six, and the links and states that R42 tells apart. -/
theorem test_met_LinkFramesRunAsTheirRows_open :
    (∃ collected x, collected ++ [x] = frameAfterStart 0x04 [])
    ∧ (∃ collected x, collected ++ [x] = frameAfterStart 0x04 [7, 9]) ∧ (7 : Byte).toNat ∉ [1, 2, 3, 4, 5, 6]
    ∧ (0 : Byte).toNat ∉ [1, 2, 3, 4, 5, 6]
    ∧ 4 ≤ ((withConsole 1 (owingAnswers 4 (console 4)) busy).console 1).answersDue
    ∧ (Takes 1 (withConsole 1 { console 4 with unanswered := true } busy)
      ∧ Listens 1 (withConsole 1 { console 4 with logon := none } busy))
    ∧ (Listens 1 (during (work .gathering .openLine) busy) ∧ Listens 1 (withLine .zeroised busy) ∧ Listens 1 busy) := by
  refine ⟨⟨(frameAfterStart 0x04 []).dropLast, (frameAfterStart 0x04 []).getLastD 0, by decide +kernel⟩,
    ⟨(frameAfterStart 0x04 [7, 9]).dropLast, (frameAfterStart 0x04 [7, 9]).getLastD 0, by decide +kernel⟩, ?_⟩
  decide +kernel

/-! ### Invariants -/

/-- The part with one request answered and the import's withheld. -/
def answering : State :=
  { importing false busy with
    outstanding := [{ tag := 200, kind := 0x20, queued := false }, { tag := 1, kind := 0x10, queued := true }]
    responses := answeredOnce.responses
    flags := 0x001#12 }

theorem test_met_StepKeepsPortBooked : PortBooked answering ∧ ReadyFollowsQueue answering :=
  ⟨⟨by decide +kernel, by decide +kernel, by decide +kernel, by decide +kernel,
    fun w h => by cases (show CeremonyRun.idle = .work w from h)⟩, by unfold ReadyFollowsQueue; decide +kernel⟩

def erasingSlot : SlotContent → Bool
  | .erasing _ => true
  | _ => false

theorem busy_work_booked : WorkBooked busy where
  steps := by decide +kernel
  ceremony := by decide +kernel
  importUnit := by decide +kernel
  advance := by decide +kernel
  assemble := fun w h => by cases (show CeremonyRun.idle = .work w from h)
  erase := fun w h => by cases (show CeremonyRun.idle = .work w from h)
  erasing := fun i k h => by
    have : ∀ i : SlotIx, erasingSlot (busy.slot i).content = false := by decide +kernel
    have := this i
    rw [h] at this
    cases this
  target := fun w h => by cases (show none = some w from h)
  sessions := fun p _ => Or.inl rfl
  stream := fun h => absurd rfl h
  setup := fun h => by cases (show LineState.live = .setup from h)

theorem test_met_StepKeepsJournalBooked : JournalBooked busy :=
  ⟨⟨by decide +kernel, by decide +kernel, by decide +kernel, by decide +kernel⟩, fun _ => busy_work_booked⟩

theorem test_met_StepKeepsCountsExact : CountsExact busy := by
  intro _; decide +kernel

theorem test_met_StepKeepsNothingHeld : NothingHeld (withLine .zeroised State.reset) ∧ (withLine .zeroised State.reset).line = .zeroised := by
  refine ⟨fun _ => ⟨by decide +kernel, by decide +kernel, rfl, fun w h => ?_⟩, rfl⟩
  cases (show none = some w from h)

theorem test_met_StepKeepsCountersAndRegistry : CountersInRange busy ∧ RegistryPlaced busy := by
  refine ⟨fun i keySet next h => ?_, busy_placed⟩
  have key : ∀ i : SlotIx, (match derivationFields (busy.slot i) with
      | none => true
      | some x => decide (x.2 ≤ 1048576) && (match (busy.slot i).content with
        | .active _ => decide (x.2 < 1048576)
        | .exhausted _ => decide (x.2 = 1048576)
        | _ => true)) = true := by decide +kernel
  have := key i
  rw [h] at this
  refine ⟨?_, fun k hk => ?_, fun k hk => ?_⟩
  · simp at this; exact this.1
  · rw [hk] at this; simp at this; exact this.2
  · rw [hk] at this; simp at this; exact this.2

theorem test_met_StepKeepsLinksAndEngine : LogonsHeld busy ∧ ConsoleQueuesBounded busy ∧ EngineOrdered busy := by
  refine ⟨fun _ l c h => ?_, by unfold ConsoleQueuesBounded; decide +kernel, fun h => ?_, fun r j h => ?_, fun j h => ?_⟩
  · have key : ∀ (l : ConsoleLink) (c : Cust), LoggedOn l c busy → (busy.console l).present = true
        ∧ (busy.custodian c).map CustEntry.lock = some .enrolled ∧ ∀ k, LoggedOn k c busy → k = l := by decide +kernel
    obtain ⟨h1, h2, h3⟩ := key l c h
    exact ⟨h1, by simpa [Option.map_eq_some_iff] using h2, h3⟩
  · cases (show some (job 5 true) = none from h)
  · have key : ∀ r : Fin 10, (busy.engine.waiting.get r).map Job.requester = none
        ∨ (busy.engine.waiting.get r).map Job.requester = some r := by decide +kernel
    rcases key r with hr | hr <;> rw [h] at hr
    · cases hr
    · exact Option.some.inj hr
  · cases (show some (job 5 true) = some j from h); rfl

theorem test_met_invariants_step : ∃ t, step busy = .next t := ⟨_, rfl⟩

theorem test_met_CountersAndDeliveredSetsOnlyGrow : derivationFields (busy.slot 12) = some (4096, 0)
    ∧ seen 12 = some ⟨.partialLoad, 2, 3, 1⟩ ∧ (1 : BitVec 12).getLsbD 0 = true := by decide +kernel

end Sys2Proof.Test
end

section
/-! Slot queries and counters (O20, O21). SLOT_QUERY, COUNTER_READ and COUNTER_ADVANCE are followed from the state in which an
accepted request reaches the Key Store (`State.withRequest`): first what the contents of a slot answer to the checks, then what
the shared operations of a raise make of that state, then each check in the order of its rule. -/

namespace Sys2Proof.Machine

open Sys2Proof.Safety

/-! ### The content of a slot (R1, R19, R21) -/

@[simp] theorem SlotContent.bare_code (c : SlotContent) : c.bare.code = c.code := by cases c <;> rfl

@[simp] theorem SlotContent.bare_holder? (c : SlotContent) : c.bare.holder? = c.holder? := by cases c <;> rfl

/-- The key a SLOT_QUERY reports is the one held, without its material. -/
@[simp] theorem SlotContent.bare_key? (c : SlotContent) : c.bare.key? = c.key?.map HeldKey.bare := by cases c <;> rfl

/-- The content that COUNTER_READ and COUNTER_ADVANCE look at is the key held, with the held state. -/
theorem SlotContent.key?_eq_held? (c : SlotContent) : c.key? = c.held?.map Prod.snd := by cases c <;> rfl

theorem SlotContent.held?_eq_none {c : SlotContent} (h : c.key? = none) : c.held? = none := by
  simpa [key?_eq_held?] using h

theorem SlotContent.exists_held?_eq_some {c : SlotContent} {k : HeldKey} (h : c.key? = some k) :
    ∃ state, c.held? = some (state, k) := by
  simpa [key?_eq_held?] using h

/-- ACTIVE and EXHAUSTED are the held states whose counter can be raised (R20). -/
theorem SlotContent.exists_held?_of_raisable {c : SlotContent} {k : HeldKey} (h : c = .active k ∨ c = .exhausted k) :
    ∃ state, state ≠ .erasing ∧ c.held? = some (state, k) := by
  rcases h with rfl | rfl
  · exact ⟨.active, by decide, rfl⟩
  · exact ⟨.exhausted, by decide, rfl⟩

/-- A class without a counter (R1). -/
theorem KeyUse.eq_transport_or_working {use : KeyUse} (h : use.cls ≠ .baseDerivation) : use = .transport ∨ use = .working := by
  cases use with
  | transport => exact Or.inl rfl
  | baseDerivation keySet next => exact absurd rfl h
  | working => exact Or.inr rfl

/-! ### Request states under the operations of a raise -/

@[simp] theorem withRequest_slotReport (tag kind : Byte) (n : Nat) (i : SlotIx) (s : State) :
    slotReport i (s.withRequest tag kind n) = slotReport i s := by
  simp [slotReport, withRequest_regionOf]

theorem withRequest_setFlagIf (tag kind : Byte) (n : Nat) (b : Bool) (e : Event) (s : State) :
    (s.withRequest tag kind n).setFlagIf b e = (s.setFlagIf b e).withRequest tag kind n := by
  cases b <;> rfl

theorem withRequest_setSlot (tag kind : Byte) (n : Nat) (i : SlotIx) (x : Slot) (s : State) :
    (s.withRequest tag kind n).setSlot i x = (s.setSlot i x).withRequest tag kind n := rfl

theorem withRequest_setJournal (tag kind : Byte) (n : Nat) (j : Journal) (s : State) :
    (s.withRequest tag kind n).setJournal j = (s.setJournal j).withRequest tag kind n := rfl

theorem setFlagIf_setSlot (b : Bool) (e : Event) (i : SlotIx) (x : Slot) (s : State) :
    (s.setFlagIf b e).setSlot i x = (s.setSlot i x).setFlagIf b e := by
  cases b <;> rfl

theorem setFlagIf_setJournal (b : Bool) (e : Event) (j : Journal) (s : State) :
    (s.setFlagIf b e).setJournal j = (s.setJournal j).setFlagIf b e := by
  cases b <;> rfl

/-- The low margin as `counterEvents` tests it, by addition, and as `withinLowMargin` does, by subtraction: they agree above 0,
whatever the margin. -/
theorem counterEvents_eq {next : Nat} (h : 0 < next) (s : State) :
    counterEvents next s =
      State.setFlagIf (withinLowMargin next s) .counterLow (State.setFlagIf (next = 1048576) .counterExhausted s) := by
  unfold counterEvents withinLowMargin
  rw [counterEnd_eq]
  cases s.profile with
  | none => rfl
  | some p =>
    have hlow : 1048576 < next + p.params.lowMargin ↔ 1048576 - p.params.lowMargin < next := by omega
    simp only [hlow]

/-- A record written against a reservation granted in the same event: the reservation is used up, so the grant leaves only what it
signalled (R182, R183, R187). -/
theorem writeRecord_setSlot_reserved {h : ResHolder} {s : State} (hn : h ∉ s.journal.reservations) (body : RecordBody)
    (i : SlotIx) (x : Slot) :
    writeRecord h body ((reserved h s).setSlot i x) =
      State.setFlagIf (highMark s ≤ s.journal.occupancy + 1) .journalHigh
        ((s.setSlot i x).setJournal (s.journal.append body)) := by
  have hused : (s.journal.reservations ++ [h]).erase h = s.journal.reservations := by
    rw [List.erase_append_right _ hn]; simp
  have hjournal : ((reserved h s).setSlot i x).journal = (reserved h s).journal := rfl
  simp only [writeRecord, hjournal, reserved_journal, hused]
  simp only [reserved, setFlagIf_setSlot, setFlagIf_setJournal]
  rfl

/-! ### Requests that reach the Key Store (R196) -/

variable {tag : Byte} {n value : Nat} {s : State}

theorem exec_slotQuery (ha : Accepts tag s) :
    exec (.slotQuery tag n) s = .next (slotQuery tag n (s.withRequest tag 0x21 1)) :=
  congrArg Host.Outcome.next (acceptRequest_of_accepts ha (by omega))

theorem exec_counterRead (ha : Accepts tag s) :
    exec (.counterRead tag n) s = .next (counterRead tag n (s.withRequest tag 0x40 1)) :=
  congrArg Host.Outcome.next (acceptRequest_of_accepts ha (by omega))

theorem exec_counterAdvance (ha : Accepts tag s) :
    exec (.counterAdvance tag n value) s = .next (counterAdvance tag n value (s.withRequest tag 0x41 5)) :=
  congrArg Host.Outcome.next (acceptRequest_of_accepts ha (by omega))

/-! ### SLOT_QUERY (R21) -/

theorem slotQuery_of_noSlot (hn : 64 ≤ n) : slotQuery tag n s = refuse tag 0x21 .range s := by
  simp only [slotQuery, slotIx_of_ge hn]

theorem slotQuery_of_slot (i : SlotIx) : slotQuery tag i.val s = respond tag 0x21 .ok false (.slot (slotReport i s)) s := by
  simp only [slotQuery, slotIx_of_val rfl]

/-! ### COUNTER_READ (R19) -/

theorem counterRead_of_noSlot (hn : 64 ≤ n) : counterRead tag n s = refuse tag 0x40 .range s := by
  simp only [counterRead, slotIx_of_ge hn]

section
variable {i : SlotIx} {state : HeldState} {k : HeldKey} {keySet next : Nat}

theorem counterRead_of_noKey (hk : (s.slot i).content.key? = none) :
    counterRead tag i.val s = refuse tag 0x40 .slotUnavailable s := by
  simp only [counterRead, slotIx_of_val rfl, SlotContent.held?_eq_none hk]

theorem counterRead_of_otherClass (hk : (s.slot i).content.key? = some k) (hc : k.use.cls ≠ .baseDerivation) :
    counterRead tag i.val s = refuse tag 0x40 .wrongClass s := by
  obtain ⟨state, hheld⟩ := SlotContent.exists_held?_eq_some hk
  rcases KeyUse.eq_transport_or_working hc with hu | hu <;> simp only [counterRead, slotIx_of_val rfl, hheld, hu]

theorem counterRead_of_baseDerivation (hheld : (s.slot i).content.held? = some (state, k))
    (hu : k.use = .baseDerivation keySet next) :
    counterRead tag i.val s =
      respond tag 0x40 .ok false (.counter state (s.slot i).generation keySet next (1048576 - next)) s := by
  simp only [counterRead, slotIx_of_val rfl, hheld, hu, counterEnd_eq]

/-! ### COUNTER_ADVANCE: the checks in the order of R20 -/

theorem counterAdvance_of_range (h : 64 ≤ n ∨ 1048576 < value) :
    counterAdvance tag n value s = refuse tag 0x41 .range s := by
  unfold counterAdvance
  split
  · rfl
  · rename_i i hi
    have hn := slotIx?_eq_some.1 hi
    rw [if_pos]
    rw [counterEnd_eq]
    omega

theorem counterAdvance_of_noKey (hv : value ≤ 1048576) (hk : (s.slot i).content.key? = none) :
    counterAdvance tag i.val value s = refuse tag 0x41 .slotUnavailable s := by
  simp only [counterAdvance, slotIx_of_val rfl, counterEnd_eq, Nat.not_lt.2 hv, if_false, SlotContent.held?_eq_none hk]

theorem counterAdvance_of_otherClass (hv : value ≤ 1048576) (hk : (s.slot i).content.key? = some k)
    (hc : k.use.cls ≠ .baseDerivation) : counterAdvance tag i.val value s = refuse tag 0x41 .wrongClass s := by
  obtain ⟨state, hheld⟩ := SlotContent.exists_held?_eq_some hk
  rcases KeyUse.eq_transport_or_working hc with hu | hu <;>
    simp only [counterAdvance, slotIx_of_val rfl, counterEnd_eq, Nat.not_lt.2 hv, if_false, hheld, hu]

/-- A base derivation key passes the checks unless it is being erased. -/
theorem counterAdvance_of_baseDerivation (hv : value ≤ 1048576) (hheld : (s.slot i).content.held? = some (state, k))
    (hu : k.use = .baseDerivation keySet next) :
    counterAdvance tag i.val value s =
      if state = .erasing then refuse tag 0x41 .slotUnavailable s else counterRaise tag i k keySet next value s := by
  simp only [counterAdvance, slotIx_of_val rfl, counterEnd_eq, Nat.not_lt.2 hv, if_false, hheld, hu]

/-! ### COUNTER_ADVANCE: the raise (R20, R182, R183) -/

theorem counterRaise_of_reached (h : value ≤ next) :
    counterRaise tag i k keySet next value s = respond tag 0x41 .ok false (.advance next) s := by
  simp only [counterRaise, h, if_true]

theorem counterRaise_of_fullJournal (h : next < value) (ho : 511 ≤ s.journal.occupancy) :
    counterRaise tag i k keySet next value s = refuse tag 0x41 .journalFull (s.setFlag .journalHigh) := by
  simp only [counterRaise, Nat.not_le.2 h, if_false, requestReservation_refused ho]

/-- The state a raise leaves, before its answer: the new next counter in its slot, its record in the journal, and the flags of the
reservation and of the counter. -/
def raisedTo (value : Nat) (i : SlotIx) (k : HeldKey) (keySet next : Nat) (s : State) : State :=
  State.setFlagIf (withinLowMargin value s) .counterLow
    (State.setFlagIf (value = 1048576) .counterExhausted
      (State.setFlagIf (highMark s ≤ s.journal.occupancy + 1) .journalHigh
        ((s.setSlot i { s.slot i with content := withNextCounter k keySet value }).setJournal
          (s.journal.append (.counterAdvanced i (s.slot i).generation next value)))))

theorem withRequest_raisedTo (tag kind : Byte) (n : Nat) :
    raisedTo value i k keySet next (s.withRequest tag kind n) = (raisedTo value i k keySet next s).withRequest tag kind n := by
  have hlow : withinLowMargin value (s.withRequest tag kind n) = withinLowMargin value s := rfl
  simp only [raisedTo, hlow, withRequest_highMark, State.withRequest_journal, State.withRequest_slot, withRequest_setSlot,
    withRequest_setJournal, withRequest_setFlagIf]

/-- A raise uses the reservation it was granted, and answers the next counter there was. -/
theorem counterRaise_of_granted (h : next < value) (ho : s.journal.occupancy < 511)
    (hn : ResHolder.counterAdvance ∉ s.journal.reservations) :
    counterRaise tag i k keySet next value s =
      respond tag 0x41 .ok true (.advance next) (raisedTo value i k keySet next s) := by
  have hlow : ∀ t, t.profile = s.profile → withinLowMargin value t = withinLowMargin value s := fun t ht => by
    unfold withinLowMargin; rw [ht]
  simp only [counterRaise, Nat.not_le.2 h, if_false, requestReservation_granted ho, writeRecord_setSlot_reserved hn]
  rw [counterEvents_eq (by omega), hlow _ (by simp)]
  rfl

theorem accepts_raisedTo (ha : Accepts tag s) : Accepts tag (raisedTo value i k keySet next s) := by
  simpa [raisedTo, Accepts] using ha

end

end Sys2Proof.Machine

open Sys2Proof Sys2Proof.Machine Sys2Proof.Safety

/-- Settles O20: the report is `slotReport`, which holds no key material, and every content of a slot is either without a key, of
another class, or held with a counter. -/
theorem slotQueryAndCounterRead : Obligations.SlotQueryAndCounterRead := by
  intro tag n s ha
  refine ⟨fun hn => ⟨?_, ?_⟩, ?_⟩
  · rw [exec_slotQuery ha, slotQuery_of_noSlot hn, refuse_accepted ha]
  · rw [exec_counterRead ha, counterRead_of_noSlot hn, refuse_accepted ha]
  rintro i rfl
  rw [exec_slotQuery ha, exec_counterRead ha]
  refine ⟨⟨slotReport i s, ?_, rfl, ?_, ?_, ?_, rfl, rfl, rfl⟩, fun hk => ?_, fun k hk hc => ?_, ?_⟩
  · rw [slotQuery_of_slot, withRequest_slotReport, respond_accepted ha]
  · exact SlotContent.bare_code _
  · exact SlotContent.bare_holder? _
  · exact SlotContent.bare_key? _
  · rw [counterRead_of_noKey (by simpa using hk), refuse_accepted ha]
  · rw [counterRead_of_otherClass (by simpa using hk) hc, refuse_accepted ha]
  · intro state k keySet next hheld hu
    rw [counterRead_of_baseDerivation (by simpa using hheld) hu, respond_accepted ha, State.withRequest_slot]

/-- Settles O21: each check by its own lemma; a raise commutes with the acceptance of its request (`withRequest_raisedTo`), and
its reservation is used up in the event that grants it (`writeRecord_setSlot_reserved`). -/
theorem counterAdvanceRaises : Obligations.CounterAdvanceRaises := by
  intro tag n value s ha
  rw [exec_counterAdvance ha]
  refine ⟨fun h => ?_, ?_⟩
  · rw [counterAdvance_of_range h, refuse_accepted ha]
  rintro i rfl hv
  refine ⟨fun hk => ?_, fun k hk hc => ?_, fun k keySet next hu => ⟨fun he => ?_, fun hc => ?_⟩⟩
  · rw [counterAdvance_of_noKey hv (by simpa using hk), refuse_accepted ha]
  · rw [counterAdvance_of_otherClass hv (by simpa using hk) hc, refuse_accepted ha]
  · have hheld : ((s.withRequest tag 0x41 5).slot i).content.held? = some (.erasing, k) := by
      rw [State.withRequest_slot, he]; rfl
    rw [counterAdvance_of_baseDerivation hv hheld hu, if_pos rfl, refuse_accepted ha]
  · obtain ⟨state, hstate, hheld⟩ := SlotContent.exists_held?_of_raisable hc
    rw [counterAdvance_of_baseDerivation (s := s.withRequest tag 0x41 5) hv hheld hu, if_neg hstate]
    refine ⟨fun h => ?_, fun h ho => ?_, fun h ho hn => ?_⟩
    · rw [counterRaise_of_reached h, respond_accepted ha]
    · rw [counterRaise_of_fullJournal (s := s.withRequest tag 0x41 5) h ho, refuse_withRequest ha.2.2 rfl rfl, ← only_journalHigh]
      rfl
    · rw [counterRaise_of_granted (s := s.withRequest tag 0x41 5) h ho hn, withRequest_raisedTo, respond_accepted (accepts_raisedTo ha)]
      rfl
end

section
/-! ENROL_FIRST (O33). What each check of R34 asks is said once as a proposition; each row of R34's table is then one lemma about
`checkEnrolFirst`, with the rows above it passed as hypotheses, and the request answers whatever the checks answer. -/

namespace Sys2Proof.Machine

open Sys2Proof.Safety

/-! ### Numbers, codes and credentials (R24, R25, R209) -/

theorem cust?_eq_none {n : Nat} (h : n = 0 ∨ 8 < n) : cust? n = none := dif_neg (by omega)

@[simp] theorem cust?_val_add_one (c : Cust) : cust? (c.val + 1) = some c := dif_pos ⟨c.isLt, c.val.succ_pos⟩

theorem groupOf?_eq_none {n : Nat} (hA : n ≠ 1) (hB : n ≠ 2) : groupOf? n = none := by
  unfold groupOf?
  split
  · exact absurd rfl hA
  · exact absurd rfl hB
  · rfl

@[simp] theorem groupOf?_code (g : Group) : groupOf? g.code = some g := by cases g <;> rfl

theorem credentialValid_iff {credential : List Byte} :
    credentialValid credential = true ↔ 8 ≤ credential.length ∧ credential.length ≤ 32 := by simp [credentialValid]

/-! ### What the checks ask of the table and the ceremony (R24, R34) -/

theorem mem_allCustodians : ∀ c : Cust, c ∈ allCustodians := by decide

section
variable {l : ConsoleLink} {number group : Nat} {credential : List Byte} {c : Cust} {g : Group} {s : State}

theorem groupHasMember_iff : groupHasMember g s = true ↔ ∃ c e, s.custodian c = some e ∧ e.group = g := by
  unfold groupHasMember
  rw [List.any_eq_true]
  refine exists_congr fun c => ?_
  cases hc : s.custodian c with
  | none => simp
  | some e => simp [mem_allCustodians]

theorem groupHasMember_eq_false (h : ∀ c e, s.custodian c = some e → e.group ≠ g) : groupHasMember g s = false :=
  Bool.eq_false_iff.2 fun hm =>
    let ⟨c, e, he, hg⟩ := groupHasMember_iff.1 hm
    h c e he hg

theorem enrolNames_iff : enrolNames c s = true ↔ ∃ w g d, s.ceremony.run = .work w ∧ w.params = .enrol c g d := by
  unfold enrolNames
  cases hrun : s.ceremony.run with
  | work w => cases hp : w.params <;> simp [hp]
  | _ => simp

theorem enrolNames_eq_false (h : ∀ w g d, s.ceremony.run = .work w → w.params ≠ .enrol c g d) : enrolNames c s = false :=
  Bool.eq_false_iff.2 fun hn =>
    let ⟨w, g, d, hrun, hp⟩ := enrolNames_iff.1 hn
    h w g d hrun hp

/-! ### The checks of ENROL_FIRST in the order of R34 -/

theorem checkEnrolFirst_of_unknownGroup (h : groupOf? group = none) :
    checkEnrolFirst number group credential s = .refused .wrongState := by simp [checkEnrolFirst, h]

/-- The rows "at least one group has no member" and "the named group has no member" refuse alike. -/
theorem checkEnrolFirst_of_member (h : groupHasMember g s = true) :
    checkEnrolFirst number g.code credential s = .refused .wrongState := by simp [checkEnrolFirst, h]

/-- A group with no member passes both rows about members. -/
theorem not_bothGroupsHaveMembers (h : groupHasMember g s = false) :
    (groupHasMember .a s && groupHasMember .b s) = false := by cases g <;> simp [h]

theorem checkEnrolFirst_of_unknownNumber (hg : groupHasMember g s = false) (h : cust? number = none) :
    checkEnrolFirst number g.code credential s = .refused .notFound := by
  simp [checkEnrolFirst, not_bothGroupsHaveMembers hg, hg, h]

theorem checkEnrolFirst_of_numberTaken (hg : groupHasMember g s = false) (h : s.custodian c ≠ none) :
    checkEnrolFirst (c.val + 1) g.code credential s = .refused .wrongState := by
  simp [checkEnrolFirst, not_bothGroupsHaveMembers hg, hg, Option.isSome_iff_ne_none.2 h]

theorem checkEnrolFirst_of_numberFree (hg : groupHasMember g s = false) (hc : s.custodian c = none) :
    checkEnrolFirst (c.val + 1) g.code credential s =
      if enrolNames c s then .refused .busy
      else if credentialValid credential then .taken c g else .refused .denied := by
  simp [checkEnrolFirst, not_bothGroupsHaveMembers hg, hg, hc]

/-! ### The request (R26, R34) -/

/-- Taking the message changes nothing that the checks read. -/
theorem checkEnrolFirst_heard :
    checkEnrolFirst number group credential (heard l s) = checkEnrolFirst number group credential s := rfl

theorem exec_enrolFirst (hs : Listens l s) :
    exec (.enrolFirst l number group credential) s = .next (enrolFirst l number group credential (heard l s)) :=
  congrArg Host.Outcome.next (consoleMessage_of_listens hs)

theorem exec_enrolFirst_of_refused {st : Status} (hs : Listens l s)
    (h : checkEnrolFirst number group credential s = .refused st) :
    exec (.enrolFirst l number group credential) s = .next (told l 0x03 st .nothing (heard l s)) := by
  rw [exec_enrolFirst hs, enrolFirst, checkEnrolFirst_heard, h]
  exact congrArg Host.Outcome.next (answer_of_present (heard_present hs.1))

theorem exec_enrolFirst_of_taken (hs : Listens l s) (h : checkEnrolFirst number group credential s = .taken c g) :
    exec (.enrolFirst l number group credential) s =
      .next (told l 0x03 .ok .nothing ((heard l s).setCustodian c (some
        { group := g, digest := Config.digest credential, lock := .enrolled, fails := 0 }))) := by
  rw [exec_enrolFirst hs, enrolFirst, checkEnrolFirst_heard, h]
  exact congrArg Host.Outcome.next (answer_of_present (heard_present hs.1))

end

end Sys2Proof.Machine

open Sys2Proof Sys2Proof.Machine Sys2Proof.Safety

/-- Settles O33: each refusal is the row of R34's table that its hypotheses reach, and a request that passes every row makes the
entry present. -/
theorem enrolFirstFillsAGroup : Obligations.EnrolFirstFillsAGroup := by
  intro l number group credential s hs
  refine ⟨fun hA hB => ?unknownGroup, ?_⟩
  case unknownGroup => exact exec_enrolFirst_of_refused hs (checkEnrolFirst_of_unknownGroup (groupOf?_eq_none hA hB))
  rintro g rfl
  refine ⟨fun hm => ?member, fun hm => ?_⟩
  case member => exact exec_enrolFirst_of_refused hs (checkEnrolFirst_of_member (groupHasMember_iff.2 hm))
  have hempty := groupHasMember_eq_false hm
  refine ⟨fun hn => ?unknownNumber, ?_⟩
  case unknownNumber => exact exec_enrolFirst_of_refused hs (checkEnrolFirst_of_unknownNumber hempty (cust?_eq_none hn))
  rintro c rfl
  refine ⟨fun hc => ?numberTaken, fun hc => ?_⟩
  case numberTaken => exact exec_enrolFirst_of_refused hs (checkEnrolFirst_of_numberTaken hempty hc)
  have hcheck := checkEnrolFirst_of_numberFree (credential := credential) hempty hc
  refine ⟨fun hw => ?namedByEnrol, fun hw => ⟨fun hlen => ?badCredential, fun hmin hmax => ?taken⟩⟩
  case namedByEnrol =>
    exact exec_enrolFirst_of_refused hs (by rw [hcheck, if_pos (enrolNames_iff.2 hw)])
  all_goals rw [enrolNames_eq_false hw, if_neg Bool.false_ne_true] at hcheck
  case badCredential =>
    have hbad : ¬credentialValid credential = true := fun h => by rw [credentialValid_iff] at h; omega
    exact exec_enrolFirst_of_refused hs (by rw [hcheck, if_neg hbad])
  case taken =>
    exact exec_enrolFirst_of_taken hs (by rw [hcheck, if_pos (credentialValid_iff.2 ⟨hmin, hmax⟩)])
end

section
/-! PROFILE_BEGIN and PROFILE_ABANDON (O10). Both requests set the stream and nothing else, and the acceptance of a request does
not touch the stream, so its answer is the one given with the new stream in place. -/

namespace Sys2Proof.Machine

open Sys2Proof.Safety

variable {tag : Byte} {s : State}

/-! ### Requests that reach the Profile Loader (R196) -/

theorem exec_profileBegin (ha : Accepts tag s) :
    exec (.profileBegin tag) s = .next (profileBegin tag (s.withRequest tag 0x01 0)) :=
  congrArg Host.Outcome.next (acceptRequest_of_accepts ha (by omega))

theorem exec_profileAbandon (ha : Accepts tag s) :
    exec (.profileAbandon tag) s = .next (profileAbandon tag (s.withRequest tag 0x04 0)) :=
  congrArg Host.Outcome.next (acceptRequest_of_accepts ha (by omega))

/-! ### The stream under an accepted request (R77, R80) -/

/-- An answer to the request just accepted, with the stream set in the same event. -/
theorem respond_accepted_setStream {kind : Byte} {n : Nat} {st : Status} {ch : Bool} {body : ResponseBody} (ha : Accepts tag s)
    (stream : Option Stream) :
    respond tag kind st ch body { s.withRequest tag kind n with stream := stream } =
      answered tag kind n st ch body { s with stream := stream } :=
  respond_withRequest ha.2.2 rfl rfl

theorem profileBegin_of_setup (h : s.line = .setup) :
    profileBegin tag s = respond tag 0x01 .ok false .nothing { s with stream := some { spoilt := false, staged := [] } } :=
  if_pos h

theorem profileBegin_of_not_setup (h : s.line ≠ .setup) : profileBegin tag s = refuse tag 0x01 .wrongState s := if_neg h

end Sys2Proof.Machine

open Sys2Proof Sys2Proof.Machine Sys2Proof.Safety

/-- Settles O10: PROFILE_BEGIN splits on the line state, which the acceptance of the request leaves as it was; PROFILE_ABANDON looks
at none. -/
theorem profileBeginAndAbandon : Obligations.ProfileBeginAndAbandon := by
  intro tag s ha
  refine ⟨fun hsetup => ?opened, fun hother => ?wrongState, ?abandoned⟩
  case opened =>
    have hline : (s.withRequest tag 0x01 0).line = .setup := hsetup
    rw [exec_profileBegin ha, profileBegin_of_setup hline, respond_accepted_setStream ha]
  case wrongState =>
    have hline : (s.withRequest tag 0x01 0).line ≠ .setup := hother
    rw [exec_profileBegin ha, profileBegin_of_not_setup hline, refuse_accepted ha]
  case abandoned =>
    rw [exec_profileAbandon ha, profileAbandon, respond_accepted_setStream ha]
end

section
/-! LINE_PAUSE and LINE_RESUME (O14). Each moves the line from one state to another in the event that accepts the request, and the
acceptance of a request touches neither the line nor the flags, so its answer is the one given with the line already moved. -/

namespace Sys2Proof.Machine

open Sys2Proof.Safety

variable {tag : Byte} {s : State}

/-! ### Requests that reach the Line Supervisor (R196) -/

theorem exec_linePause (ha : Accepts tag s) :
    exec (.linePause tag) s = .next (linePause tag (s.withRequest tag 0x10 0)) :=
  congrArg Host.Outcome.next (acceptRequest_of_accepts ha (by omega))

theorem exec_lineResume (ha : Accepts tag s) :
    exec (.lineResume tag) s = .next (lineResume tag (s.withRequest tag 0x11 0)) :=
  congrArg Host.Outcome.next (acceptRequest_of_accepts ha (by omega))

/-! ### A change of line state (R95) -/

theorem setLine_of_ne {l : LineState} (h : s.line ≠ l) :
    setLine l s = { s with line := l, flags := s.flags ||| 0x200#12 } := by
  rw [setLine, if_neg h, State.setFlag, only_lineState]

/-- An answer to the request just accepted, with the line moved to another state in the same event. -/
theorem respond_accepted_setLine {kind : Byte} {n : Nat} {st : Status} {ch : Bool} {body : ResponseBody} {l : LineState}
    (ha : Accepts tag s) (h : s.line ≠ l) :
    respond tag kind st ch body (setLine l (s.withRequest tag kind n)) =
      answered tag kind n st ch body { s with line := l, flags := s.flags ||| 0x200#12 } := by
  have hline : (s.withRequest tag kind n).line ≠ l := h
  rw [setLine_of_ne hline]
  exact respond_withRequest ha.2.2 rfl rfl

/-! ### LINE_PAUSE and LINE_RESUME (R98, R99) -/

theorem linePause_of_live (h : s.line = .live) :
    linePause tag s = respond tag 0x10 .ok false .nothing (setLine .paused s) := if_pos h

theorem linePause_of_not_live (h : s.line ≠ .live) : linePause tag s = refuse tag 0x10 .wrongState s := if_neg h

theorem lineResume_of_paused (h : s.line = .paused) :
    lineResume tag s = respond tag 0x11 .ok false .nothing (setLine .live s) := if_pos h

theorem lineResume_of_not_paused (h : s.line ≠ .paused) : lineResume tag s = refuse tag 0x11 .wrongState s := if_neg h

end Sys2Proof.Machine

open Sys2Proof Sys2Proof.Machine Sys2Proof.Safety

/-- Settles O14: each request splits on the line state, which its acceptance leaves as it was. LIVE and PAUSED differ, so the move
is a change of line state and sets LINE_STATE. -/
theorem linePauseAndResume : Obligations.LinePauseAndResume := by
  intro tag s ha
  refine ⟨fun hlive => ?paused, fun hother => ?pauseRefused, fun hpaused => ?resumed, fun hother => ?resumeRefused⟩
  case paused =>
    have hline : (s.withRequest tag 0x10 0).line = .live := hlive
    have hmoves : s.line ≠ .paused := by simp [hlive]
    rw [exec_linePause ha, linePause_of_live hline, respond_accepted_setLine ha hmoves]
  case pauseRefused =>
    have hline : (s.withRequest tag 0x10 0).line ≠ .live := hother
    rw [exec_linePause ha, linePause_of_not_live hline, refuse_accepted ha]
  case resumed =>
    have hline : (s.withRequest tag 0x11 0).line = .paused := hpaused
    have hmoves : s.line ≠ .live := by simp [hpaused]
    rw [exec_lineResume ha, lineResume_of_paused hline, respond_accepted_setLine ha hmoves]
  case resumeRefused =>
    have hline : (s.withRequest tag 0x11 0).line ≠ .paused := hother
    rw [exec_lineResume ha, lineResume_of_not_paused hline, refuse_accepted ha]
end

section
/-! REG_QUERY and REG_SCAN (O25). A query is lookup in a registry that is in order. A scan takes a first piece of the occupied places
from a position on: that list rises, so what the piece leaves out comes after all it holds. -/

namespace Sys2Proof.Machine

open Sys2Proof.Safety

/-! ### The first elements of an ordered list -/

/-- In an ordered list, what is not among the first `k` elements comes after `k` others. -/
theorem mem_take_or_after {α : Type} {R : α → α → Prop} {l : List α} {x : α} (hl : l.Pairwise R) (hx : x ∈ l) (k : Nat) :
    x ∈ l.take k ∨ ((l.take k).length = k ∧ ∀ y ∈ l.take k, R y x) := by
  rw [← List.take_append_drop k l] at hl hx
  obtain ⟨-, -, hcross⟩ := List.pairwise_append.1 hl
  rcases List.mem_append.1 hx with htake | hdrop
  · exact Or.inl htake
  · have hlen : 0 < (l.drop k).length := List.length_pos_of_mem hdrop
    rw [List.length_drop] at hlen
    exact Or.inr ⟨List.length_take_of_le (by omega), fun y hy => hcross y hy x hdrop⟩

/-! ### The occupied places (R127) -/

theorem allBelow_eq_finRange (n : Nat) : allBelow n = List.finRange n := by
  apply List.map_injective_iff.2 Fin.val_injective
  rw [List.map_coe_finRange_eq_range, allBelow, List.map_filterMap]
  calc (List.range n).filterMap (fun k => (if h : k < n then some (⟨k, h⟩ : Fin n) else none).map Fin.val)
      = (List.range n).filterMap some :=
        List.filterMap_congr fun k hk => by simp [List.mem_range.1 hk]
    _ = List.range n := List.filterMap_some

section
variable {start : Nat} {r : Registry}

/-- What a place contributes to a scan: its entry with its position. -/
theorem scanned_eq_some {i : RegIx} {x : Nat × Entry} :
    (if start ≤ i.val then (r.get i).map fun e => (i.val, e) else none) = some x ↔
      start ≤ i.val ∧ i.val = x.1 ∧ r.get i = some x.2 := by
  obtain ⟨k, e⟩ := x
  by_cases hi : start ≤ i.val
  · simp [hi, and_comm]
  · simp [hi]

theorem mem_occupiedFrom {x : Nat × Entry} :
    x ∈ occupiedFrom start r ↔ start ≤ x.1 ∧ ∃ i : RegIx, i.val = x.1 ∧ r.get i = some x.2 := by
  simp only [occupiedFrom, allBelow_eq_finRange, List.mem_filterMap, List.mem_finRange, true_and, scanned_eq_some]
  constructor
  · rintro ⟨i, hle, hi, he⟩
    exact ⟨hi ▸ hle, i, hi, he⟩
  · rintro ⟨hle, i, hi, he⟩
    exact ⟨i, hi ▸ hle, hi, he⟩

theorem occupiedFrom_increasing : (occupiedFrom start r).Pairwise fun x y => x.1 < y.1 := by
  rw [occupiedFrom, allBelow_eq_finRange, List.pairwise_filterMap]
  refine (List.pairwise_lt_finRange 256).imp fun {i j} hij x hx y hy => ?_
  obtain ⟨-, hi, -⟩ := scanned_eq_some.1 hx
  obtain ⟨-, hj, -⟩ := scanned_eq_some.1 hy
  rw [← hi, ← hj]
  exact hij

end

/-! ### Requests that reach the Terminal Registry (R196) -/

variable {tag : Byte} {serial : Serial} {start count : Nat} {s : State}

theorem exec_regQuery (ha : Accepts tag s) (hlen : serial.length < 256) :
    exec (.regQuery tag serial) s = .next (regQuery tag serial (s.withRequest tag 0x31 (serial.length + 1))) :=
  congrArg Host.Outcome.next (acceptRequest_of_accepts ha (by omega))

theorem exec_regScan (ha : Accepts tag s) :
    exec (.regScan tag start count) s = .next (regScan tag start count (s.withRequest tag 0x34 2)) :=
  congrArg Host.Outcome.next (acceptRequest_of_accepts ha (by omega))

/-! ### REG_QUERY (R122, R124) -/

theorem regQuery_of_range (h : serial.length = 0 ∨ 16 < serial.length) :
    regQuery tag serial s = refuse tag 0x31 .range s := by
  have hv : serialValid serial = false := by rw [Bool.eq_false_iff, Ne, serialValid_iff]; omega
  simp only [regQuery, hv, Bool.not_false, if_true]

theorem regQuery_of_notFound (hv : serialValid serial = true) (h : lookupSerial s.registry serial = none) :
    regQuery tag serial s = refuse tag 0x31 .notFound s := by
  simp only [regQuery, hv, Bool.not_true, Bool.false_eq_true, if_false, h]

theorem regQuery_of_found {i : RegIx} {e : Entry} (hv : serialValid serial = true)
    (h : lookupSerial s.registry serial = some i) (he : s.registry.get i = some e) :
    regQuery tag serial s = respond tag 0x31 .ok false (.regEntry i.val e) s := by
  simp only [regQuery, hv, Bool.not_true, Bool.false_eq_true, if_false, h, he]

/-! ### REG_SCAN (R127) -/

theorem regScan_of_range (h : 255 < start ∨ count = 0 ∨ 8 < count) :
    regScan tag start count s = refuse tag 0x34 .range s := if_pos (by omega)

theorem regScan_of_inRange (hstart : start ≤ 255) (hmin : 1 ≤ count) (hmax : count ≤ 8) :
    regScan tag start count s =
      respond tag 0x34 .ok false (.regScan ((occupiedFrom start s.registry).take count)
        (nextPosition count ((occupiedFrom start s.registry).take count))) s := if_neg (by omega)

end Sys2Proof.Machine

open Sys2Proof Sys2Proof.Machine Sys2Proof.Safety

/-- Settles O25: a query answers what lookup finds, which in a registry in order is the place of the serial, and a scan answers the
first `count` of the occupied places, whose order says which places it leaves out. -/
theorem regQueryAndScanRead : Obligations.RegQueryAndScanRead := by
  refine ⟨fun tag serial s ha hlen hp => ?query, fun tag start count s ha => ?scan⟩
  case query =>
    rw [exec_regQuery ha hlen]
    refine ⟨fun h => ?range, fun hmin hmax => ?_⟩
    case range => rw [regQuery_of_range h, refuse_accepted ha]
    have hv : serialValid serial = true := (serialValid_iff serial).2 ⟨hmin, hmax⟩
    refine ⟨?found, fun habsent => ?notFound⟩
    case found =>
      rintro i e he rfl
      rw [regQuery_of_found (s := s.withRequest tag 0x31 _) hv (lookupSerial_of_get hp he) he, respond_accepted ha]
    case notFound =>
      rw [regQuery_of_notFound (s := s.withRequest tag 0x31 _) hv (lookupSerial_of_absent habsent), refuse_accepted ha]
  case scan =>
    rw [exec_regScan ha]
    refine ⟨fun h => ?range, fun hstart hmin hmax => ?_⟩
    case range => rw [regScan_of_range h, refuse_accepted ha]
    rw [regScan_of_inRange hstart hmin hmax, State.withRequest_registry, respond_accepted ha]
    refine ⟨_, _, rfl, List.length_take_le .., ?increasing, fun x hx => ?occupied, fun i e hi he => ?complete, rfl⟩
    case increasing => exact List.pairwise_map.2 (occupiedFrom_increasing.sublist (List.take_sublist ..))
    case occupied => exact mem_occupiedFrom.1 (List.mem_of_mem_take hx)
    case complete => exact mem_take_or_after occupiedFrom_increasing (mem_occupiedFrom.2 ⟨hi, i, rfl, he⟩) count
end

section
/-! JOURNAL_READ and JOURNAL_RELEASE (O29). A release goes by place: the place of the first record with the number cuts the list into
what leaves and what is kept, whatever the order of the numbers. -/

namespace Sys2Proof.Machine

open Sys2Proof.Safety

variable {tag : Byte} {count number : Nat} {s : State}

/-! ### Requests that reach the journal (R196) -/

theorem exec_journalRead (ha : Accepts tag s) :
    exec (.journalRead tag count) s = .next (journalRead tag count (s.withRequest tag 0x50 1)) :=
  congrArg Host.Outcome.next (acceptRequest_of_accepts ha (by omega))

theorem exec_journalRelease (ha : Accepts tag s) :
    exec (.journalRelease tag number) s = .next (journalRelease tag number (s.withRequest tag 0x51 4)) :=
  congrArg Host.Outcome.next (acceptRequest_of_accepts ha (by omega))

/-! ### JOURNAL_READ (R188) -/

theorem journalRead_of_range (h : count = 0 ∨ 8 < count) : journalRead tag count s = refuse tag 0x50 .range s :=
  if_pos (by omega)

theorem journalRead_of_inRange (hmin : 1 ≤ count) (hmax : count ≤ 8) :
    journalRead tag count s =
      respond tag 0x50 .ok false (.journalRead (s.journal.records.take count) s.journal.records.length
        s.journal.reservations.length s.journal.nextSequence) s := if_neg (by omega)

/-! ### JOURNAL_RELEASE (R189) -/

theorem journalRelease_zero : journalRelease tag 0 s = refuse tag 0x51 .range s := if_pos rfl

theorem journalRelease_of_notFound (hn : number ≠ 0) (h : ∀ r ∈ s.journal.records, r.sequence ≠ number) :
    journalRelease tag number s = refuse tag 0x51 .notFound s := by
  simp only [journalRelease, if_neg hn, recordPlace_of_absent h]

theorem journalRelease_of_found {old kept : List Record} {r : Record} (hn : number ≠ 0)
    (hrecords : s.journal.records = old ++ r :: kept) (hr : r.sequence = number) (hold : ∀ x ∈ old, x.sequence ≠ number) :
    journalRelease tag number s =
      respond tag 0x51 .ok false (.journalRelease (old.length + 1) kept.length)
        (s.setJournal { s.journal with records := kept }) := by
  have hplace : recordPlace number s.journal.records = some old.length := by
    rw [hrecords, recordPlace_of_first hold hr]
  have hkept : s.journal.records.drop (old.length + 1) = kept := by
    rw [hrecords, List.drop_length_add_append, List.drop_one, List.tail_cons]
  simp only [journalRelease, if_neg hn, hplace, hkept]

/-- What a request needs to be accepted does not lie in the journal (R196). -/
theorem accepts_setJournal {j : Journal} (ha : Accepts tag s) : Accepts tag (s.setJournal j) := ha

end Sys2Proof.Machine

open Sys2Proof Sys2Proof.Machine Sys2Proof.Safety

/-- Settles O29: a read splits on its count. A release splits on the place of the record it names; the shortened list goes into the
journal of the accepted request, which commutes with the acceptance (`withRequest_setJournal`). -/
theorem journalReadAndRelease : Obligations.JournalReadAndRelease := by
  refine fun tag s ha => ⟨fun count h => ?readRange, fun count hmin hmax => ?read, ?releaseZero, fun number hn habsent => ?notFound,
    fun number old r kept hn hrecords hr hold => ?released⟩
  case readRange => rw [exec_journalRead ha, journalRead_of_range h, refuse_accepted ha]
  case read =>
    rw [exec_journalRead ha, journalRead_of_inRange hmin hmax, State.withRequest_journal, respond_accepted ha]
  case releaseZero => rw [exec_journalRelease ha, journalRelease_zero, refuse_accepted ha]
  case notFound =>
    rw [exec_journalRelease ha, journalRelease_of_notFound (s := s.withRequest tag 0x51 4) hn habsent, refuse_accepted ha]
  case released =>
    rw [exec_journalRelease ha, journalRelease_of_found (s := s.withRequest tag 0x51 4) hn hrecords hr hold,
      State.withRequest_journal, withRequest_setJournal, respond_accepted (accepts_setJournal ha)]
end

section
/-! The attention line, STATUS and SET_MASK (O9). The line is read off the set of the flags both set and enabled, bit by bit. What a
STATUS clears and what a SET_MASK writes lie outside what the acceptance of the request touches, so each answer is the one given with
those fields already changed. -/

namespace Sys2Proof.Machine

open Sys2Proof.Safety

variable {tag : Byte} {s : State}

/-! ### The attention line (R204) -/

/-- A set of bits is not empty exactly when it holds a bit, which then lies within its width. -/
theorem bitVec_ne_zero_iff {n : Nat} {b : BitVec n} : b ≠ 0#n ↔ ∃ k, k < n ∧ b.getLsbD k = true := by
  simp only [Ne, BitVec.zero_iff_eq_false, not_forall, Bool.not_eq_false]
  exact exists_congr fun k => ⟨fun hbit => ⟨BitVec.lt_of_getLsbD hbit, hbit⟩, And.right⟩

theorem reported_getLsbD {k : Nat} : s.reported.getLsbD k = true ↔ s.flags.getLsbD k = true ∧ s.mask.getLsbD k = true := by
  rw [State.reported, BitVec.getLsbD_and, Bool.and_eq_true]

theorem attentionLine_iff_reported (hr : s.running = true) : s.attentionLine = true ↔ s.reported ≠ 0#12 := by
  rw [State.attentionLine, hr, Bool.true_and, bne_iff_ne, BitVec.ofNat_eq_ofNat]

theorem attentionLine_iff (hr : s.running = true) :
    s.attentionLine = true ↔ ∃ k, k < 12 ∧ s.flags.getLsbD k = true ∧ s.mask.getLsbD k = true := by
  simp only [attentionLine_iff_reported hr, bitVec_ne_zero_iff, reported_getLsbD]

/-! ### Requests that reach the Attention Unit (R196) -/

theorem exec_status {clearSet : BitVec 12} {clearCounts : Bool} (ha : Accepts tag s) :
    exec (.status tag clearSet clearCounts) s =
      .next (statusRequest tag clearSet clearCounts (s.withRequest tag 0x60 3)) :=
  congrArg Host.Outcome.next (acceptRequest_of_accepts ha (by omega))

theorem exec_setMask {mask : BitVec 12} (ha : Accepts tag s) :
    exec (.setMask tag mask) s = .next (setMask tag mask (s.withRequest tag 0x61 2)) :=
  congrArg Host.Outcome.next (acceptRequest_of_accepts ha (by omega))

/-! ### STATUS (R205) -/

/-- Every flag but RESPONSE_READY may be cleared. -/
theorem compl_responseReady_only : ~~~Event.responseReady.only = 0xFFE#12 := by
  rw [only_responseReady]; rfl

theorem clearReported_eq (clearSet : BitVec 12) (s : State) :
    clearReported clearSet s =
      { s with flags := s.flags &&& ~~~(s.flags &&& s.mask &&& clearSet &&& 0xFFE#12) } := by
  rw [clearReported, compl_responseReady_only, State.reported]

theorem clearCountsIf_eq (c : Bool) (s : State) :
    clearCountsIf c s =
      { s with frameErrors := if c then 0 else s.frameErrors, overruns := if c then 0 else s.overruns } := by
  cases c <;> rfl

/-- STATUS reports the part as it was before anything is cleared. -/
theorem statusRequest_eq (clearSet : BitVec 12) (clearCounts : Bool) :
    statusRequest tag clearSet clearCounts s =
      respond tag 0x60 .ok false (.status (statusReport s))
        { s with
          flags := s.flags &&& ~~~(s.flags &&& s.mask &&& clearSet &&& 0xFFE#12)
          frameErrors := if clearCounts then 0 else s.frameErrors
          overruns := if clearCounts then 0 else s.overruns } := by
  rw [statusRequest, clearCountsIf_eq, clearReported_eq]

/-- A report lists nothing that the acceptance of a request changes. -/
theorem statusReport_withRequest {kind : Byte} {n : Nat} : statusReport (s.withRequest tag kind n) = statusReport s := rfl

end Sys2Proof.Machine

open Sys2Proof Sys2Proof.Machine Sys2Proof.Safety

/-- Settles O9: the attention line is read off the reported flags; STATUS and SET_MASK answer what stood before them, and neither the
flags, the mask nor the counts are touched by the acceptance of the request. -/
theorem statusAndMask : Obligations.StatusAndMask := by
  refine ⟨fun s hr => attentionLine_iff hr, fun tag s ha => ⟨fun clearSet clearCounts => ?status, fun mask => ?setMask⟩⟩
  case status =>
    rw [exec_status ha, statusRequest_eq, statusReport_withRequest]
    exact congrArg Host.Outcome.next (respond_withRequest ha.2.2 rfl rfl)
  case setMask =>
    rw [exec_setMask ha, setMask, State.withRequest_mask]
    exact congrArg Host.Outcome.next (respond_withRequest ha.2.2 rfl rfl)
end

section
/-! Frames read as commands: for each layout of R210 and R211 the values its bytes carry, said once as an equivalence, and from
these the command that a frame that reads is. Used by O6, O7, O52 and by what one event of the part can do. -/

namespace Sys2Proof.Machine

open Sys2Proof.Safety

/-! ### Whole bodies -/

theorem readWhole_eq_some_iff {α : Type} {item : List Byte → Option (α × List Byte)} {b : List Byte} {a : α} :
    readWhole item b = some a ↔ item b = some (a, []) := by
  unfold readWhole
  cases item b with
  | none => simp
  | some x => obtain ⟨x, _ | ⟨y, r⟩⟩ := x <;> simp

theorem readEmpty_eq_some {α : Type} {a f : α} {b : List Byte} : readEmpty a b = some f ↔ b = [] ∧ f = a := by
  cases b <;> simp [readEmpty, eq_comm]

theorem readOne_eq_some {g : Nat → State → State} {b : List Byte} {f : State → State} :
    readOne g b = some f ↔ ∃ n < 256, b = b1 n ∧ f = g n := by
  simp only [readOne, readWhole_eq_some_iff, Option.map_eq_some_iff, Prod.exists, readByte_reads _ _ _, Prod.mk.injEq]
  constructor
  · rintro ⟨n, _, ⟨hn, rfl⟩, rfl, rfl⟩
    exact ⟨n, hn, List.append_nil _, rfl⟩
  · rintro ⟨n, hn, rfl, rfl⟩
    exact ⟨n, [], ⟨hn, (List.append_nil _).symm⟩, rfl, rfl⟩

section
variable {tag : Byte} {l : ConsoleLink} {p : Port} {b : List Byte} {f : State → State}

/-! ### Control requests (R210) -/

theorem readCommit_eq_some :
    readCommit tag b = some f ↔ ∃ n < 256 ^ 4, b = beBytes 4 n ∧ f = requestProfileCommit tag (BitVec.ofNat 32 n) := by
  simp only [readCommit, readWhole_eq_some_iff, Option.map_eq_some_iff, Prod.exists, readNat_reads 4 _ _ _, Prod.mk.injEq]
  constructor
  · rintro ⟨n, _, ⟨hn, rfl⟩, rfl, rfl⟩
    exact ⟨n, hn, List.append_nil _, rfl⟩
  · rintro ⟨n, hn, rfl, rfl⟩
    exact ⟨n, [], ⟨hn, (List.append_nil _).symm⟩, rfl, rfl⟩

theorem readRelease_eq_some :
    readRelease tag b = some f ↔ ∃ n < 256 ^ 4, b = beBytes 4 n ∧ f = requestJournalRelease tag n := by
  simp only [readRelease, readWhole_eq_some_iff, Option.map_eq_some_iff, Prod.exists, readNat_reads 4 _ _ _, Prod.mk.injEq]
  constructor
  · rintro ⟨n, _, ⟨hn, rfl⟩, rfl, rfl⟩
    exact ⟨n, hn, List.append_nil _, rfl⟩
  · rintro ⟨n, hn, rfl, rfl⟩
    exact ⟨n, [], ⟨hn, (List.append_nil _).symm⟩, rfl, rfl⟩

theorem readRegAdd_eq_some :
    readRegAdd tag b = some f ↔ ∃ (serial : Serial) (recipe : Option Nat), serial.length < 256 ∧ (∀ n, recipe = some n → n < 256)
      ∧ b = bString serial ++ bOpt b1 recipe ∧ f = requestRegAdd tag serial recipe := by
  simp only [readRegAdd, readWhole_eq_some_iff, Option.bind_eq_bind, Option.bind_eq_some_iff, Prod.exists,
    readString_reads _ _ _, readOptNat_reads 1 _ _ _, Option.some.injEq, Prod.mk.injEq]
  constructor
  · rintro ⟨serial, _, ⟨hs, rfl⟩, recipe, _, ⟨hr, rfl⟩, rfl, rfl⟩
    exact ⟨serial, recipe, hs, hr, by rw [List.append_nil]; rfl, rfl⟩
  · rintro ⟨serial, recipe, hs, hr, rfl, rfl⟩
    exact ⟨serial, _, ⟨hs, rfl⟩, recipe, [], ⟨hr, by rw [List.append_nil]; rfl⟩, rfl, rfl⟩

theorem readRegQuery_eq_some :
    readRegQuery tag b = some f ↔ ∃ serial : Serial, serial.length < 256 ∧ b = bString serial ∧ f = requestRegQuery tag serial := by
  simp only [readRegQuery, readWhole_eq_some_iff, Option.map_eq_some_iff, Prod.exists, readString_reads _ _ _, Prod.mk.injEq]
  constructor
  · rintro ⟨serial, _, ⟨hs, rfl⟩, rfl, rfl⟩
    exact ⟨serial, hs, List.append_nil _, rfl⟩
  · rintro ⟨serial, hs, rfl, rfl⟩
    exact ⟨serial, [], ⟨hs, (List.append_nil _).symm⟩, rfl, rfl⟩

theorem readRegSetState_eq_some :
    readRegSetState tag b = some f ↔ ∃ (serial : Serial) (old new : Nat), serial.length < 256 ∧ old < 256 ∧ new < 256
      ∧ b = bString serial ++ b1 old ++ b1 new ∧ f = requestRegSetState tag serial old new := by
  simp only [readRegSetState, readWhole_eq_some_iff, Option.bind_eq_bind, Option.bind_eq_some_iff, Prod.exists,
    readString_reads _ _ _, readByte_reads _ _ _, Option.some.injEq, Prod.mk.injEq]
  constructor
  · rintro ⟨serial, _, ⟨hs, rfl⟩, old, _, ⟨ho, rfl⟩, new, _, ⟨hn, rfl⟩, rfl, rfl⟩
    exact ⟨serial, old, new, hs, ho, hn, by simp only [List.append_assoc, List.append_nil], rfl⟩
  · rintro ⟨serial, old, new, hs, ho, hn, rfl, rfl⟩
    exact ⟨serial, _, ⟨hs, List.append_assoc ..⟩, old, _, ⟨ho, rfl⟩, new, [], ⟨hn, (List.append_nil _).symm⟩, rfl, rfl⟩

theorem readRegRemove_eq_some :
    readRegRemove tag b = some f ↔ ∃ (serial : Serial) (old : Nat), serial.length < 256 ∧ old < 256
      ∧ b = bString serial ++ b1 old ∧ f = requestRegRemove tag serial old := by
  simp only [readRegRemove, readWhole_eq_some_iff, Option.bind_eq_bind, Option.bind_eq_some_iff, Prod.exists,
    readString_reads _ _ _, readByte_reads _ _ _, Option.some.injEq, Prod.mk.injEq]
  constructor
  · rintro ⟨serial, _, ⟨hs, rfl⟩, old, _, ⟨ho, rfl⟩, rfl, rfl⟩
    exact ⟨serial, old, hs, ho, by rw [List.append_nil], rfl⟩
  · rintro ⟨serial, old, hs, ho, rfl, rfl⟩
    exact ⟨serial, _, ⟨hs, rfl⟩, old, [], ⟨ho, (List.append_nil _).symm⟩, rfl, rfl⟩

theorem readRegScan_eq_some :
    readRegScan tag b = some f ↔ ∃ start count : Nat, start < 256 ∧ count < 256
      ∧ b = b1 start ++ b1 count ∧ f = requestRegScan tag start count := by
  simp only [readRegScan, readWhole_eq_some_iff, Option.bind_eq_bind, Option.bind_eq_some_iff, Prod.exists,
    readByte_reads _ _ _, Option.some.injEq, Prod.mk.injEq]
  constructor
  · rintro ⟨start, _, ⟨hs, rfl⟩, count, _, ⟨hc, rfl⟩, rfl, rfl⟩
    exact ⟨start, count, hs, hc, by rw [List.append_nil], rfl⟩
  · rintro ⟨start, count, hs, hc, rfl, rfl⟩
    exact ⟨start, _, ⟨hs, rfl⟩, count, [], ⟨hc, (List.append_nil _).symm⟩, rfl, rfl⟩

theorem readCounterAdvance_eq_some :
    readCounterAdvance tag b = some f ↔ ∃ slot value : Nat, slot < 256 ∧ value < 256 ^ 4
      ∧ b = b1 slot ++ beBytes 4 value ∧ f = requestCounterAdvance tag slot value := by
  simp only [readCounterAdvance, readWhole_eq_some_iff, Option.bind_eq_bind, Option.bind_eq_some_iff, Prod.exists,
    readByte_reads _ _ _, readNat_reads 4 _ _ _, Option.some.injEq, Prod.mk.injEq]
  constructor
  · rintro ⟨slot, _, ⟨hs, rfl⟩, value, _, ⟨hv, rfl⟩, rfl, rfl⟩
    exact ⟨slot, value, hs, hv, by rw [List.append_nil], rfl⟩
  · rintro ⟨slot, value, hs, hv, rfl, rfl⟩
    exact ⟨slot, _, ⟨hs, rfl⟩, value, [], ⟨hv, (List.append_nil _).symm⟩, rfl, rfl⟩

/-- An event bitmap has its twelve members in two bytes (R209). -/
theorem readEvents_reads : Reads readEvents (fun _ => True) fun x => beBytes 2 x.toNat := by
  intro b a r
  have hread := readNat_reads 2 b
  constructor
  · intro h
    unfold readEvents at h
    split at h
    · exact absurd h (by simp)
    · next n rest hn =>
      obtain ⟨-, rfl⟩ := (hread n rest).1 hn
      by_cases hlt : n < 4096
      · simp only [hlt, if_true, Option.some.injEq, Prod.mk.injEq] at h
        obtain ⟨rfl, rfl⟩ := h
        have hval : (BitVec.ofNat 12 n).toNat = n := by rw [BitVec.toNat_ofNat, Nat.mod_eq_of_lt hlt]
        exact ⟨trivial, congrArg (beBytes 2 · ++ rest) hval.symm⟩
      · exact absurd h (by simp [hlt])
  · rintro ⟨-, rfl⟩
    have hlt := a.isLt
    have hn := (hread a.toNat r).2 ⟨by omega, rfl⟩
    simp [readEvents, hn, hlt]

theorem readStatus_eq_some :
    readStatus tag b = some f ↔ ∃ (clearSet : BitVec 12) (clearCounts : Bool),
      b = beBytes 2 clearSet.toNat ++ bFlag clearCounts ∧ f = requestStatus tag clearSet clearCounts := by
  simp only [readStatus, readWhole_eq_some_iff, Option.bind_eq_bind, Option.bind_eq_some_iff, Prod.exists,
    readEvents_reads _ _ _, readFlag_reads _ _ _, Option.some.injEq, Prod.mk.injEq, true_and]
  constructor
  · rintro ⟨set, _, rfl, counts, _, rfl, rfl, rfl⟩
    exact ⟨set, counts, by rw [List.append_nil], rfl⟩
  · rintro ⟨set, counts, rfl, rfl⟩
    exact ⟨set, _, rfl, counts, [], (List.append_nil _).symm, rfl, rfl⟩

theorem readSetMask_eq_some :
    readSetMask tag b = some f ↔ ∃ mask : BitVec 12, b = beBytes 2 mask.toNat ∧ f = requestSetMask tag mask := by
  simp only [readSetMask, readWhole_eq_some_iff, Option.map_eq_some_iff, Prod.exists, readEvents_reads _ _ _, Prod.mk.injEq,
    true_and]
  constructor
  · rintro ⟨mask, _, rfl, rfl, rfl⟩
    exact ⟨mask, List.append_nil _, rfl⟩
  · rintro ⟨mask, rfl, rfl⟩
    exact ⟨mask, [], (List.append_nil _).symm, rfl, rfl⟩

/-! ### Serial messages (R211) -/

theorem readLogon_eq_some :
    readLogon l b = some f ↔ ∃ (number : Nat) (credential : List Byte), number < 256 ∧ credential.length < 256
      ∧ b = b1 number ++ bString credential ∧ f = messageLogon l number credential := by
  simp only [readLogon, readWhole_eq_some_iff, Option.bind_eq_bind, Option.bind_eq_some_iff, Prod.exists,
    readByte_reads _ _ _, readString_reads _ _ _, Option.some.injEq, Prod.mk.injEq]
  constructor
  · rintro ⟨number, _, ⟨hn, rfl⟩, credential, _, ⟨hc, rfl⟩, rfl, rfl⟩
    exact ⟨number, credential, hn, hc, by rw [List.append_nil], rfl⟩
  · rintro ⟨number, credential, hn, hc, rfl, rfl⟩
    exact ⟨number, _, ⟨hn, rfl⟩, credential, [], ⟨hc, (List.append_nil _).symm⟩, rfl, rfl⟩

theorem readEnrolFirst_eq_some :
    readEnrolFirst l b = some f ↔ ∃ (number group : Nat) (credential : List Byte), number < 256 ∧ group < 256
      ∧ credential.length < 256 ∧ b = b1 number ++ b1 group ++ bString credential
      ∧ f = messageEnrolFirst l number group credential := by
  simp only [readEnrolFirst, readWhole_eq_some_iff, Option.bind_eq_bind, Option.bind_eq_some_iff, Prod.exists,
    readByte_reads _ _ _, readString_reads _ _ _, Option.some.injEq, Prod.mk.injEq]
  constructor
  · rintro ⟨number, _, ⟨hn, rfl⟩, group, _, ⟨hg, rfl⟩, credential, _, ⟨hc, rfl⟩, rfl, rfl⟩
    exact ⟨number, group, credential, hn, hg, hc, by simp only [List.append_assoc, List.append_nil], rfl⟩
  · rintro ⟨number, group, credential, hn, hg, hc, rfl, rfl⟩
    exact ⟨number, _, ⟨hn, List.append_assoc ..⟩, group, _, ⟨hg, rfl⟩, credential, [], ⟨hc, (List.append_nil _).symm⟩, rfl, rfl⟩

theorem readOpenEnrol_eq_some :
    readOpenEnrol l b = some f ↔ ∃ (number group : Nat) (credential : List Byte), number < 256 ∧ group < 256
      ∧ credential.length < 256 ∧ b = b1 number ++ b1 group ++ bString credential
      ∧ f = messageOpenEnrol l number group credential := by
  simp only [readOpenEnrol, readWhole_eq_some_iff, Option.bind_eq_bind, Option.bind_eq_some_iff, Prod.exists,
    readByte_reads _ _ _, readString_reads _ _ _, Option.some.injEq, Prod.mk.injEq]
  constructor
  · rintro ⟨number, _, ⟨hn, rfl⟩, group, _, ⟨hg, rfl⟩, credential, _, ⟨hc, rfl⟩, rfl, rfl⟩
    exact ⟨number, group, credential, hn, hg, hc, by simp only [List.append_assoc, List.append_nil], rfl⟩
  · rintro ⟨number, group, credential, hn, hg, hc, rfl, rfl⟩
    exact ⟨number, _, ⟨hn, List.append_assoc ..⟩, group, _, ⟨hg, rfl⟩, credential, [], ⟨hc, (List.append_nil _).symm⟩, rfl, rfl⟩

theorem readOpenAssemble_eq_some :
    readOpenAssemble l b = some f ↔ ∃ (slot cls length count : Nat) (keySet : Option Nat), slot < 256 ∧ cls < 256 ∧ length < 256
      ∧ count < 256 ∧ (∀ n, keySet = some n → n < 256 ^ 4)
      ∧ b = b1 slot ++ b1 cls ++ b1 length ++ b1 count ++ bOpt (beBytes 4) keySet
      ∧ f = messageOpenAssemble l slot cls length count keySet := by
  simp only [readOpenAssemble, readWhole_eq_some_iff, Option.bind_eq_bind, Option.bind_eq_some_iff, Prod.exists,
    readByte_reads _ _ _, readOptNat_reads 4 _ _ _, Option.some.injEq, Prod.mk.injEq]
  constructor
  · rintro ⟨slot, _, ⟨hs, rfl⟩, cls, _, ⟨hc, rfl⟩, length, _, ⟨hl, rfl⟩, count, _, ⟨hn, rfl⟩, keySet, _, ⟨hk, rfl⟩, rfl, rfl⟩
    exact ⟨slot, cls, length, count, keySet, hs, hc, hl, hn, hk, by simp only [List.append_assoc, List.append_nil], rfl⟩
  · rintro ⟨slot, cls, length, count, keySet, hs, hc, hl, hn, hk, rfl, rfl⟩
    simp only [List.append_assoc]
    exact ⟨slot, _, ⟨hs, rfl⟩, cls, _, ⟨hc, rfl⟩, length, _, ⟨hl, rfl⟩, count, _, ⟨hn, rfl⟩, keySet, [],
      ⟨hk, (List.append_nil _).symm⟩, rfl, rfl⟩

theorem readComponent_eq_some :
    readComponent l b = some f ↔ ∃ (value : List Byte) (check : Nat), value.length < 256 ∧ check < 256 ^ 3
      ∧ b = bString value ++ beBytes 3 check ∧ f = messageComponent l value (BitVec.ofNat 24 check) := by
  simp only [readComponent, readWhole_eq_some_iff, Option.bind_eq_bind, Option.bind_eq_some_iff, Prod.exists,
    readString_reads _ _ _, readNat_reads 3 _ _ _, Option.some.injEq, Prod.mk.injEq]
  constructor
  · rintro ⟨value, _, ⟨hv, rfl⟩, check, _, ⟨hc, rfl⟩, rfl, rfl⟩
    exact ⟨value, check, hv, hc, by rw [List.append_nil], rfl⟩
  · rintro ⟨value, check, hv, hc, rfl, rfl⟩
    exact ⟨value, _, ⟨hv, rfl⟩, check, [], ⟨hc, (List.append_nil _).symm⟩, rfl, rfl⟩

theorem readHello_eq_some :
    readHello p b = some f ↔ ∃ (serial : Serial) (model : Nat), serial.length < 256 ∧ model < 256 ^ 4
      ∧ b = bString serial ++ beBytes 4 model ∧ f = messageHello p serial (BitVec.ofNat 32 model) := by
  simp only [readHello, readWhole_eq_some_iff, Option.bind_eq_bind, Option.bind_eq_some_iff, Prod.exists,
    readString_reads _ _ _, readNat_reads 4 _ _ _, Option.some.injEq, Prod.mk.injEq]
  constructor
  · rintro ⟨serial, _, ⟨hs, rfl⟩, model, _, ⟨hm, rfl⟩, rfl, rfl⟩
    exact ⟨serial, model, hs, hm, by rw [List.append_nil], rfl⟩
  · rintro ⟨serial, model, hs, hm, rfl, rfl⟩
    exact ⟨serial, _, ⟨hs, rfl⟩, model, [], ⟨hm, (List.append_nil _).symm⟩, rfl, rfl⟩

theorem readConfirm_eq_some :
    readConfirm p b = some f ↔ ∃ index kcv : Nat, index < 256 ∧ kcv < 256 ^ 3
      ∧ b = b1 index ++ beBytes 3 kcv ∧ f = messageConfirm p index (BitVec.ofNat 24 kcv) := by
  simp only [readConfirm, readWhole_eq_some_iff, Option.bind_eq_bind, Option.bind_eq_some_iff, Prod.exists,
    readByte_reads _ _ _, readNat_reads 3 _ _ _, Option.some.injEq, Prod.mk.injEq]
  constructor
  · rintro ⟨index, _, ⟨hi, rfl⟩, kcv, _, ⟨hk, rfl⟩, rfl, rfl⟩
    exact ⟨index, kcv, hi, hk, by rw [List.append_nil], rfl⟩
  · rintro ⟨index, kcv, hi, hk, rfl, rfl⟩
    exact ⟨index, _, ⟨hi, rfl⟩, kcv, [], ⟨hk, (List.append_nil _).symm⟩, rfl, rfl⟩

end

/-! ### The command a frame is -/

theorem byte_eq_of_toNat {x : Byte} {n : Nat} (h : x.toNat = n) : x = BitVec.ofNat 8 n := by
  rw [← h, BitVec.ofNat_toNat, BitVec.setWidth_eq]

/-- The body of a request reads as that request (R210). -/
theorem readRequest_of_request {c : Instr} {r : Request} {body : List Byte} (h : request? c = some r)
    (hb : requestBody? c = some body) (hw : c.wf = true) :
    ∃ f, readRequest r.tag r.kind body = some f ∧ ∀ s, exec c s = .next (f s) := by
  cases c <;> simp only [request?, requestBody?, reduceCtorEq, Option.some.injEq] at h hb <;> subst h hb <;>
    simp only [Instr.wf, fits1, fits4, fitsString, Bool.and_eq_true, decide_eq_true_eq] at hw
  case profileBegin | profileAbandon | linePause | lineResume | lineClose | lineReset | profileBlock | importKey =>
    exact ⟨_, rfl, fun s => rfl⟩
  case profileCommit tag check =>
    exact ⟨_, readCommit_eq_some.2 ⟨_, check.isLt, rfl, rfl⟩, fun s => by rw [BitVec.ofNat_toNat, BitVec.setWidth_eq]; rfl⟩
  case slotQuery | counterRead | journalRead =>
    exact ⟨_, readOne_eq_some.2 ⟨_, hw, rfl, rfl⟩, fun s => rfl⟩
  case regAdd tag serial recipe =>
    refine ⟨_, readRegAdd_eq_some.2 ⟨serial, recipe, hw.1, ?_, rfl, rfl⟩, fun s => rfl⟩
    rintro n rfl
    simpa [fitsOption1, fits1] using hw.2
  case regQuery => exact ⟨_, readRegQuery_eq_some.2 ⟨_, hw, rfl, rfl⟩, fun s => rfl⟩
  case regSetState => exact ⟨_, readRegSetState_eq_some.2 ⟨_, _, _, hw.1.1, hw.1.2, hw.2, rfl, rfl⟩, fun s => rfl⟩
  case regRemove => exact ⟨_, readRegRemove_eq_some.2 ⟨_, _, hw.1, hw.2, rfl, rfl⟩, fun s => rfl⟩
  case regScan => exact ⟨_, readRegScan_eq_some.2 ⟨_, _, hw.1, hw.2, rfl, rfl⟩, fun s => rfl⟩
  case counterAdvance => exact ⟨_, readCounterAdvance_eq_some.2 ⟨_, _, hw.1, hw.2, rfl, rfl⟩, fun s => rfl⟩
  case journalRelease => exact ⟨_, readRelease_eq_some.2 ⟨_, hw, rfl, rfl⟩, fun s => rfl⟩
  case status => exact ⟨_, readStatus_eq_some.2 ⟨_, _, rfl, rfl⟩, fun s => rfl⟩
  case setMask => exact ⟨_, readSetMask_eq_some.2 ⟨_, rfl, rfl⟩, fun s => rfl⟩

/-- A body that reads as a request of its kind is the body of a well-formed request, which it runs as (R210). -/
theorem request_of_readRequest {tag kind : Byte} {b : List Byte} {f : State → State} (hlen : b.length ≤ 2048)
    (h : readRequest tag kind b = some f) :
    ∃ c r, request? c = some r ∧ r.tag = tag ∧ r.kind = kind ∧ c.wf = true ∧ requestBody? c = some b
      ∧ ∀ s, exec c s = .next (f s) := by
  have hone : ∀ n : Nat, n < 256 → fits1 n = true := fun n hn => by simpa [fits1] using hn
  have hfour : ∀ n : Nat, n < 256 ^ 4 → fits4 n = true := fun n hn => by simpa [fits4] using hn
  have hstring : ∀ x : List Byte, x.length < 256 → fitsString x = true := fun x hx => by simpa [fitsString] using hx
  unfold readRequest at h
  split at h
  case h_22 => exact absurd h (by simp)
  all_goals rename_i hk; replace hk := byte_eq_of_toNat hk; subst hk
  case h_1 =>
    obtain ⟨rfl, rfl⟩ := readEmpty_eq_some.1 h
    exact ⟨.profileBegin tag, _, rfl, rfl, rfl, rfl, rfl, fun s => rfl⟩
  case h_2 =>
    cases h
    exact ⟨.profileBlock tag b, _, rfl, rfl, rfl, decide_eq_true hlen, rfl, fun s => rfl⟩
  case h_3 =>
    obtain ⟨n, hn, rfl, rfl⟩ := readCommit_eq_some.1 h
    have hval : (BitVec.ofNat 32 n).toNat = n := by rw [BitVec.toNat_ofNat, Nat.mod_eq_of_lt (by simpa using hn)]
    exact ⟨.profileCommit tag (BitVec.ofNat 32 n), _, rfl, rfl, rfl, rfl, by rw [requestBody?, hval], fun s => rfl⟩
  case h_4 =>
    obtain ⟨rfl, rfl⟩ := readEmpty_eq_some.1 h
    exact ⟨.profileAbandon tag, _, rfl, rfl, rfl, rfl, rfl, fun s => rfl⟩
  case h_5 =>
    obtain ⟨rfl, rfl⟩ := readEmpty_eq_some.1 h
    exact ⟨.linePause tag, _, rfl, rfl, rfl, rfl, rfl, fun s => rfl⟩
  case h_6 =>
    obtain ⟨rfl, rfl⟩ := readEmpty_eq_some.1 h
    exact ⟨.lineResume tag, _, rfl, rfl, rfl, rfl, rfl, fun s => rfl⟩
  case h_7 =>
    obtain ⟨rfl, rfl⟩ := readEmpty_eq_some.1 h
    exact ⟨.lineClose tag, _, rfl, rfl, rfl, rfl, rfl, fun s => rfl⟩
  case h_8 =>
    obtain ⟨rfl, rfl⟩ := readEmpty_eq_some.1 h
    exact ⟨.lineReset tag, _, rfl, rfl, rfl, rfl, rfl, fun s => rfl⟩
  case h_9 =>
    cases h
    exact ⟨.importKey tag b, _, rfl, rfl, rfl, decide_eq_true hlen, rfl, fun s => rfl⟩
  case h_10 =>
    obtain ⟨n, hn, rfl, rfl⟩ := readOne_eq_some.1 h
    exact ⟨.slotQuery tag n, _, rfl, rfl, rfl, hone n hn, rfl, fun s => rfl⟩
  case h_11 =>
    obtain ⟨serial, recipe, hs, hr, rfl, rfl⟩ := readRegAdd_eq_some.1 h
    refine ⟨.regAdd tag serial recipe, _, rfl, rfl, rfl, Bool.and_eq_true_iff.2 ⟨hstring _ hs, ?_⟩, rfl, fun s => rfl⟩
    cases recipe with
    | none => rfl
    | some n => exact hone n (hr n rfl)
  case h_12 =>
    obtain ⟨serial, hs, rfl, rfl⟩ := readRegQuery_eq_some.1 h
    exact ⟨.regQuery tag serial, _, rfl, rfl, rfl, hstring _ hs, rfl, fun s => rfl⟩
  case h_13 =>
    obtain ⟨serial, old, new, hs, ho, hn, rfl, rfl⟩ := readRegSetState_eq_some.1 h
    exact ⟨.regSetState tag serial old new, _, rfl, rfl, rfl, by simp [Instr.wf, hstring _ hs, hone _ ho, hone _ hn], rfl,
      fun s => rfl⟩
  case h_14 =>
    obtain ⟨serial, old, hs, ho, rfl, rfl⟩ := readRegRemove_eq_some.1 h
    exact ⟨.regRemove tag serial old, _, rfl, rfl, rfl, by simp [Instr.wf, hstring _ hs, hone _ ho], rfl, fun s => rfl⟩
  case h_15 =>
    obtain ⟨start, count, hs, hc, rfl, rfl⟩ := readRegScan_eq_some.1 h
    exact ⟨.regScan tag start count, _, rfl, rfl, rfl, by simp [Instr.wf, hone _ hs, hone _ hc], rfl, fun s => rfl⟩
  case h_16 =>
    obtain ⟨n, hn, rfl, rfl⟩ := readOne_eq_some.1 h
    exact ⟨.counterRead tag n, _, rfl, rfl, rfl, hone n hn, rfl, fun s => rfl⟩
  case h_17 =>
    obtain ⟨slot, value, hs, hv, rfl, rfl⟩ := readCounterAdvance_eq_some.1 h
    exact ⟨.counterAdvance tag slot value, _, rfl, rfl, rfl, by simp [Instr.wf, hone _ hs, hfour _ hv], rfl, fun s => rfl⟩
  case h_18 =>
    obtain ⟨n, hn, rfl, rfl⟩ := readOne_eq_some.1 h
    exact ⟨.journalRead tag n, _, rfl, rfl, rfl, hone n hn, rfl, fun s => rfl⟩
  case h_19 =>
    obtain ⟨n, hn, rfl, rfl⟩ := readRelease_eq_some.1 h
    exact ⟨.journalRelease tag n, _, rfl, rfl, rfl, hfour n hn, rfl, fun s => rfl⟩
  case h_20 =>
    obtain ⟨set, counts, rfl, rfl⟩ := readStatus_eq_some.1 h
    exact ⟨.status tag set counts, _, rfl, rfl, rfl, rfl, rfl, fun s => rfl⟩
  case h_21 =>
    obtain ⟨mask, rfl, rfl⟩ := readSetMask_eq_some.1 h
    exact ⟨.setMask tag mask, _, rfl, rfl, rfl, rfl, rfl, fun s => rfl⟩

/-- The message a serial frame spells on its link. -/
def readMessage : LinkId → Byte → List Byte → Option (State → State)
  | .console l => readConsoleMessage l
  | .bench p => readBenchMessage p

theorem deliverMessage_of_read {k : LinkId} {x : Byte} {body : List Byte} {f : State → State} (h : readMessage k x body = some f) :
    deliverMessage k x body = f := by
  cases k <;> exact congrArg (Option.getD · _) h

theorem deliverMessage_of_unread {k : LinkId} {x : Byte} {body : List Byte} (h : readMessage k x body = none) :
    deliverMessage k x body = match k with
      | .console l => messageConsoleBad l x
      | .bench p => messageBenchBad p := by
  cases k <;> exact congrArg (Option.getD · _) h

/-- The body of a message reads as that message (R211). -/
theorem readMessage_of_message {c : Instr} {k : LinkId} {kind : Nat} {body : List Byte} {x : Byte}
    (h : linkMessage? c = some (k, kind, body)) (hw : c.wf = true) (hx : x.toNat = kind) :
    ∃ f, readMessage k x body = some f ∧ ∀ s, exec c s = .next (f s) := by
  have hx' := byte_eq_of_toNat hx
  have hfour : ∀ o : Option Nat, fitsOption4 o = true → ∀ n, o = some n → n < 256 ^ 4 := by
    rintro _ ho n rfl
    simpa [fitsOption4, fits4] using ho
  cases c <;> simp only [linkMessage?, reduceCtorEq, Option.some.injEq, Prod.mk.injEq] at h
  all_goals
    obtain ⟨rfl, rfl, rfl⟩ := h
    subst hx'
    simp only [Instr.wf, fits1, fitsLinkBody, Bool.and_eq_true, decide_eq_true_eq] at hw
  case logoff | accept | reject | cancel | query | zeroise | bye | openOpenLine => exact ⟨_, rfl, fun s => rfl⟩
  case logon => exact ⟨_, readLogon_eq_some.2 ⟨_, _, hw.1, by omega, rfl, rfl⟩, fun s => rfl⟩
  case enrolFirst => exact ⟨_, readEnrolFirst_eq_some.2 ⟨_, _, _, hw.1.1, hw.1.2, by omega, rfl, rfl⟩, fun s => rfl⟩
  case openAssemble =>
    obtain ⟨⟨⟨⟨hs, hc⟩, hl⟩, hn⟩, hk⟩ := hw
    exact ⟨_, readOpenAssemble_eq_some.2 ⟨_, _, _, _, _, hs, hc, hl, hn, hfour _ hk, rfl, rfl⟩, fun s => rfl⟩
  case openErase | openRevoke | openUnlock | fetch => exact ⟨_, readOne_eq_some.2 ⟨_, hw, rfl, rfl⟩, fun s => rfl⟩
  case openEnrol => exact ⟨_, readOpenEnrol_eq_some.2 ⟨_, _, _, hw.1.1, hw.1.2, by omega, rfl, rfl⟩, fun s => rfl⟩
  case component l value check =>
    exact ⟨_, readComponent_eq_some.2 ⟨_, _, by omega, check.isLt, rfl, rfl⟩, fun s => by
      rw [BitVec.ofNat_toNat, BitVec.setWidth_eq]; rfl⟩
  case hello p serial model =>
    exact ⟨_, readHello_eq_some.2 ⟨_, _, by omega, model.isLt, rfl, rfl⟩, fun s => by
      rw [BitVec.ofNat_toNat, BitVec.setWidth_eq]; rfl⟩
  case confirm p index kcv =>
    exact ⟨_, readConfirm_eq_some.2 ⟨_, _, hw, kcv.isLt, rfl, rfl⟩, fun s => by
      rw [BitVec.ofNat_toNat, BitVec.setWidth_eq]; rfl⟩

/-- A number and its own byte. -/
theorem b1_toNat (x : Byte) : b1 x.toNat = [x] := by
  have h := beBytes_beNat [x]
  simpa [beNat, b1] using h

theorem readByte_cons (x : Byte) (rest : List Byte) : readByte (x :: rest) = some (x.toNat, rest) :=
  (readByte_reads _ _ _).2 ⟨x.isLt, by rw [b1_toNat]; rfl⟩

/-- An OPEN whose body reads is that of a well-formed command, or its ceremony kind is not one of the six (R42; log entry 11). -/
theorem message_of_readOpen {l : ConsoleLink} {b : List Byte} {f : State → State} (hlen : b.length ≤ 255)
    (h : readOpen l b = some f) :
    (∃ c, linkMessage? c = some (.console l, 4, b) ∧ c.wf = true ∧ ∀ s, exec c s = .next (f s))
      ∨ ∃ ceremony rest, b = ceremony :: rest ∧ ceremony.toNat ∉ [1, 2, 3, 4, 5, 6] ∧ f = messageOpenUnknown l := by
  have hone : ∀ n : Nat, n < 256 → fits1 n = true := fun n hn => by simpa [fits1] using hn
  cases b with
  | nil => exact absurd h (by simp [readOpen, readByte, readNat, readBytes])
  | cons ceremony rest =>
  simp only [readOpen, readByte_cons] at h
  have hb (n : Nat) (hn : ceremony.toNat = n) : ceremony :: rest = b1 n ++ rest := by rw [← hn, b1_toNat]; rfl
  split at h
  case h_1 hk =>
    obtain ⟨slot, cls, length, count, keySet, hs, hc, hl, hn, hks, rfl, rfl⟩ := readOpenAssemble_eq_some.1 h
    have hfits : fitsOption4 keySet = true := by
      cases keySet with
      | none => rfl
      | some n => simpa [fitsOption4, fits4] using hks n rfl
    exact .inl ⟨.openAssemble l slot cls length count keySet, by rw [hb _ hk]; simp [linkMessage?, List.append_assoc],
      by simp [Instr.wf, hone _ hs, hone _ hc, hone _ hl, hone _ hn, hfits], fun s => rfl⟩
  case h_2 hk =>
    obtain ⟨n, hn, rfl, rfl⟩ := readOne_eq_some.1 h
    exact .inl ⟨.openErase l n, by rw [hb _ hk]; rfl, hone n hn, fun s => rfl⟩
  case h_3 hk =>
    obtain ⟨rfl, rfl⟩ := readEmpty_eq_some.1 h
    exact .inl ⟨.openOpenLine l, by rw [hb _ hk]; rfl, rfl, fun s => rfl⟩
  case h_4 hk =>
    obtain ⟨number, group, credential, hn, hg, -, rfl, rfl⟩ := readOpenEnrol_eq_some.1 h
    have hc : credential.length + 4 < 256 := by simp [bString, b1, beBytes] at hlen; omega
    exact .inl ⟨.openEnrol l number group credential, by rw [hb _ hk]; simp [linkMessage?, List.append_assoc],
      by simp [Instr.wf, hone _ hn, hone _ hg, fitsLinkBody, hc], fun s => rfl⟩
  case h_5 hk =>
    obtain ⟨n, hn, rfl, rfl⟩ := readOne_eq_some.1 h
    exact .inl ⟨.openRevoke l n, by rw [hb _ hk]; rfl, hone n hn, fun s => rfl⟩
  case h_6 hk =>
    obtain ⟨n, hn, rfl, rfl⟩ := readOne_eq_some.1 h
    exact .inl ⟨.openUnlock l n, by rw [hb _ hk]; rfl, hone n hn, fun s => rfl⟩
  case h_7 h1 h2 h3 h4 h5 h6 =>
    cases h
    exact .inr ⟨ceremony, rest, rfl, by simpa using ⟨h1, h2, h3, h4, h5, h6⟩, rfl⟩

/-- A console body that reads is that of a well-formed command, or an OPEN whose ceremony kind is not one of the six. -/
theorem message_of_readConsole {l : ConsoleLink} {kind : Byte} {b : List Byte} {f : State → State} (hlen : b.length ≤ 255)
    (h : readConsoleMessage l kind b = some f) :
    (∃ c, linkMessage? c = some (.console l, kind.toNat, b) ∧ c.wf = true ∧ ∀ s, exec c s = .next (f s))
      ∨ kind = 0x04 ∧ ∃ ceremony rest, b = ceremony :: rest ∧ ceremony.toNat ∉ [1, 2, 3, 4, 5, 6] ∧ f = messageOpenUnknown l := by
  have hone : ∀ n : Nat, n < 256 → fits1 n = true := fun n hn => by simpa [fits1] using hn
  unfold readConsoleMessage at h
  split at h
  case h_11 => exact absurd h (by simp)
  all_goals rename_i hk; rw [hk]
  case h_1 =>
    obtain ⟨number, credential, hn, -, rfl, rfl⟩ := readLogon_eq_some.1 h
    have hc : credential.length + 2 < 256 := by simp [bString, b1, beBytes] at hlen; omega
    exact .inl ⟨.logon l number credential, rfl, by simp [Instr.wf, hone _ hn, fitsLinkBody, hc], fun s => rfl⟩
  case h_2 =>
    obtain ⟨rfl, rfl⟩ := readEmpty_eq_some.1 h
    exact .inl ⟨.logoff l, rfl, rfl, fun s => rfl⟩
  case h_3 =>
    obtain ⟨number, group, credential, hn, hg, -, rfl, rfl⟩ := readEnrolFirst_eq_some.1 h
    have hc : credential.length + 3 < 256 := by simp [bString, b1, beBytes] at hlen; omega
    exact .inl ⟨.enrolFirst l number group credential, rfl, by simp [Instr.wf, hone _ hn, hone _ hg, fitsLinkBody, hc],
      fun s => rfl⟩
  case h_4 => exact (message_of_readOpen hlen h).imp_right fun hu => ⟨byte_eq_of_toNat hk, hu⟩
  case h_5 =>
    obtain ⟨value, check, -, hk, rfl, rfl⟩ := readComponent_eq_some.1 h
    have hval : (BitVec.ofNat 24 check).toNat = check := by rw [BitVec.toNat_ofNat, Nat.mod_eq_of_lt (by simpa using hk)]
    have hv : value.length + 4 < 256 := by simp [bString, b1, beBytes] at hlen; omega
    exact .inl ⟨.component l value (BitVec.ofNat 24 check), by rw [linkMessage?, hval], decide_eq_true hv, fun s => rfl⟩
  case h_6 =>
    obtain ⟨rfl, rfl⟩ := readEmpty_eq_some.1 h
    exact .inl ⟨.accept l, rfl, rfl, fun s => rfl⟩
  case h_7 =>
    obtain ⟨rfl, rfl⟩ := readEmpty_eq_some.1 h
    exact .inl ⟨.reject l, rfl, rfl, fun s => rfl⟩
  case h_8 =>
    obtain ⟨rfl, rfl⟩ := readEmpty_eq_some.1 h
    exact .inl ⟨.cancel l, rfl, rfl, fun s => rfl⟩
  case h_9 =>
    obtain ⟨rfl, rfl⟩ := readEmpty_eq_some.1 h
    exact .inl ⟨.query l, rfl, rfl, fun s => rfl⟩
  case h_10 =>
    obtain ⟨rfl, rfl⟩ := readEmpty_eq_some.1 h
    exact .inl ⟨.zeroise l, rfl, rfl, fun s => rfl⟩

/-- A bench body that reads is that of a well-formed command. -/
theorem message_of_readBench {p : Port} {kind : Byte} {b : List Byte} {f : State → State} (hlen : b.length ≤ 255)
    (h : readBenchMessage p kind b = some f) :
    ∃ c, linkMessage? c = some (.bench p, kind.toNat, b) ∧ c.wf = true ∧ ∀ s, exec c s = .next (f s) := by
  have hone : ∀ n : Nat, n < 256 → fits1 n = true := fun n hn => by simpa [fits1] using hn
  unfold readBenchMessage at h
  split at h
  case h_5 => exact absurd h (by simp)
  all_goals rename_i hk; rw [hk]
  case h_1 =>
    obtain ⟨serial, model, -, hm, rfl, rfl⟩ := readHello_eq_some.1 h
    have hval : (BitVec.ofNat 32 model).toNat = model := by rw [BitVec.toNat_ofNat, Nat.mod_eq_of_lt (by simpa using hm)]
    have hs : serial.length + 5 < 256 := by simp [bString, b1, beBytes] at hlen; omega
    exact ⟨.hello p serial (BitVec.ofNat 32 model), by rw [linkMessage?, hval], decide_eq_true hs, fun s => rfl⟩
  case h_2 =>
    obtain ⟨n, hn, rfl, rfl⟩ := readOne_eq_some.1 h
    exact ⟨.fetch p n, rfl, hone n hn, fun s => rfl⟩
  case h_3 =>
    obtain ⟨index, kcv, hi, hk, rfl, rfl⟩ := readConfirm_eq_some.1 h
    have hval : (BitVec.ofNat 24 kcv).toNat = kcv := by rw [BitVec.toNat_ofNat, Nat.mod_eq_of_lt (by simpa using hk)]
    exact ⟨.confirm p index (BitVec.ofNat 24 kcv), by rw [linkMessage?, hval], hone index hi, fun s => rfl⟩
  case h_4 =>
    obtain ⟨rfl, rfl⟩ := readEmpty_eq_some.1 h
    exact ⟨.bye p, rfl, rfl, fun s => rfl⟩

end Sys2Proof.Machine
end

section
/-! Whole frames: a control frame read is the frame of the layout (R196, R210), and a transaction that spells a request is that
request. -/

namespace Sys2Proof.Machine
open Sys2Proof.Safety

/-- A frame reads exactly when it is one of the layout, as the frame it is (R196, R210). -/
theorem readFrame_eq_some {b : List Byte} {f : GoodFrame} :
    readFrame b = some f ↔ f.body.length ≤ 2048 ∧ b = requestFrame f.tag f.kind f.body := by
  constructor
  · intro h
    match b with
    | tag :: kind :: l1 :: l0 :: rest =>
      simp only [readFrame] at h
      split at h
      case isFalse => cases h
      case isTrue hok =>
        obtain ⟨hlen, hmax, hcrc⟩ := hok
        cases h
        have hbody : (rest.take (beNat [l1, l0])).length = beNat [l1, l0] := by simp; omega
        have hfield : beBytes 2 (beNat [l1, l0]) = [l1, l0] := beBytes_beNat [l1, l0]
        have hsum := beBytes_beNat (rest.drop (beNat [l1, l0]))
        rw [show (rest.drop (beNat [l1, l0])).length = 2 by simp; omega, hcrc] at hsum
        refine ⟨by simp only; omega, ?_⟩
        simp only [requestFrame, hbody, hfield, List.cons_append, List.nil_append]
        rw [hsum, List.take_append_drop]
    | [] | [_] | [_, _] | [_, _, _] => cases h
  · rintro ⟨hlen, rfl⟩
    have hb : beNat (beBytes 2 f.body.length) = f.body.length := beNat_beBytes (by omega)
    obtain ⟨l1, l0, hl⟩ : ∃ l1 l0, beBytes 2 f.body.length = [l1, l0] := ⟨_, _, rfl⟩
    have hc := beNat_beBytes (w := 2) (BitVec.isLt (crc16 (f.tag :: f.kind :: l1 :: l0 :: f.body)))
    rw [hl] at hb
    simp [readFrame, requestFrame, hl, hb, hc, hlen, beBytes_length]

theorem readFrame_eq_none {b : List Byte} (h : ∀ tag kind body, body.length ≤ 2048 → b ≠ requestFrame tag kind body) :
    readFrame b = none :=
  Option.eq_none_iff_forall_ne_some.2 fun _ hf => h _ _ _ (readFrame_eq_some.1 hf).1 (readFrame_eq_some.1 hf).2

theorem requestFrame_length (tag kind : Byte) (body : List Byte) : (requestFrame tag kind body).length = body.length + 6 := by
  simp [requestFrame, beBytes_length]; omega

/-- What a request shifts out does not depend on what was shifted out before it (R194). -/
theorem acceptRequest_silent (tag kind : Byte) (n m : Nat) (h : State → State) (s : State) (hr : s.running = true) :
    acceptRequest tag kind n h (s.silent m) = acceptRequest tag kind n h s := by
  have hr' : (s.silent m).running = true := hr
  simp only [acceptRequest, hr, hr']
  rfl

end Sys2Proof.Machine
end

section
/-! The commands by the gate they come through: a control request is judged by R196 and handed to its block, a console message
by R26 and R200, a bench message by R150 and R200. Each handler is what stands behind the gate. -/

namespace Sys2Proof.Machine
open Sys2Proof.Safety

/-- What an accepted request does. -/
def requestHandler : Instr → State → State
  | .profileBegin tag => profileBegin tag
  | .profileBlock tag body => profileBlock tag body
  | .profileCommit tag check => profileCommit tag check
  | .profileAbandon tag => profileAbandon tag
  | .linePause tag => linePause tag
  | .lineResume tag => lineResume tag
  | .lineClose tag => lineClose tag
  | .lineReset _ => resetPart .lineReset
  | .importKey tag body => importKey tag body
  | .slotQuery tag slot => slotQuery tag slot
  | .regAdd tag serial recipe => regAdd tag serial recipe
  | .regQuery tag serial => regQuery tag serial
  | .regSetState tag serial expected new => regSetState tag serial expected new
  | .regRemove tag serial expected => regRemove tag serial expected
  | .regScan tag start count => regScan tag start count
  | .counterRead tag slot => counterRead tag slot
  | .counterAdvance tag slot value => counterAdvance tag slot value
  | .journalRead tag count => journalRead tag count
  | .journalRelease tag sequence => journalRelease tag sequence
  | .status tag clearSet clearCounts => statusRequest tag clearSet clearCounts
  | .setMask tag mask => setMask tag mask
  | _ => id

theorem exec_request {c : Instr} {r : Request} (h : request? c = some r) (s : State) :
    exec c s = .next (acceptRequest r.tag r.kind r.length (requestHandler c) s) := by
  cases c <;> simp only [request?, reduceCtorEq, Option.some.injEq] at h <;> subst h <;> rfl

/-- The conditions of an OPEN's kind (R43-R48). -/
def openingOf : Instr → Person → State → Opening
  | .openAssemble _ slot cls length count keySet, _ => assembleOpening slot cls length count keySet
  | .openErase _ slot, _ => eraseOpening slot
  | .openOpenLine _, _ => openLineOpening
  | .openEnrol _ number group credential, _ => enrolOpening number group credential
  | .openRevoke _ number, p => revokeOpening p number
  | .openUnlock _ number, _ => unlockOpening number
  | _, _ => fun _ => .refused .wrongState

/-- What a console message taken from a logged-on custodian does. -/
def personHandler : Instr → Person → State → State
  | .logoff l, _ => logoff l
  | .zeroise l, p => consoleZeroise l p
  | .component l value check, p => giveComponent l p value check
  | .accept l, p => acceptCeremony l p
  | .reject l, _ => rejectCeremony l
  | .cancel l, p => cancelCeremony l p
  | .openAssemble l slot cls length count keySet, p =>
    fun s => openCeremony l p (openingOf (.openAssemble l slot cls length count keySet) p s) s
  | .openErase l slot, p => fun s => openCeremony l p (openingOf (.openErase l slot) p s) s
  | .openOpenLine l, p => fun s => openCeremony l p (openingOf (.openOpenLine l) p s) s
  | .openEnrol l number group credential, p =>
    fun s => openCeremony l p (openingOf (.openEnrol l number group credential) p s) s
  | .openRevoke l number, p => fun s => openCeremony l p (openingOf (.openRevoke l number) p s) s
  | .openUnlock l number, p => fun s => openCeremony l p (openingOf (.openUnlock l number) p s) s
  | _, _ => id

/-- What a console message that needs no logon does. -/
def consoleHandler : Instr → State → State
  | .logon l number credential => logon l number credential
  | .enrolFirst l number group credential => enrolFirst l number group credential
  | .query l => fun s => answer l 0x09 .ok (.query (queryReport s)) s
  | .consoleBadMessage l kind => answer l kind .wrongState .nothing
  | _ => id

theorem exec_console {c : Instr} {l : ConsoleLink} {kind : Byte} (h : consoleMessage? c = some (l, kind))
    (hn : needsLogon c = false) (s : State) : exec c s = .next (consoleMessage l kind (consoleHandler c) s) := by
  cases c <;> simp only [consoleMessage?, needsLogon, reduceCtorEq, Option.some.injEq, Prod.mk.injEq] at h hn <;>
    obtain ⟨rfl, rfl⟩ := h <;> rfl

theorem exec_person {c : Instr} {l : ConsoleLink} {kind : Byte} (h : consoleMessage? c = some (l, kind))
    (hn : needsLogon c = true) (s : State) : exec c s = .next (consoleMessageFrom l kind (personHandler c) s) := by
  cases c <;> simp only [consoleMessage?, needsLogon, reduceCtorEq, Option.some.injEq, Prod.mk.injEq, Bool.false_eq_true] at h hn <;>
    obtain ⟨rfl, rfl⟩ := h <;> rfl

/-- An OPEN is judged by the common checks and those of its kind (R42). -/
theorem personHandler_of_opens {c : Instr} {l : ConsoleLink} {kind : Byte} (h : consoleMessage? c = some (l, kind))
    (ho : opens c = true) (p : Person) (s : State) :
    kind = 0x04 ∧ needsLogon c = true ∧ personHandler c p s = openCeremony l p (openingOf c p s) s := by
  cases c <;> simp only [consoleMessage?, opens, reduceCtorEq, Option.some.injEq, Prod.mk.injEq, Bool.false_eq_true] at h ho <;>
    obtain ⟨rfl, rfl⟩ := h <;> exact ⟨rfl, rfl, rfl⟩

section
variable {l : ConsoleLink} {p : Person} {o : Opening} {s : State}

/-! ### The checks of an OPEN that come for every kind (R42) -/

theorem openCeremony_busy (h : s.ceremony.run ≠ .idle) : openCeremony l p o s = answer l 0x04 .busy .nothing s := if_pos h

theorem openCeremony_zeroised (hi : s.ceremony.run = .idle) (hz : s.line = .zeroised) :
    openCeremony l p o s = answer l 0x04 .zeroised .nothing s := by
  simp [openCeremony, hi, hz]

theorem openCeremony_refused {st : Status} (hi : s.ceremony.run = .idle) (hz : s.line ≠ .zeroised) :
    openCeremony l p (.refused st) s = answer l 0x04 st .nothing s := by
  simp [openCeremony, hi, hz]

theorem openCeremony_full {params : CeremonyParams} (hi : s.ceremony.run = .idle) (hz : s.line ≠ .zeroised)
    (hf : 511 ≤ s.journal.occupancy) :
    openCeremony l p (.granted params) s = answer l 0x04 .journalFull .nothing (s.setFlag .journalHigh) := by
  simp [openCeremony, hi, hz, requestReservation_refused hf]

theorem openCeremony_granted {params : CeremonyParams} (hi : s.ceremony.run = .idle) (hz : s.line ≠ .zeroised)
    (hf : s.journal.occupancy < 511) :
    openCeremony l p (.granted params) s = startCeremony l p params (reserved .ceremony s) := by
  simp [openCeremony, hi, hz, requestReservation_granted hf]

end

/-- What a bench message does in its context. -/
def benchHandler : Instr → State → State
  | .hello p serial model => hello p serial model
  | .fetch p index => fetchStep p index
  | .confirm p index kcv => confirm p index kcv
  | .bye p => bye p
  | .benchBadMessage p => verdict p .sequence
  | _ => id

theorem exec_bench {c : Instr} {p : Port} (h : benchMessage? c = some p) (s : State) :
    exec c s = .next (benchMessage p (benchHandler c) s) := by
  cases c <;> simp only [benchMessage?, reduceCtorEq, Option.some.injEq] at h <;> subst h <;> rfl

/-- The common gate and the gate with a logon agree on what they discard and answer BUSY. -/
theorem exec_consoleMessage {c : Instr} {l : ConsoleLink} {kind : Byte} (h : consoleMessage? c = some (l, kind)) :
    ∃ handle, ∀ s, exec c s = .next (consoleMessage l kind handle s) := by
  cases hn : needsLogon c with
  | false => exact ⟨_, exec_console h hn⟩
  | true => exact ⟨_, exec_person h hn⟩

/-! ### What a frame spells, as a command -/

/-- A transaction that spells a request is that request (R194, R196, R210). -/
theorem transaction_requestFrame {tag kind : Byte} {body : List Byte} {s : State} (hlen : body.length ≤ 2048)
    (hr : s.running = true) :
    transaction (1 :: requestFrame tag kind body) s =
      ((readRequest tag kind body).getD (requestUnreadable tag kind body.length)) (s.silent (body.length + 7)) := by
  have hf := (readFrame_eq_some (b := requestFrame tag kind body) (f := ⟨tag, kind, body⟩)).2 ⟨hlen, rfl⟩
  simp [transaction, hr, requestWrite, hf, requestFrame_length]

theorem acceptRequest_notRunning {tag kind : Byte} {n : Nat} {h : State → State} {s : State} (hr : s.running = false) :
    acceptRequest tag kind n h s = s := by
  simp [acceptRequest, hr]

/-- A read request is that of a command, and is judged as it (R196, R210). -/
theorem readRequest_run {tag kind : Byte} {b : List Byte} {f : State → State} (hlen : b.length ≤ 2048)
    (h : readRequest tag kind b = some f) :
    ∃ c r, request? c = some r ∧ r.tag = tag ∧ r.kind = kind ∧ r.length ≤ 2048
      ∧ f = acceptRequest r.tag r.kind r.length (requestHandler c) := by
  obtain ⟨c, r, hc, rfl, rfl, hw, -, hf⟩ := request_of_readRequest hlen h
  obtain ⟨_, -, -, hn⟩ := (Laws.Encodable.of_command c hw).1 r hc
  exact ⟨c, r, hc, rfl, rfl, hn, funext fun s => Host.Outcome.next.inj ((hf s).symm.trans (exec_request hc s))⟩

end Sys2Proof.Machine

open Sys2Proof Sys2Proof.Machine Sys2Proof.Safety

/-- Settles O7: the frame reads as the request of its layout, which is judged as the command is. -/
theorem requestFramesRunAsTheirRows : Obligations.RequestFramesRunAsTheirRows := by
  intro c r body s hc hb hw
  obtain ⟨body', hb', hl, hmax⟩ := (Laws.Encodable.of_command c hw).1 r hc
  obtain rfl : body = body' := Option.some.inj (hb.symm.trans hb')
  rw [exec_request hc s]
  cases hr : s.running with
  | false =>
    rw [acceptRequest_notRunning hr]
    exact congrArg Host.Outcome.next (by simp [transaction, hr])
  | true =>
    obtain ⟨f, hf, hexec⟩ := readRequest_of_request hc hb hw
    have hrun : f (s.silent (body.length + 7)) = acceptRequest r.tag r.kind r.length (requestHandler c) (s.silent (body.length + 7)) :=
      Host.Outcome.next.inj ((hexec _).symm.trans (exec_request hc _))
    have htrans := transaction_requestFrame (tag := r.tag) (kind := r.kind) (by omega : body.length ≤ 2048) hr
    rw [hf] at htrans
    exact congrArg Host.Outcome.next (htrans.trans (hrun.trans (acceptRequest_silent _ _ _ _ _ _ hr)))

/-- Settles O5: the gate of R196, whose discards do not look at the request. -/
theorem requestsDiscardedAtTheLimits : Obligations.RequestsDiscardedAtTheLimits := by
  intro c r s hc hw hr
  obtain ⟨_, -, -, hn⟩ := (Laws.Encodable.of_command c hw).1 r hc
  rw [exec_request hc s]
  exact ⟨fun ho => congrArg Host.Outcome.next (acceptRequest_full hr hn ho),
    fun ho ht => congrArg Host.Outcome.next (acceptRequest_sameTag hr hn ho ht)⟩

/-- Settles O30: the gate of R26 and R200, and then the first two checks of R42, which no kind of OPEN comes before. -/
theorem consoleMessagesAreGated : Obligations.ConsoleMessagesAreGated := by
  intro c l kind s hc hr
  obtain ⟨handle, hexec⟩ := exec_consoleMessage hc
  refine ⟨fun hx => ?_, fun ht hu => ?_, fun hs hn hl => ?_, fun hs ho hl => ?_⟩
  · rw [hexec, consoleMessage_discarded hr hx]
  · rw [hexec, consoleMessage_busy ht hu]
  · rw [exec_person hc hn, consoleMessageFrom_notLoggedOn hs hl]
  · obtain ⟨g, hg⟩ := Option.ne_none_iff_exists'.1 hl
    obtain ⟨rfl, hn, hopen⟩ := personHandler_of_opens hc ho (personOf g.who s) (heard l s)
    have hpresent := heard_present hs.1
    rw [exec_person hc hn, consoleMessageFrom_of_loggedOn hs (congrArg (Option.map Logon.who) hg), hopen]
    exact ⟨fun hw => by rw [openCeremony_busy (s := heard l s) hw, answer_of_present hpresent],
      fun hi hz => by rw [openCeremony_zeroised (s := heard l s) hi hz, answer_of_present hpresent]⟩
end

section
/-! Serial frames and transactions, whole: what the bytes spell is what the row of the command does, and what spells nothing is
discarded or answered (R194, R196, R199, R200). -/

namespace Sys2Proof.Machine
open Sys2Proof.Safety

/-- A frame of the layout is judged as the message it spells (R199, R211). -/
theorem judgeBytes_frameAfterStart {kind : Nat} {body : List Byte} (hlen : body.length < 256) :
    judgeBytes (frameAfterStart kind body) = .message (BitVec.ofNat 8 kind) body := by
  have h1 (n : Nat) : b1 n = [BitVec.ofNat 8 n] := by simp [b1, beBytes]
  have hl : (BitVec.ofNat 8 body.length).toNat = body.length := by simpa using hlen
  have hc := beNat_beBytes (w := 2) (BitVec.isLt (crc16 (BitVec.ofNat 8 kind :: BitVec.ofNat 8 body.length :: body)))
  simp only [frameAfterStart, h1, List.cons_append, List.nil_append, judgeBytes, hl]
  simp [beBytes_length, hc]

/-- The byte that completes a frame hands its message on, the receiver IDLE (R199). -/
theorem receiveByte_frame {k : LinkId} {x : Byte} {collected body : List Byte} {gap kind : Nat} {s : State}
    (hrx : receiver k s = .assembling collected gap) (hlen : body.length < 256)
    (hf : collected ++ [x] = frameAfterStart kind body) :
    receiveByte k x s = deliverMessage k (BitVec.ofNat 8 kind) body (setReceiver k .idle s) := by
  simp [receiveByte, hrx, hf, judgeBytes_frameAfterStart hlen]

@[simp] theorem setReceiver_setReceiver (k : LinkId) (r q : Receiver) (s : State) :
    setReceiver k r (setReceiver k q s) = setReceiver k r s := by
  cases k <;> simp [setReceiver, State.setConsole, State.console, State.setBench, State.bench]

@[simp] theorem setReceiver_running (k : LinkId) (r : Receiver) (s : State) : (setReceiver k r s).running = s.running := by
  cases k <;> rfl

/-- A message finds its receiver IDLE in any case (R199). -/
theorem consoleMessage_idle {s : State} (hr : s.running = true) (l : ConsoleLink) (kind : Byte) (h : State → State) :
    consoleMessage l kind h (setReceiver (.console l) .idle s) = consoleMessage l kind h s := by
  simp [consoleMessage, hr]

theorem benchMessage_idle {s : State} (hr : s.running = true) (p : Port) (h : State → State) :
    benchMessage p h (setReceiver (.bench p) .idle s) = benchMessage p h s := by
  simp [benchMessage, hr]

/-- A serial message is one of the console's or of the bench's (R211). -/
theorem message_of_linkMessage {c : Instr} {k : LinkId} {kind : Nat} {body : List Byte}
    (h : linkMessage? c = some (k, kind, body)) :
    (∃ l kind', k = .console l ∧ consoleMessage? c = some (l, kind')) ∨ ∃ p, k = .bench p ∧ benchMessage? c = some p := by
  cases c <;> simp only [linkMessage?, reduceCtorEq, Option.some.injEq, Prod.mk.injEq] at h <;> obtain ⟨rfl, -, -⟩ := h
  case hello | fetch | confirm | bye => exact .inr ⟨_, rfl, rfl⟩
  all_goals exact .inl ⟨_, _, rfl, rfl⟩

/-- A message finds the receiver of its link IDLE in any case (R199). -/
theorem exec_message_idle {c : Instr} {k : LinkId} {kind : Nat} {body : List Byte} {s : State}
    (h : linkMessage? c = some (k, kind, body)) (hr : s.running = true) : exec c (setReceiver k .idle s) = exec c s := by
  rcases message_of_linkMessage h with ⟨l, kind', rfl, hc⟩ | ⟨p, rfl, hc⟩
  · obtain ⟨handle, hexec⟩ := exec_consoleMessage hc
    rw [hexec, hexec, consoleMessage_idle hr]
  · rw [exec_bench hc, exec_bench hc, benchMessage_idle hr]

/-- The row of a frame that spells no message (R150, R200). -/
def badMessage : LinkId → Byte → Instr
  | .console l, kind => .consoleBadMessage l kind
  | .bench p, _ => .benchBadMessage p

/-- What spells no message is the bad message of its link (R150, R200). -/
theorem deliverMessage_bad {k : LinkId} {x : Byte} {body : List Byte} {s : State} (h : readMessage k x body = none)
    (hr : s.running = true) :
    Host.Outcome.next (deliverMessage k x body (setReceiver k .idle s)) = exec (badMessage k x) s := by
  rw [deliverMessage_of_unread h]
  cases k with
  | console l => exact congrArg Host.Outcome.next (consoleMessage_idle hr l x _)
  | bench p => exact congrArg Host.Outcome.next (benchMessage_idle hr p _)

/-- A body that is that of no message, and of no OPEN of an unknown kind, does not read. -/
theorem readMessage_eq_none {k : LinkId} {kind : Byte} {body : List Byte} (hlen : body.length ≤ 255)
    (hc : ∀ c, c.wf = true → linkMessage? c ≠ some (k, kind.toNat, body))
    (hu : ¬(kind = 0x04 ∧ (∃ l, k = .console l) ∧ ∃ ceremony rest, body = ceremony :: rest ∧ ceremony.toNat ∉ [1, 2, 3, 4, 5, 6])) :
    readMessage k kind body = none := by
  refine Option.eq_none_iff_forall_ne_some.2 fun f hf => ?_
  cases k with
  | console l =>
    rcases message_of_readConsole hlen hf with ⟨c, hm, hw, -⟩ | ⟨hk, ceremony, rest, hb, hn, -⟩
    · exact hc c hw hm
    · exact hu ⟨hk, ⟨l, rfl⟩, ceremony, rest, hb, hn⟩
  | bench p =>
    obtain ⟨c, hm, hw, -⟩ := message_of_readBench hlen hf
    exact hc c hw hm

/-- An OPEN of a kind that is not one of the six is read as such, whatever follows it (log entry 11). -/
theorem readMessage_unknownOpen {l : ConsoleLink} {ceremony : Byte} {rest : List Byte} (h : ceremony.toNat ∉ [1, 2, 3, 4, 5, 6]) :
    readMessage (.console l) 4 (ceremony :: rest) = some (messageOpenUnknown l) := by
  have hopen : readOpen l (ceremony :: rest) = some (messageOpenUnknown l) := by
    simp only [List.mem_cons, List.not_mem_nil, or_false, not_or] at h
    simp only [readOpen, readByte_cons]
    split
    case h_7 => rfl
    all_goals omega
  exact hopen

theorem messageOpenUnknown_eq (l : ConsoleLink) : ∃ handle, messageOpenUnknown l = consoleMessage l 0x04 handle := by
  unfold messageOpenUnknown consoleMessageFrom
  exact ⟨_, rfl⟩

end Sys2Proof.Machine

open Sys2Proof Sys2Proof.Machine Sys2Proof.Safety

/-- Settles O52: a whole frame is judged as the message it spells, which reads as that message's row. -/
theorem linkFramesRunAsTheirRows : Obligations.LinkFramesRunAsTheirRows := by
  intro k x collected gap s hr hrx
  have hbyte : exec (.linkByteReceived k x) s = .next (receiveByte k x s) := congrArg Host.Outcome.next (by simp [hr])
  refine ⟨fun c kind body hm hw hf => ?_, fun kind body hlen hf hc hu => ?_, fun l ceremony rest hk hlen hn hf => ?_⟩
  · obtain ⟨hkind, hlen⟩ := (Laws.Encodable.of_command c hw).2 _ hm
    obtain ⟨f, hread, hexec⟩ := readMessage_of_message (x := BitVec.ofNat 8 kind) hm hw (by simpa using hkind)
    rw [hbyte, receiveByte_frame hrx hlen hf, deliverMessage_of_read hread, ← hexec, exec_message_idle hm hr]
  · rw [hbyte, receiveByte_frame hrx (by omega) hf, BitVec.ofNat_toNat, BitVec.setWidth_eq,
      deliverMessage_bad (readMessage_eq_none hlen hc hu) hr]
    cases k <;> rfl
  · subst hk
    have hread := readMessage_unknownOpen (l := l) (rest := rest) hn
    obtain ⟨handle, hgate⟩ := messageOpenUnknown_eq l
    have hrun : exec (.linkByteReceived (.console l) x) s = .next (messageOpenUnknown l s) := by
      rw [hbyte, receiveByte_frame hrx (by simp; omega) hf]
      exact congrArg Host.Outcome.next
        ((congrFun (deliverMessage_of_read hread) _).trans (by rw [hgate, consoleMessage_idle hr]))
    refine ⟨fun hx => ?_, fun ht hu => ?_, fun hs => ⟨fun hl => ?_, fun hl => ?_⟩⟩
    · rw [hrun, hgate, consoleMessage_discarded hr hx]
    · rw [hrun, hgate, consoleMessage_busy ht hu]
    · exact hrun.trans (congrArg Host.Outcome.next (consoleMessageFrom_notLoggedOn hs hl))
    · obtain ⟨g, hg⟩ := Option.ne_none_iff_exists'.1 hl
      have hpresent := heard_present hs.1
      rw [hrun, messageOpenUnknown, consoleMessageFrom_of_loggedOn hs (congrArg (Option.map Logon.who) hg)]
      refine ⟨fun hw => ?_, fun hi => ⟨fun hz => ?_, fun hz => ?_⟩⟩
      · rw [openCeremony_busy (s := heard l s) hw, answer_of_present hpresent]
      · rw [openCeremony_zeroised (s := heard l s) hi hz, answer_of_present hpresent]
      · rw [openCeremony_refused (s := heard l s) hi hz, answer_of_present hpresent]
end

section
/-! The judgement of every control port transaction (R194, R196). -/

namespace Sys2Proof.Machine
open Sys2Proof.Safety

/-- A frame whose body reads as no request of its kind (R196, R210). -/
theorem readRequest_eq_none {tag kind : Byte} {body : List Byte} (hlen : body.length ≤ 2048)
    (hc : ∀ c r, request? c = some r → r.kind = kind → c.wf = true → requestBody? c ≠ some body) :
    readRequest tag kind body = none := by
  refine Option.eq_none_iff_forall_ne_some.2 fun f hf => ?_
  obtain ⟨c, r, hr, -, hk, hw, hb, -⟩ := request_of_readRequest hlen hf
  exact hc c r hr hk hw hb

theorem requestUnreadable_of_accepts {tag kind : Byte} {n : Nat} {s : State} (hn : n ≤ 2048) (ha : Accepts tag s) :
    requestUnreadable tag kind n s = refused tag kind n .range s := by
  rw [requestUnreadable, acceptRequest_of_accepts ha hn]
  exact refuse_accepted ha

end Sys2Proof.Machine

open Sys2Proof Sys2Proof.Machine Sys2Proof.Safety

/-- Settles O6: the type byte, then for a request write its frame, then its body. -/
theorem transactionsAreJudged : Obligations.TransactionsAreJudged := by
  intro s hr
  have htrans (bytes : List Byte) : exec (.requestWriteDiscard bytes) s = .next (transaction bytes s) := rfl
  refine ⟨by simp [htrans, transaction], fun type sent h1 h2 => ?_, fun sent => ?_, fun sent hs => ?_,
    fun tag kind body hlen ha _ _ hc => ?_⟩
  · refine ⟨(List.range sent.length).map fun k => Config.strayByte (s.freeCount + k), by simp, ?_⟩
    simp only [htrans, transaction, hr, h1, h2]
    rfl
  · simp only [htrans, transaction, hr]
    rfl
  · simp only [htrans, transaction, hr, requestWrite, readFrame_eq_none hs]
    rfl
  · rw [htrans, transaction_requestFrame hlen hr, readRequest_eq_none hlen hc, Option.getD_none]
    exact congrArg Host.Outcome.next
      ((acceptRequest_silent _ _ _ _ _ _ hr).trans (requestUnreadable_of_accepts hlen ha))
end

section
/-! The statements of one event each: the front command, the values after a reset, the age limit of an entry, the round robin. -/

namespace Sys2Proof.Machine
open Sys2Proof.Safety

/-- The age limit is reached exactly when the entry ages, a profile gives the limit, and the time is there (R115). -/
theorem agedAt_iff {s : State} {i : RegIx} :
    agedAt s i = true ↔ ∃ e time plan, s.registry.get i = some e ∧ e.unboundSince = some time ∧ s.profile = some plan
      ∧ plan.params.ageLimit ≤ time := by
  unfold agedAt
  split
  next plan time hp ht =>
    obtain ⟨e, he, ht⟩ := Option.bind_eq_some_iff.1 ht
    simp [hp, he, ht]
  next hno =>
    refine iff_of_false (by simp) fun ⟨e, time, plan, he, ht, hp, _⟩ => ?_
    exact hno plan time hp (by simp [he, ht])

theorem exec_entryAged {s : State} (hr : s.running = true) (i : RegIx) : exec (.entryAged i) s = .next (entryAged i s) :=
  congrArg Host.Outcome.next (by simp [hr])

theorem entryAged_of_not {s : State} {i : RegIx} (h : ¬agedAt s i = true) : entryAged i s = s := if_neg h

/-- The `k`th requester counted upward from the one after the last granted (R135). -/
def nthRequester (last : Fin 10) (k : Nat) : Fin 10 := ⟨(last.val + 1 + k) % 10, Nat.mod_lt _ (by omega)⟩

/-- The grant goes to the first requester in that order with a pending job. -/
theorem find?_grantOrder {last : Fin 10} {p : Fin 10 → Bool} {k : Nat} (hk : k < 10) (hp : p (nthRequester last k) = true)
    (hn : ∀ j < k, p (nthRequester last j) = false) : (grantOrder last).find? p = some (nthRequester last k) := by
  have horder : grantOrder last = (List.range 10).map (nthRequester last) := rfl
  have hfirst : (List.range 10).find? (p ∘ nthRequester last) = some k :=
    List.find?_range_eq_some.2 ⟨hp, List.mem_range.2 hk, fun j hj => by simp [hn j hj]⟩
  rw [horder, List.find?_map, hfirst]
  rfl

end Sys2Proof.Machine

open Sys2Proof Sys2Proof.Machine Sys2Proof.Safety

/-- Settles O1: one step is by definition the front command run. -/
theorem stepRunsFrontCommand : Obligations.StepRunsFrontCommand := fun _ _ _ => rfl

/-- Settles O4: the reset state evaluates to each value, tables by their fill. -/
theorem resetStateValues : Obligations.ResetStateValues := by
  refine ⟨rfl, rfl, fun i => Tab.get_fill .., fun c => Tab.get_fill .., rfl, fun i => Tab.get_fill .., rfl, fun p => ?_, rfl, rfl, rfl,
    rfl, rfl, fun r => Tab.get_fill .., rfl, fun l => ?_, fun p => ?_, rfl, rfl, rfl, rfl, rfl, rfl, by decide⟩
  · exact ⟨Tab.get_fill .., congrArg Bench.ctx (Tab.get_fill ..)⟩
  · simp [State.console, State.reset, Console.initial]
  · simp [State.bench, State.reset, Bench.initial]

/-- Settles O28: R115 asks for an entry that ages, the limit of a profile, and a time that has reached it. -/
theorem agedEntryIsRemoved : Obligations.AgedEntryIsRemoved := by
  intro i s hr
  rw [exec_entryAged hr]
  refine ⟨fun e time plan he ht hp => ⟨fun hle => ?_, fun hlt => ?_⟩, fun e he ht => ?_, fun he => ?_⟩
  · exact congrArg Host.Outcome.next (if_pos (agedAt_iff.2 ⟨e, time, plan, he, ht, hp, hle⟩))
  all_goals
    refine congrArg Host.Outcome.next (entryAged_of_not fun h => ?_)
    obtain ⟨e', time', plan', he', ht', hp', hle⟩ := agedAt_iff.1 h
    grind

/-- Settles O44: the order of R135 is the requesters counted upward from the one after the last granted. -/
theorem grantsGoRoundRobin : Obligations.GrantsGoRoundRobin := by
  intro s
  refine ⟨fun h => ?_, fun k r hk hr hw hlower => ?_⟩
  · have : (grantOrder s.engine.lastGranted).find? (fun r => (s.engine.waiting.get r).isSome) = none := by simp [h]
    simp [grantNext, this]
  · obtain rfl : r = nthRequester s.engine.lastGranted k := Fin.ext hr
    have hfind := find?_grantOrder (last := s.engine.lastGranted) (p := fun r => (s.engine.waiting.get r).isSome) hk
      (Option.isSome_iff_ne_none.2 hw) fun j hj => by simp [hlower j (nthRequester _ j) hj rfl]
    simp [grantNext, hfind]
end

section
/-! The invariants in the state right after reset (R108, R193, R195, R207): every table is filled with its initial value. -/

namespace Sys2Proof.Machine
open Sys2Proof.Safety

@[simp] theorem reset_slot (i : SlotIx) : State.reset.slot i = Slot.initial := Tab.get_fill ..
@[simp] theorem reset_step (p : Port) : State.reset.step p = none := Tab.get_fill ..
@[simp] theorem reset_registry_get (i : RegIx) : State.reset.registry.get i = none := Tab.get_fill ..
@[simp] theorem reset_console (l : ConsoleLink) : State.reset.console l = Console.initial := Tab.get_fill ..
@[simp] theorem reset_bench (p : Port) : State.reset.bench p = Bench.initial := Tab.get_fill ..
@[simp] theorem reset_waiting (r : Fin 10) : State.reset.engine.waiting.get r = none := Tab.get_fill ..
@[simp] theorem reset_ctx (p : Port) : State.reset.ctx p = .off := by rw [State.ctx, reset_bench]; rfl

theorem portBooked_reset : PortBooked State.reset where
  bound := by decide
  tags := by decide
  queued := .nil
  withheld := .nil
  openLine := fun _ h => by simp [State.reset] at h

theorem storeBooked_reset : StoreBooked State.reset :=
  ⟨by decide, fun p => by simp [State.reset, State.journal, Store.initial, Journal.initial, State.step], by decide, by decide⟩

theorem workBooked_reset : WorkBooked State.reset where
  steps p := by simp [hasStep]
  ceremony := by decide
  importUnit := by decide
  advance := by decide
  assemble := fun _ h => by simp [State.reset] at h
  erase := fun _ h => by simp [State.reset] at h
  erasing := fun i k h => by simp [Slot.initial] at h
  target := fun _ h => by simp [State.reset] at h
  sessions := fun p h => by simp [inSession] at h
  stream := fun h => absurd rfl h
  setup := fun _ p => by simp [hasStep]

theorem claims_of_none {s : State} {i : SlotIx} (hs : ∀ p, s.step p = none) (hi : s.importWork = none) : claims s i = 0 := by
  have hzero : stepClaims s i = fun _ => 0 := funext fun p => by simp [stepClaims, hs]
  simp [claims, importClaims, hi, hzero]

end Sys2Proof.Machine

open Sys2Proof Sys2Proof.Machine Sys2Proof.Safety

/-- Settles O60: in the reset state nothing is held, so each invariant is about empty tables. -/
theorem invariantsHoldAtReset : Obligations.InvariantsHoldAtReset := by
  refine ⟨portBooked_reset, ⟨by decide, by decide, by decide⟩, ⟨storeBooked_reset, fun _ => workBooked_reset⟩, fun _ i => ?_,
    fun h => by simp [State.reset] at h, fun i _ _ h => ?_, fun i e h => ?_, fun _ l c h => ?_, fun l => ?_, ?_, ?_, ?_⟩
  · simpa [Slot.initial] using (claims_of_none (s := State.reset) reset_step rfl).symm
  · simp [derivationFields, Slot.initial, SlotContent.key?] at h
  · simp at h
  · simp [LoggedOn, Console.initial] at h
  · simp [Console.initial, Console.answersDue]
  · exact fun _ r => reset_waiting r
  · exact fun r j h => by simp at h
  · exact fun j h => by simp [State.reset, Engine.initial] at h
end

section
/-! What one command can do, in the terms of the gates: every command, frames and transactions included, comes down to one of
these changes. An invariant is kept by every step when each of them keeps it. -/

namespace Sys2Proof.Machine
open Sys2Proof.Safety

/-- The completion of a job is handed to the unit that requested it (R137). -/
inductive Completes : (JobInputs → Bool) → (Job → State → State) → Prop
  | prepareShared : Completes JobInputs.isPrepareShared prepareHandled
  | prepareDerived : Completes JobInputs.isPrepareDerived prepareHandled
  | checkComponent : Completes JobInputs.isCheckComponent checkComponentHandled
  | combine : Completes JobInputs.isCombine combineHandled
  | unwrap : Completes JobInputs.isUnwrap unwrapHandled

/-- A change of an input line or of a supply (R102, R105, R106, R108). -/
inductive LevelChange : (State → State) → Prop
  | consoleArrives (l : ConsoleLink) : LevelChange (consoleArrives l)
  | consoleLeaves (l : ConsoleLink) : LevelChange (consoleLeaves l)
  | terminalArrives (p : Port) : LevelChange (terminalArrives p)
  | terminalLeaves (p : Port) : LevelChange (terminalLeaves p)
  | coverOpens : LevelChange coverOpens
  | coverCloses : LevelChange fun s => { s with tamperLine := false }
  | powerArrives : LevelChange powerArrives
  | powerLeaves : LevelChange powerLeaves
  | batteryLeaves : LevelChange batteryLeaves
  | pinAsserted : LevelChange fun s => { s with resetPin := true }
  | pinReleased : LevelChange pinReleased

/-- An expiry (R32, R57, R115, R171). -/
inductive Expiry : (State → State) → Prop
  | custodianIdle (l : ConsoleLink) : Expiry (custodianIdleExpired l)
  | window : Expiry windowExpired
  | sessionIdle (p : Port) : Expiry (sessionIdleExpired p)
  | entryAged (i : RegIx) : Expiry (entryAged i)

/-- What one command can do. -/
inductive Happens (s : State) : State → Prop
  | nothing : Happens s s
  | frameError (out : List Byte) (free : Nat) : Happens s (frameErrorEvent { s with shiftedOut := out, freeCount := free })
  | overrun (out : List Byte) : Happens s (overrunEvent { s with shiftedOut := out })
  | fetch (clocks : Nat) : s.running = true → Happens s (responseFetch clocks s)
  | request {c : Instr} {r : Request} : request? c = some r → Accepts r.tag s →
      Happens s (requestHandler c (s.withRequest r.tag r.kind r.length))
  | unreadable (tag kind : Byte) (n : Nat) : Accepts tag s → Happens s (refuse tag kind .range (s.withRequest tag kind n))
  | receiver (k : LinkId) (r : Receiver) : Happens s (setReceiver k r s)
  | busy (l : ConsoleLink) (kind : Byte) : Takes l s → (s.console l).unanswered = true →
      Happens s (told l kind .busy .nothing (heard l s))
  | notLoggedOn (l : ConsoleLink) (kind : Byte) : Listens l s → Happens s (told l kind .notLoggedOn .nothing (heard l s))
  | console {c : Instr} {l : ConsoleLink} {kind : Byte} : consoleMessage? c = some (l, kind) → needsLogon c = false →
      Listens l s → Happens s (consoleHandler c (heard l s))
  | person {c : Instr} {l : ConsoleLink} {kind : Byte} {who : Cust} : consoleMessage? c = some (l, kind) →
      needsLogon c = true → Listens l s → LoggedOn l who s → Happens s (personHandler c (personOf who s) (heard l s))
  | unknownOpen {l : ConsoleLink} {who : Cust} : Listens l s → LoggedOn l who s →
      Happens s (openCeremony l (personOf who s) (.refused .wrongState) (heard l s))
  | bench {c : Instr} {p : Port} : benchMessage? c = some p → Hears p s → Happens s (benchHandler c (heardAt p s))
  | sent (k : LinkId) : Happens s (transmitDone k s)
  | level {change : State → State} : LevelChange change → Happens s (change s)
  | expiry {expire : State → State} : Expiry expire → s.running = true → Happens s (expire s)
  | completion {fits : JobInputs → Bool} {handle : Job → State → State} {j : Job} : Completes fits handle →
      s.running = true → s.engine.running = some j → fits j.inputs = true → Happens s (grantNext (handle j (jobTaken s)))

/-! ### The gates -/

/-- A judged request is discarded, or handed to its block (R196). -/
theorem happens_acceptRequest {tag kind : Byte} {n : Nat} {handle : State → State} {s : State}
    (h : Accepts tag s → Happens s (handle (s.withRequest tag kind n))) : Happens s (acceptRequest tag kind n handle s) := by
  cases hr : s.running with
  | false => rw [acceptRequest_notRunning hr]; exact .nothing
  | true =>
    by_cases hn : n ≤ 2048
    · by_cases ho : s.outstanding.length < 8
      · by_cases ht : ∃ o ∈ s.outstanding, o.tag = tag
        · rw [acceptRequest_sameTag hr hn ho ht]; exact .frameError ..
        · have ha : Accepts tag s := ⟨hr, ho, fun o hm he => ht ⟨o, hm, he⟩⟩
          rw [acceptRequest_of_accepts ha hn]; exact h ha
      · rw [acceptRequest_full hr hn (by omega)]; exact .overrun ..
    · rw [acceptRequest_tooLong hr (by omega)]; exact .frameError ..

/-- A console message is discarded, answered BUSY, or handed on (R26, R200). -/
theorem happens_consoleMessage {l : ConsoleLink} {kind : Byte} {handle : State → State} {s : State}
    (h : Listens l s → Happens s (handle (heard l s))) : Happens s (consoleMessage l kind handle s) := by
  cases hr : s.running with
  | false => simp only [consoleMessage, hr]; exact .nothing
  | true =>
    by_cases hx : (s.console l).present = false ∨ 4 ≤ (s.console l).answersDue
    · rw [consoleMessage_discarded hr hx]; exact .receiver (.console l) .idle
    · have ht : Takes l s := ⟨hr, by simp_all, by omega⟩
      cases hu : (s.console l).unanswered with
      | true => rw [consoleMessage_busy ht hu]; exact .busy l kind ht hu
      | false => rw [consoleMessage_of_listens ⟨ht, hu⟩]; exact h ⟨ht, hu⟩

theorem happens_consoleMessageFrom {l : ConsoleLink} {kind : Byte} {handle : Person → State → State} {s : State}
    (h : ∀ who, Listens l s → LoggedOn l who s → Happens s (handle (personOf who s) (heard l s))) :
    Happens s (consoleMessageFrom l kind handle s) := by
  cases hg : (s.console l).logon with
  | none =>
    refine happens_consoleMessage fun hs => ?_
    have heq := consoleMessageFrom_notLoggedOn (kind := kind) (h := handle) hs hg
    rw [consoleMessageFrom, consoleMessage_of_listens hs] at heq
    rw [heq]; exact .notLoggedOn l kind hs
  | some g =>
    have hw : LoggedOn l g.who s := congrArg (Option.map Logon.who) hg
    refine happens_consoleMessage fun hs => ?_
    have heq := consoleMessageFrom_of_loggedOn (kind := kind) (h := handle) hs hw
    rw [consoleMessageFrom, consoleMessage_of_listens hs] at heq
    rw [heq]; exact h g.who hs hw

theorem happens_benchMessage {p : Port} {handle : State → State} {s : State}
    (h : Hears p s → Happens s (handle (heardAt p s))) : Happens s (benchMessage p handle s) := by
  cases hr : s.running with
  | false => simp only [benchMessage, hr]; exact .nothing
  | true =>
    by_cases hx : (s.bench p).present = false ∨ 4 ≤ (s.bench p).answersDue ∨ s.ctx p = .off ∨ s.ctx p = .vacant
    · rw [benchMessage_discarded hr hx]; exact .receiver (.bench p) .idle
    · have hs : Hears p s := by
        simp only [not_or] at hx
        refine ⟨hr, by simpa using hx.1, by omega, ?_⟩
        cases hc : s.ctx p <;> simp_all [PortContext.takesMessages]
      rw [benchMessage_of_hears hs]; exact h hs

theorem happens_request {c : Instr} {r : Request} {s : State} (h : request? c = some r) :
    Happens s (acceptRequest r.tag r.kind r.length (requestHandler c) s) :=
  happens_acceptRequest fun ha => .request h ha

theorem happens_completeJob {fits : JobInputs → Bool} {handle : Job → State → State} {s : State} (h : Completes fits handle) :
    Happens s (completeJob fits handle s) := by
  unfold completeJob
  cases hr : s.running with
  | false => exact .nothing
  | true =>
    cases hj : s.engine.running with
    | none => exact .nothing
    | some j =>
      change Happens s (if fits j.inputs then grantNext (handle j (jobTaken s)) else s)
      split
      next hf => exact .completion h hr hj hf
      next => exact .nothing

theorem happens_expiry {expire : State → State} {s : State} (h : Expiry expire) :
    Happens s (if s.running then expire s else s) := by
  split
  next hr => exact .expiry h hr
  next => exact .nothing

/-! ### The frames (R194, R196, R199, R200) -/

theorem happens_message {c : Instr} {k : LinkId} {kind : Nat} {body : List Byte} {s t : State}
    (h : linkMessage? c = some (k, kind, body)) (hr : s.running = true)
    (ht : exec c (setReceiver k .idle s) = .next t) : Happens s t := by
  rw [exec_message_idle h hr] at ht
  rcases message_of_linkMessage h with ⟨l, kind', rfl, hc⟩ | ⟨p, rfl, hc⟩
  · cases hn : needsLogon c with
    | false =>
      rw [exec_console hc hn] at ht
      cases ht; exact happens_consoleMessage fun hs => .console hc hn hs
    | true =>
      rw [exec_person hc hn] at ht
      cases ht; exact happens_consoleMessageFrom fun who hs hw => .person hc hn hs hw
  · rw [exec_bench hc] at ht
    cases ht; exact happens_benchMessage fun hs => .bench hc hs

theorem happens_deliver {k : LinkId} {kind : Byte} {body : List Byte} {s : State} (hlen : body.length ≤ 255)
    (hr : s.running = true) : Happens s (deliverMessage k kind body (setReceiver k .idle s)) := by
  cases hread : readMessage k kind body with
  | none =>
    rw [deliverMessage_of_unread hread]
    cases k with
    | console l =>
      change Happens s (consoleMessage l kind _ (setReceiver (.console l) .idle s))
      rw [consoleMessage_idle hr]
      exact happens_consoleMessage fun hs => .console (c := .consoleBadMessage l kind) rfl rfl hs
    | bench p =>
      change Happens s (benchMessage p _ (setReceiver (.bench p) .idle s))
      rw [benchMessage_idle hr]
      exact happens_benchMessage fun hs => .bench (c := .benchBadMessage p) rfl hs
  | some f =>
    rw [deliverMessage_of_read hread]
    cases k with
    | console l =>
      rcases message_of_readConsole hlen hread with ⟨c, hm, -, hexec⟩ | ⟨-, -, -, -, -, rfl⟩
      · exact happens_message hm hr (hexec _)
      · obtain ⟨_, hgate⟩ := messageOpenUnknown_eq l
        rw [hgate, consoleMessage_idle hr, ← hgate]
        exact happens_consoleMessageFrom fun who hs hw => .unknownOpen hs hw
    | bench p =>
      obtain ⟨c, hm, -, hexec⟩ := message_of_readBench hlen hread
      exact happens_message hm hr (hexec _)

/-- A frame judged whole has a body of one byte's length (R199). -/
theorem length_of_judgeBytes {b body : List Byte} {kind : Byte} (h : judgeBytes b = .message kind body) : body.length ≤ 255 := by
  unfold judgeBytes at h
  split at h
  next len rest =>
    split at h
    · cases h
    · simp only at h
      split at h
      · cases h
        have := len.isLt
        simp; omega
      · cases h
  · cases h

theorem happens_receiveByte {k : LinkId} {x : Byte} {s : State} (hr : s.running = true) : Happens s (receiveByte k x s) := by
  unfold receiveByte
  split
  · split
    · exact .receiver ..
    · exact .nothing
  · split
    · exact .receiver ..
    · exact .receiver ..
    next hj => exact happens_deliver (length_of_judgeBytes hj) hr

theorem happens_requestWrite {b : List Byte} {n : Nat} {s : State} (hr : s.running = true) :
    Happens s (requestWrite b (s.silent n)) := by
  unfold requestWrite
  cases hf : readFrame b with
  | none => exact .frameError _ s.freeCount
  | some f =>
    have hlen := (readFrame_eq_some.1 hf).1
    cases hread : readRequest f.tag f.kind f.body with
    | none =>
      simp only [hread, Option.getD_none, requestUnreadable, acceptRequest_silent _ _ _ _ _ _ hr]
      exact happens_acceptRequest fun ha => .unreadable _ _ _ ha
    | some g =>
      obtain ⟨c, r, hc, -, -, -, rfl⟩ := readRequest_run hlen hread
      simp only [hread, Option.getD_some, acceptRequest_silent _ _ _ _ _ _ hr]
      exact happens_request hc

theorem happens_transaction (bytes : List Byte) (s : State) : Happens s (transaction bytes s) := by
  unfold transaction
  cases hr : s.running with
  | false => exact .nothing
  | true =>
    cases bytes with
    | nil => exact .nothing
    | cons type rest =>
      simp only [Bool.not_true, Bool.false_eq_true, if_false]
      split
      · exact happens_requestWrite hr
      · split
        · exact .fetch _ hr
        · exact .frameError ..

/-! ### The commands -/

theorem happens_of_exec {c : Instr} {s t : State} (h : exec c s = .next t) : Happens s t := by
  cases hreq : request? c with
  | some r =>
    rw [exec_request hreq] at h
    cases h; exact happens_request hreq
  | none =>
  cases hcon : consoleMessage? c with
  | some m =>
    cases hn : needsLogon c with
    | false =>
      rw [exec_console hcon hn] at h
      cases h; exact happens_consoleMessage fun hs => .console hcon hn hs
    | true =>
      rw [exec_person hcon hn] at h
      cases h; exact happens_consoleMessageFrom fun who hs hw => .person hcon hn hs hw
  | none =>
  cases hben : benchMessage? c with
  | some p =>
    rw [exec_bench hben] at h
    cases h; exact happens_benchMessage fun hs => .bench hben hs
  | none =>
  cases c <;> simp only [request?, consoleMessage?, benchMessage?, reduceCtorEq] at hreq hcon hben <;>
    obtain rfl := Host.Outcome.next.inj h
  case responseFetch clocks =>
    cases hr : s.running with
    | false => simp only [responseFetch, hr]; exact .nothing
    | true => exact .fetch clocks hr
  case requestWriteDiscard bytes => exact happens_transaction bytes s
  case linkBadFrame k =>
    split
    · exact .receiver k .idle
    · exact .nothing
  case receiverTimeout k =>
    split
    · exact .receiver k .idle
    · exact .nothing
  case transmitDone k =>
    split
    · exact .sent k
    · exact .nothing
  case linkByteReceived k x =>
    split
    next hr => exact happens_receiveByte hr
    next => exact .nothing
  case tamperLatchSet =>
    unfold latchEvent
    split
    · exact .nothing
    · exact .level .coverOpens
  case consolePresentAsserted l => exact .level (.consoleArrives l)
  case consolePresentDeasserted l => exact .level (.consoleLeaves l)
  case terminalPresentAsserted p => exact .level (.terminalArrives p)
  case terminalPresentDeasserted p => exact .level (.terminalLeaves p)
  case tamperLineAsserted => exact .level .coverOpens
  case tamperLineDeasserted => exact .level .coverCloses
  case powerOn => exact .level .powerArrives
  case powerOff => exact .level .powerLeaves
  case batteryLoss => exact .level .batteryLeaves
  case resetPinAsserted => exact .level .pinAsserted
  case resetPinReleased => exact .level .pinReleased
  case custodianIdleExpiry l => exact happens_expiry (.custodianIdle l)
  case windowExpiry => exact happens_expiry .window
  case sessionIdleExpiry p => exact happens_expiry (.sessionIdle p)
  case entryAged i => exact happens_expiry (.entryAged i)
  case prepareSharedDone => exact happens_completeJob .prepareShared
  case prepareDerivedDone => exact happens_completeJob .prepareDerived
  case checkComponentDone => exact happens_completeJob .checkComponent
  case combineDone => exact happens_completeJob .combine
  case unwrapDone => exact happens_completeJob .unwrap

/-- A step is a second, or the front command's event in the state it has left. -/
theorem happens_of_step {s t : State} (h : step s = .next t) :
    t = tick s ∨ ∃ c rest, s.pending = c :: rest ∧ Happens { s with pending := rest } t := by
  unfold step at h
  split at h
  · cases h; exact .inl rfl
  next c rest hp => exact .inr ⟨c, rest, hp, happens_of_exec h⟩

end Sys2Proof.Machine
end

section
/-! A reset by its parts (R107, R175, R176): the pending steps voided, the links and contexts at their reset states, and what every
field reads after it. -/

namespace Sys2Proof.Machine
open Sys2Proof.Safety

/-! ### The pending steps (R175) -/

section
variable (reason : VoidReason) (s : State)

/-- With the journal and the steps of another state, for what changes only those. -/
def withSteps (j : Journal) (steps : Tab (Option PendingStep) 8) (s : State) : State :=
  { s with store := { s.store with journal := j, steps := steps } }

theorem voidPending_frame (p : Port) : withSteps s.journal s.store.steps (voidPending reason p s) = s := by
  unfold voidPending
  split <;> rfl

theorem voidPendings_frame (l : List Port) :
    withSteps s.journal s.store.steps (l.foldl (fun s p => voidPending reason p s) s) = s := by
  induction l generalizing s with
  | nil => rfl
  | cons p l ih =>
    exact (congrArg (withSteps s.journal s.store.steps) (ih (voidPending reason p s)) :).trans (voidPending_frame reason s p)

theorem voidAllPending_frame : withSteps s.journal s.store.steps (voidAllPending reason s) = s :=
  voidPendings_frame reason s allPorts

theorem keeps_of_withSteps {s t : State} (h : withSteps s.journal s.store.steps t = s) :
    t.store.slots = s.store.slots ∧ t.store.registry = s.store.registry ∧ t.store.custodians = s.store.custodians
      ∧ t.store.profile = s.store.profile ∧ t.store.tamperLatch = s.store.tamperLatch ∧ t.benches = s.benches
      ∧ t.power = s.power ∧ t.resetPin = s.resetPin ∧ t.tamperLine = s.tamperLine ∧ t.battery = s.battery :=
  ⟨congrArg (fun x => x.store.slots) h, congrArg (fun x => x.store.registry) h,
    congrArg (fun x => x.store.custodians) h, congrArg (fun x => x.store.profile) h,
    congrArg (fun x => x.store.tamperLatch) h, (congrArg State.benches h :), (congrArg State.power h :), (congrArg State.resetPin h :),
    (congrArg State.tamperLine h :), (congrArg State.battery h :)⟩

theorem voidPending_step (p q : Port) : (voidPending reason p s).step q = if p = q then none else s.step q := by
  unfold voidPending
  split
  next h => split <;> simp_all
  next => exact Tab.get_set ..

/-- The VOIDED record of a port's pending step (R175). -/
def voidedStep (reason : VoidReason) (s : State) (p : Port) : Option RecordBody :=
  (s.step p).map fun ps => .voided ps.facts ps.expected reason

theorem voidPending_recordBodies (p : Port) :
    recordBodies (voidPending reason p s) = recordBodies s ++ (voidedStep reason s p).toList := by
  unfold voidPending voidedStep
  split
  next h => simp [h]
  next ps h => simp [h, recordBodies, writeRecord, Journal.append, State.journal, State.setJournal, State.setStep]

theorem voidPendings_spec (l : List Port) (hl : l.Nodup) :
    (∀ q, (l.foldl (fun s p => voidPending reason p s) s).step q = if q ∈ l then none else s.step q)
      ∧ recordBodies (l.foldl (fun s p => voidPending reason p s) s) = recordBodies s ++ l.filterMap (voidedStep reason s) := by
  induction l generalizing s with
  | nil => simp
  | cons p l ih =>
    obtain ⟨hp, hl⟩ := List.nodup_cons.1 hl
    obtain ⟨hstep, hrec⟩ := ih (voidPending reason p s) hl
    have hrest : l.filterMap (voidedStep reason (voidPending reason p s)) = l.filterMap (voidedStep reason s) :=
      List.filterMap_congr fun q hq => by
        have hne : p ≠ q := fun h => hp (h ▸ hq)
        rw [voidedStep, voidPending_step, if_neg hne, voidedStep]
    refine ⟨fun q => ?_, ?_⟩
    · rw [List.foldl_cons, hstep, voidPending_step]
      by_cases hq : q = p
      · simp [hq]
      · simp [hq, Ne.symm hq]
    · rw [List.foldl_cons, hrec, hrest, voidPending_recordBodies, List.append_assoc]
      cases h : voidedStep reason s p <;> simp [h]

theorem mem_allPorts (p : Port) : p ∈ allPorts := by fin_cases p <;> simp [allPorts]

@[simp] theorem voidAllPending_step (q : Port) : (voidAllPending reason s).step q = none := by
  rw [voidAllPending, (voidPendings_spec reason s allPorts (by decide)).1 q, if_pos (mem_allPorts q)]

theorem voidAllPending_recordBodies :
    recordBodies (voidAllPending reason s) = recordBodies s ++ allPorts.filterMap (voidedStep reason s) :=
  (voidPendings_spec reason s allPorts (by decide)).2

end

/-! ### The contexts (R176) -/

/-- A bench link after a reset (R176, R199, R201). -/
def benchAfterReset (profile : Option Profile) (p : Port) (b : Bench) : Bench :=
  { b with ctx := contextAfterReset profile p b.present, rx := .idle, tx := [] }

theorem resetBenches_list (l : List Port) (hl : l.Nodup) (s : State) :
    (l.foldl (fun s p => resetBench p s) s = { s with benches := (l.foldl (fun s p => resetBench p s) s).benches })
      ∧ ∀ q, (l.foldl (fun s p => resetBench p s) s).bench q =
        if q ∈ l then benchAfterReset s.profile q (s.bench q) else s.bench q := by
  induction l generalizing s with
  | nil => exact ⟨rfl, fun q => by simp⟩
  | cons p l ih =>
    obtain ⟨hp, hl⟩ := List.nodup_cons.1 hl
    obtain ⟨hframe, hbench⟩ := ih hl (resetBench p s)
    refine ⟨?_, fun q => ?_⟩
    · rw [List.foldl_cons]; exact hframe
    · have hget : (resetBench p s).bench q = if p = q then benchAfterReset s.profile p (s.bench p) else s.bench q := Tab.get_set ..
      rw [List.foldl_cons, hbench, hget, show (resetBench p s).profile = s.profile from rfl]
      by_cases hq : q = p
      · subst hq; simp [hp]
      · simp [hq, Ne.symm hq]

theorem keeps_of_benches {s t : State} (h : t = { s with benches := t.benches }) :
    t.store = s.store ∧ t.power = s.power ∧ t.resetPin = s.resetPin ∧ t.tamperLine = s.tamperLine ∧ t.battery = s.battery :=
  ⟨(congrArg State.store h :), (congrArg State.power h :), (congrArg State.resetPin h :), (congrArg State.tamperLine h :),
    (congrArg State.battery h :)⟩

@[simp] theorem resetBenches_bench (s : State) (p : Port) : (resetBenches s).bench p = benchAfterReset s.profile p (s.bench p) := by
  rw [resetBenches, (resetBenches_list allPorts (by decide) s).2 p, if_pos (mem_allPorts p)]

/-! ### Every field after a reset -/

/-- The stores settled once the steps are voided (R22, R129, R192). -/
def settledStores (s : State) : State := resetRegistry (resetSlots (dropReservations s))

theorem settledStores_keeps (s : State) : (settledStores s).profile = s.profile ∧ (settledStores s).benches = s.benches := ⟨rfl, rfl⟩

/-- The blocks that a reset sets to fixed values (R107). -/
def settledBlocks (cause : ResetCause) (consoles : Tab Console 2) (s : State) : State :=
  { s with
    line := .setup
    resetCause := cause
    stream := none
    ceremony := { run := .idle, last := none }
    importWork := none
    engine := Engine.initial
    consoles := consoles
    outstanding := []
    responses := []
    flags := Event.lineState.only
    mask := Event.responseReady.only ||| Event.lineState.only ||| Event.tamper.only
    frameErrors := 0
    overruns := 0
    powerResetOwed := false
    storeLost := false }

theorem resetBlocks_eq (cause : ResetCause) (s : State) :
    resetBlocks cause s = settledBlocks cause (s.consoles.map Console.afterReset)
      (resetBenches (settledStores (voidAllPending cause.voidReason s))) := rfl

section
variable (cause : ResetCause) (s : State)

/-- What the parts of a reset do to the store, from the state `v` with the steps voided (R22, R107, R129, R192). -/
theorem settled_of_voided {v u : State} (hv : withSteps s.journal s.store.steps v = s)
    (hu : u = { settledStores v with benches := u.benches }) (consoles : Tab Console 2) :
    let t := settledBlocks cause consoles u
    t.store = { s.store with
      slots := s.store.slots.map Slot.afterReset
      registry := s.store.registry.map placeAfterReset
      journal := { v.journal with reservations := [] }
      steps := v.store.steps }
    ∧ t.benches = u.benches ∧ t.power = s.power ∧ t.resetPin = s.resetPin ∧ t.tamperLine = s.tamperLine
    ∧ t.battery = s.battery := by
  obtain ⟨hslots, hregistry, hcustodians, hprofile, hlatch, -, hpower, hpin, hline, hbattery⟩ := keeps_of_withSteps hv
  obtain ⟨hstore, hpower', hpin', hline', hbattery'⟩ := keeps_of_benches hu
  refine ⟨?_, rfl, hpower'.trans hpower, hpin'.trans hpin, hline'.trans hline, hbattery'.trans hbattery⟩
  refine (hstore :).trans ?_
  simp only [settledStores, resetRegistry, resetSlots, dropReservations, State.setRegistry, State.setJournal, State.registry,
    State.journal, hslots, hregistry, hcustodians, hprofile, hlatch]

theorem resetBlocks_reads :
    (resetBlocks cause s).store = { s.store with
      slots := s.store.slots.map Slot.afterReset
      registry := s.store.registry.map placeAfterReset
      journal := { (voidAllPending cause.voidReason s).journal with reservations := [] }
      steps := (voidAllPending cause.voidReason s).store.steps }
    ∧ (resetBlocks cause s).benches = (resetBenches (settledStores (voidAllPending cause.voidReason s))).benches
    ∧ (resetBlocks cause s).power = s.power ∧ (resetBlocks cause s).resetPin = s.resetPin
    ∧ (resetBlocks cause s).tamperLine = s.tamperLine ∧ (resetBlocks cause s).battery = s.battery := by
  rw [resetBlocks_eq]
  exact settled_of_voided cause s (voidAllPending_frame _ s) (resetBenches_list allPorts (by decide) _).1 _

@[simp] theorem resetBlocks_slot (i : SlotIx) : (resetBlocks cause s).slot i = (s.slot i).afterReset := by
  rw [State.slot, (resetBlocks_reads cause s).1, Tab.get_map, State.slot]

@[simp] theorem resetBlocks_registry_get (i : RegIx) :
    (resetBlocks cause s).registry.get i = placeAfterReset (s.registry.get i) := by
  rw [State.registry, (resetBlocks_reads cause s).1, Tab.get_map, State.registry]

@[simp] theorem resetBlocks_step (p : Port) : (resetBlocks cause s).step p = none := by
  have h := congrArg Store.steps (resetBlocks_reads cause s).1
  rw [State.step, h, ← State.step, voidAllPending_step]

theorem resetBlocks_journal :
    (resetBlocks cause s).journal = { (voidAllPending cause.voidReason s).journal with reservations := [] } := by
  rw [State.journal, (resetBlocks_reads cause s).1]

theorem resetBlocks_kept :
    (resetBlocks cause s).store.custodians = s.store.custodians ∧ (resetBlocks cause s).profile = s.profile
      ∧ (resetBlocks cause s).store.tamperLatch = s.store.tamperLatch := by
  rw [State.profile, (resetBlocks_reads cause s).1]
  exact ⟨rfl, rfl, rfl⟩

theorem resetBlocks_running : (resetBlocks cause s).running = s.running := by
  obtain ⟨-, -, hpower, hpin, -, -⟩ := resetBlocks_reads cause s
  rw [State.running, hpower, hpin, State.running]

@[simp] theorem resetBlocks_bench (p : Port) : (resetBlocks cause s).bench p = benchAfterReset s.profile p (s.bench p) := by
  obtain ⟨-, -, -, hprofile, -, hbenches, -⟩ := keeps_of_withSteps (voidAllPending_frame cause.voidReason s)
  rw [State.bench, (resetBlocks_reads cause s).2.1]
  rw [← State.bench, resetBenches_bench]
  obtain ⟨hp, hb⟩ := settledStores_keeps (voidAllPending cause.voidReason s)
  rw [hp, State.profile, hprofile, State.bench, hb, hbenches, State.bench, State.profile]

@[simp] theorem resetBlocks_console (l : ConsoleLink) : (resetBlocks cause s).console l = (s.console l).afterReset := by
  rw [resetBlocks_eq]
  exact Tab.get_map ..

/-- The blocks a reset sets to fixed values (R107). -/
theorem resetBlocks_fixed :
    (resetBlocks cause s).line = .setup ∧ (resetBlocks cause s).resetCause = cause ∧ (resetBlocks cause s).stream = none
      ∧ (resetBlocks cause s).ceremony = { run := .idle, last := none } ∧ (resetBlocks cause s).importWork = none
      ∧ (resetBlocks cause s).engine = Engine.initial ∧ (resetBlocks cause s).outstanding = []
      ∧ (resetBlocks cause s).responses = [] ∧ (resetBlocks cause s).flags = 0x200#12 ∧ (resetBlocks cause s).mask = 0xA01#12
      ∧ (resetBlocks cause s).frameErrors = 0 ∧ (resetBlocks cause s).overruns = 0
      ∧ (resetBlocks cause s).powerResetOwed = false ∧ (resetBlocks cause s).storeLost = false := by
  rw [resetBlocks_eq]
  exact ⟨rfl, rfl, rfl, rfl, rfl, rfl, rfl, rfl, rfl, rfl, rfl, rfl, rfl, rfl⟩

end

/-- The store a reset finds: initial values when it was lost (R108). -/
def foundStore (s : State) : State := if s.storeLost then { s with store := Store.initial } else s

theorem resetPart_eq (cause : ResetCause) (s : State) :
    resetPart cause s = zeroiseAfterReset (resetBlocks cause (foundStore s)) := rfl

end Sys2Proof.Machine
end

section
/-! What each handler leaves unchanged: the fields it may change are those its frame lists, every other field reads as before. -/

namespace Sys2Proof.Machine
open Sys2Proof.Safety

/-- The requests that reach no block but the control port, the stream, the line state, the registry and the journal. -/
def lightRequest : Instr → Bool
  | .profileCommit .. | .lineClose _ | .lineReset _ | .importKey .. | .counterAdvance .. => false
  | _ => true

/-- Those blocks as in another state. -/
def withPort (s t : State) : State :=
  { t with
    store := { t.store with registry := s.store.registry, journal := s.store.journal }
    line := s.line, stream := s.stream, outstanding := s.outstanding, responses := s.responses, flags := s.flags
    mask := s.mask, frameErrors := s.frameErrors, overruns := s.overruns }

theorem lightRequest_frame {c : Instr} (h : lightRequest c = true) (s : State) : withPort s (requestHandler c s) = s := by
  cases c <;> simp only [lightRequest, Bool.false_eq_true] at h <;> simp only [requestHandler]
  case profileBegin => unfold profileBegin; split <;> rfl
  case profileBlock => unfold profileBlock; (repeat' split) <;> rfl
  case profileAbandon => rfl
  case linePause => unfold linePause setLine; (repeat' split) <;> rfl
  case lineResume => unfold lineResume setLine; (repeat' split) <;> rfl
  case slotQuery => unfold slotQuery; split <;> rfl
  case regAdd => unfold regAdd regAddChecked; (repeat' split) <;> rfl
  case regQuery => unfold regQuery; (repeat' split) <;> rfl
  case regSetState => unfold regSetState setEntryState; (repeat' split) <;> rfl
  case regRemove => unfold regRemove removeEntry; (repeat' split) <;> rfl
  case regScan => unfold regScan; split <;> rfl
  case counterRead => unfold counterRead; (repeat' split) <;> rfl
  case journalRead => unfold journalRead; split <;> rfl
  case journalRelease => unfold journalRelease; simp only; (repeat' split) <;> rfl
  case status => unfold statusRequest clearCountsIf; split <;> rfl
  case setMask => rfl
  all_goals rfl

/-! ### Consoles -/

/-- The console links and the table as in another state. -/
def withConsoles (s t : State) : State :=
  { t with store := { t.store with custodians := s.store.custodians }, consoles := s.consoles }

theorem answer_withConsoles (l : ConsoleLink) (kind : Byte) (st : Status) (body : AnswerBody) (s : State) :
    withConsoles s (answer l kind st body s) = s := by
  rw [answer_frame]; rfl

theorem withConsoles_trans {s u t : State} (h : withConsoles s u = s) (g : withConsoles u t = u) : withConsoles s t = s :=
  (congrArg (withConsoles s) g).trans h

theorem consoleHandler_frame {c : Instr} {l : ConsoleLink} {kind : Byte} (h : consoleMessage? c = some (l, kind))
    (hn : needsLogon c = false) (s : State) : withConsoles s (consoleHandler c s) = s := by
  cases c <;> simp only [consoleMessage?, needsLogon, reduceCtorEq] at h hn <;> simp only [consoleHandler]
  case query => exact answer_withConsoles ..
  case consoleBadMessage => exact answer_withConsoles ..
  case logon k number credential =>
    unfold logon startLogon
    (repeat' split) <;> exact withConsoles_trans (by rfl) (answer_withConsoles ..)
  case enrolFirst k number group credential =>
    unfold enrolFirst
    split <;> exact withConsoles_trans (by rfl) (answer_withConsoles ..)

/-! ### Ceremonies -/

/-- The slots, the journal, the ceremony, the engine, the console links and the flags as in another state. -/
def withCeremony (s t : State) : State :=
  { t with
    store := { t.store with slots := s.store.slots, journal := s.store.journal }
    ceremony := s.ceremony, engine := s.engine, consoles := s.consoles, flags := s.flags }

theorem withCeremony_trans {s u t : State} (h : withCeremony s u = s) (g : withCeremony u t = u) : withCeremony s t = s :=
  (congrArg (withCeremony s) g).trans h

section
variable {s : State}

theorem answer_withCeremony (l : ConsoleLink) (kind : Byte) (st : Status) (body : AnswerBody) :
    withCeremony s (answer l kind st body s) = s := by
  rw [answer_frame]; rfl

theorem noticeAll_withCeremony (n : Notice) : withCeremony s (noticeAll n s) = s := by
  rw [noticeAll_frame]; rfl

theorem abortCeremony_withCeremony (reason : AbortReason) (leaver : Option Cust) (w : CeremonyWork) :
    withCeremony s (abortCeremony reason leaver w s) = s := by
  rw [abortCeremony_frame]; rfl

theorem endLogon_withCeremony (l : ConsoleLink) : withCeremony s (endLogon l s) = s := by
  rw [endLogon_frame]; rfl

theorem setCeremony_notice (w : CeremonyRun) (n : Notice) : withCeremony s (noticeAll n (s.setCeremony w)) = s :=
  withCeremony_trans (by rfl) (noticeAll_withCeremony n)

theorem badEntry_withCeremony (w : CeremonyWork) : withCeremony s (badEntry w s) = s := by
  unfold badEntry
  simp only
  split
  · exact setCeremony_notice ..
  · exact withCeremony_trans (by rfl) (abortCeremony_withCeremony ..)

theorem reserved_withCeremony (h : ResHolder) : withCeremony s (reserved h s) = s := by
  unfold reserved State.setFlagIf
  split <;> rfl

theorem startCeremony_withCeremony (l : ConsoleLink) (p : Person) (params : CeremonyParams) :
    withCeremony s (startCeremony l p params s) = s := by
  unfold startCeremony
  refine withCeremony_trans (withCeremony_trans ?_ (answer_withCeremony ..)) (noticeAll_withCeremony _)
  split <;> rfl

/-- An OPEN is refused, or the reservation is asked for (R42). -/
theorem openCeremony_cases (l : ConsoleLink) (p : Person) (o : Opening) (s : State) :
    (∃ st, openCeremony l p o s = answer l 0x04 st .nothing s)
      ∨ openCeremony l p o s = answer l 0x04 .journalFull .nothing (s.setFlag .journalHigh)
      ∨ ∃ params, o = .granted params ∧ s.ceremony.run = .idle ∧ s.line ≠ .zeroised ∧ s.journal.occupancy < 511
        ∧ openCeremony l p o s = startCeremony l p params (reserved .ceremony s) := by
  by_cases hi : s.ceremony.run = .idle
  · by_cases hz : s.line = .zeroised
    · exact .inl ⟨_, openCeremony_zeroised hi hz⟩
    · cases o with
      | refused st => exact .inl ⟨_, openCeremony_refused hi hz⟩
      | granted params =>
        rcases Nat.lt_or_ge s.journal.occupancy 511 with hf | hf
        · exact .inr (.inr ⟨params, rfl, hi, hz, hf, openCeremony_granted hi hz hf⟩)
        · exact .inr (.inl (openCeremony_full hi hz hf))
  · exact .inl ⟨_, openCeremony_busy hi⟩

theorem openCeremony_withCeremony (l : ConsoleLink) (p : Person) (o : Opening) : withCeremony s (openCeremony l p o s) = s := by
  rcases openCeremony_cases l p o s with ⟨st, h⟩ | h | ⟨params, -, -, -, -, h⟩ <;> rw [h]
  · exact answer_withCeremony ..
  · exact withCeremony_trans (by rfl) (answer_withCeremony ..)
  · exact withCeremony_trans (reserved_withCeremony _) (startCeremony_withCeremony ..)

theorem giveComponent_withCeremony (l : ConsoleLink) (p : Person) (value : KeyBytes) (check : Kcv) :
    withCeremony s (giveComponent l p value check s) = s := by
  unfold giveComponent
  split
  · split
    · unfold componentChecked
      (repeat' split) <;> try exact answer_withCeremony ..
      · exact withCeremony_trans (answer_withCeremony ..) (badEntry_withCeremony _)
      · unfold takeComponent requestJob joinPending
        simp only
        split <;> rfl
    · exact answer_withCeremony ..
  · exact answer_withCeremony ..

theorem personHandler_frame {c : Instr} {l : ConsoleLink} {kind : Byte} (h : consoleMessage? c = some (l, kind))
    (hn : needsLogon c = true) (ha : c ≠ .accept l) (hz : c ≠ .zeroise l) (p : Person) :
    withCeremony s (personHandler c p s) = s := by
  cases c <;> simp only [consoleMessage?, needsLogon, reduceCtorEq, Bool.false_eq_true, Option.some.injEq, Prod.mk.injEq] at h hn <;>
    obtain ⟨rfl, rfl⟩ := h <;> simp only [personHandler]
  case accept => exact absurd rfl ha
  case zeroise => exact absurd rfl hz
  case logoff => exact withCeremony_trans (answer_withCeremony ..) (endLogon_withCeremony _)
  case component => exact giveComponent_withCeremony ..
  case reject =>
    unfold rejectCeremony
    (repeat' split) <;> try exact answer_withCeremony ..
    exact withCeremony_trans (answer_withCeremony ..) (abortCeremony_withCeremony ..)
  case cancel =>
    unfold cancelCeremony
    (repeat' split) <;> try exact answer_withCeremony ..
    exact withCeremony_trans (answer_withCeremony ..) (abortCeremony_withCeremony ..)
  all_goals exact openCeremony_withCeremony ..

end

/-! ### HELLO -/

/-- The registry, the bench links and the flags as in another state. -/
def withHello (s t : State) : State :=
  { t with store := { t.store with registry := s.store.registry }, benches := s.benches, flags := s.flags }

theorem withHello_trans {s u t : State} (h : withHello s u = s) (g : withHello u t = u) : withHello s t = s :=
  (congrArg (withHello s) g).trans h

section
variable {s : State}

theorem pushBench_withHello (p : Port) (m : BenchOut) : withHello s (pushBench p m s) = s := by
  rw [pushBench_frame]; rfl

theorem helloRefused_withHello (p : Port) (st : Status) : withHello s (helloRefused p st s) = s :=
  withHello_trans (pushBench_withHello p _) (by rfl)

theorem bindSession_withHello (p : Port) (e : Entry) (r : Recipe) : withHello s (bindSession p e r s) = s := by
  unfold bindSession
  simp only
  split
  · exact withHello_trans (by rfl) (helloRefused_withHello ..)
  · exact withHello_trans (by rfl) (pushBench_withHello ..)

theorem findForHello_withHello (serial : Serial) (model : ModelCode) :
    withHello s (findForHello serial model s).2 = s := by
  unfold findForHello
  simp only
  (repeat' split) <;> rfl

theorem helloFound_withHello (p : Port) (serial : Serial) (model : ModelCode) : withHello s (helloFound p serial model s) = s := by
  unfold helloFound
  split
  all_goals
    rename_i hfind
    have hs := findForHello_withHello (s := s) serial model
    rw [hfind] at hs
    refine withHello_trans hs ?_
  case h_1 => exact withHello_trans (by rfl) (helloRefused_withHello ..)
  case h_7 =>
    split
    · exact helloRefused_withHello ..
    · exact bindSession_withHello ..
  all_goals exact helloRefused_withHello ..

theorem hello_frame (p : Port) (serial : Serial) (model : ModelCode) : withHello s (hello p serial model s) = s := by
  unfold hello
  split
  · unfold helloTaken
    split
    · split
      · exact helloFound_withHello ..
      · exact helloRefused_withHello ..
    · exact pushBench_withHello ..
    · exact pushBench_withHello ..
  · exact pushBench_withHello ..

end

end Sys2Proof.Machine
end

section
/-! How a slot can change, for the counters: their range (R1, R3, R10) and their growth (R10, R20). -/

namespace Sys2Proof.Machine
open Sys2Proof.Safety

/-! ### Slots that are given back -/

/-- From `s` to `t`, slots have only been given back or counted: each keeps its generation, and its content unless it is emptied. -/
structure SlotsFreed (s t : State) : Prop where
  generation : ∀ i, (t.slot i).generation = (s.slot i).generation
  content : ∀ i, (t.slot i).content = (s.slot i).content ∨ (t.slot i).content = .empty

theorem SlotsFreed.of_eq {s t : State} (h : t.store.slots = s.store.slots) : SlotsFreed s t where
  generation i := by rw [State.slot, State.slot, h]
  content i := by rw [State.slot, State.slot, h]; exact .inl rfl

theorem SlotsFreed.trans {s t u : State} (h : SlotsFreed s t) (g : SlotsFreed t u) : SlotsFreed s u where
  generation i := (g.generation i).trans (h.generation i)
  content i := by
    rcases g.content i with hg | hg
    · rw [hg]; exact h.content i
    · exact .inr hg

/-- What follows changes no slot. -/
theorem SlotsFreed.keep {s t u : State} (h : SlotsFreed s t) (g : u.store.slots = t.store.slots) : SlotsFreed s u :=
  h.trans (.of_eq g)

/-- What comes before changes no slot. -/
theorem SlotsFreed.after {s t u : State} (h : SlotsFreed t u) (g : t.store.slots = s.store.slots) : SlotsFreed s u :=
  (SlotsFreed.of_eq g).trans h

theorem slot_setSlot (i j : SlotIx) (x : Slot) (s : State) : (s.setSlot i x).slot j = if i = j then x else s.slot j :=
  Tab.get_set ..

theorem SlotsFreed.setSlot {i : SlotIx} {x : Slot} {s : State} (hg : x.generation = (s.slot i).generation)
    (hc : x.content = (s.slot i).content ∨ x.content = .empty) : SlotsFreed s (s.setSlot i x) where
  generation j := by rw [slot_setSlot]; split <;> simp_all
  content j := by rw [slot_setSlot]; split <;> simp_all

/-! ### An abort by its parts (R58) -/

/-- The target of an aborted ASSEMBLE is given back (R14, R58). -/
def abandonTarget (w : CeremonyWork) (s : State) : State :=
  match w.params with
  | .assemble slot .. => abandonSlot .ceremony slot s
  | _ => s

/-- The COMPONENT under check is answered at an abort (R58). -/
def answerUnderCheck (reason : AbortReason) (leaver : Option Cust) (w : CeremonyWork) (s : State) : State :=
  match w.underCheck with
  | some u => answerWithheld u.link (abortedComponentStatus reason leaver u) .nothing s
  | none => s

/-- The context an abort leaves: SETTLING while its job runs (R58, R60). -/
def runAfterAbort (w : CeremonyWork) (s : State) : CeremonyRun :=
  if jobPlace ceremonyRequester s = .running then .settling w.params.kind w.opener else .idle

/-- An aborted ceremony, before its job is withdrawn and its end is told. -/
def abortClaims (reason : AbortReason) (leaver : Option Cust) (w : CeremonyWork) (s : State) : State :=
  answerUnderCheck reason leaver w (returnReservation .ceremony (abandonTarget w s))

theorem abortCeremony_eq (reason : AbortReason) (leaver : Option Cust) (w : CeremonyWork) (s : State) :
    abortCeremony reason leaver w s =
      finishCeremony w (.aborted reason) (runAfterAbort w (abortClaims reason leaver w s))
        (withdrawJob ceremonyRequester (abortClaims reason leaver w s)) := rfl

/-! ### A zeroise by its parts (R103) -/

/-- The line, the withheld close, the slots and the engine at a zeroise. -/
def zeroiseStart (s : State) : State :=
  let u := zeroiseSlots (zeroiseClose s.line (setLine .zeroised s))
  { u with engine := u.engine.zeroise }

/-- The ceremony, the import and the stream at a zeroise. -/
def zeroiseWork (s : State) : State := { zeroiseImport (zeroiseCeremony s) with stream := none }

theorem zeroisePart_eq (cause : TamperCause) (s : State) :
    zeroisePart cause s =
      (tamperJournal cause (endAllSessions .zeroised (zeroiseWork (zeroiseStart s)))).setFlag .tamper := rfl

@[simp] theorem answerUnderCheck_slots (reason : AbortReason) (leaver : Option Cust) (w : CeremonyWork) (s : State) :
    (answerUnderCheck reason leaver w s).store.slots = s.store.slots := by
  unfold answerUnderCheck
  split <;> simp

@[simp] theorem abortClaims_slots (reason : AbortReason) (leaver : Option Cust) (w : CeremonyWork) (s : State) :
    (abortClaims reason leaver w s).store.slots = (abandonTarget w s).store.slots := by
  simp [abortClaims]

/-! ### The operations on slots -/

section
variable {s : State}

theorem slotsFreed_completeErasure (i : SlotIx) : SlotsFreed s (completeErasure i s) := by
  unfold completeErasure
  have h : SlotsFreed s (s.setSlot i { s.slot i with content := .empty }) := .setSlot rfl (.inr rfl)
  refine h.keep ?_
  split
  · split <;> simp
  · rfl

theorem slotsFreed_lowerInUse (i : SlotIx) : SlotsFreed s (lowerInUse i s) := by
  unfold lowerInUse
  have h : SlotsFreed s (s.setSlot i { s.slot i with inUse := (s.slot i).inUse - 1 }) := .setSlot rfl (.inl rfl)
  simp only
  split
  · split
    · exact h.trans (slotsFreed_completeErasure i)
    · exact h
  · exact h

theorem slotsFreed_abandonSlot (h : Holder) (i : SlotIx) : SlotsFreed s (abandonSlot h i s) := by
  unfold abandonSlot
  split
  · exact .setSlot rfl (.inr rfl)
  · exact .of_eq rfl

theorem slotsFreed_endStep (p : Port) (ps : PendingStep) (body : RecordBody) : SlotsFreed s (endStep p ps body s) := by
  have h : SlotsFreed s ((writeRecord (.bench p) body s).setStep p none) := .of_eq (by simp)
  exact (h.trans (slotsFreed_lowerInUse _)).trans (slotsFreed_lowerInUse _)

theorem slotsFreed_voidStep (p : Port) (kcv : PendingStep → Option Kcv) (reason : VoidReason) :
    SlotsFreed s (voidStep p kcv reason s) := by
  unfold voidStep
  split
  · exact .of_eq rfl
  · exact slotsFreed_endStep ..

theorem slotsFreed_endSession (reason : VoidReason) (p : Port) : SlotsFreed s (endSession reason p s) := by
  unfold endSession
  split
  · exact .of_eq (by simp)
  · exact (slotsFreed_voidStep p PendingStep.expected reason).keep (by simp)
  · simp only
    split
    · exact .of_eq (by simp)
    · have h : SlotsFreed s (withdrawJob (benchRequester p) s) := .of_eq (by simp)
      exact (h.trans (slotsFreed_voidStep p (fun _ => none) reason)).keep (by simp)
  · exact .of_eq rfl

theorem slotsFreed_foldl {α : Type} {f : State → α → State} (h : ∀ s a, SlotsFreed s (f s a)) (l : List α) :
    SlotsFreed s (l.foldl f s) := by
  induction l generalizing s with
  | nil => exact .of_eq rfl
  | cons a l ih => exact (h s a).trans ih

theorem slotsFreed_endAllSessions (reason : VoidReason) : SlotsFreed s (endAllSessions reason s) :=
  slotsFreed_foldl (fun _ _ => slotsFreed_endSession _ _) _

theorem slotsFreed_abandonTarget (w : CeremonyWork) : SlotsFreed s (abandonTarget w s) := by
  unfold abandonTarget
  split
  · exact slotsFreed_abandonSlot ..
  · exact .of_eq rfl

theorem slotsFreed_abortCeremony (reason : AbortReason) (leaver : Option Cust) (w : CeremonyWork) :
    SlotsFreed s (abortCeremony reason leaver w s) := by
  rw [abortCeremony_eq]
  exact (slotsFreed_abandonTarget w).keep (by simp)

theorem slotsFreed_custodianLeft (c : Cust) : SlotsFreed s (custodianLeft c s) := by
  unfold custodianLeft
  split
  · split
    · exact slotsFreed_abortCeremony ..
    · exact .of_eq rfl
  · exact .of_eq rfl

theorem slotsFreed_endLogon (l : ConsoleLink) : SlotsFreed s (endLogon l s) := by
  unfold endLogon
  split
  · exact .of_eq rfl
  · next g _ =>
    have h : SlotsFreed s (s.setConsole l { s.console l with logon := none }) := .of_eq rfl
    exact h.trans (slotsFreed_custodianLeft _)

theorem slotsFreed_zeroiseSlots : SlotsFreed s (zeroiseSlots s) where
  generation i := by rw [State.slot, zeroiseSlots, Tab.get_map]; rfl
  content i := .inr (by rw [State.slot, zeroiseSlots, Tab.get_map]; rfl)

theorem slotsFreed_zeroiseCeremony : SlotsFreed s (zeroiseCeremony s) := by
  unfold zeroiseCeremony
  split
  · exact slotsFreed_abortCeremony ..
  · exact .of_eq rfl

theorem slotsFreed_zeroiseClose (old : LineState) : SlotsFreed s (zeroiseClose old s) := by
  unfold zeroiseClose
  split <;> exact .of_eq (by simp)

theorem slotsFreed_zeroiseStart : SlotsFreed s (zeroiseStart s) := by
  have hline : SlotsFreed s (setLine .zeroised s) := .of_eq (by simp)
  have hslots := (hline.trans (slotsFreed_zeroiseClose s.line)).trans slotsFreed_zeroiseSlots
  exact hslots.keep rfl

theorem slotsFreed_zeroiseWork : SlotsFreed s (zeroiseWork s) := slotsFreed_zeroiseCeremony.keep rfl

theorem slotsFreed_zeroisePart (cause : TamperCause) : SlotsFreed s (zeroisePart cause s) := by
  rw [zeroisePart_eq]
  exact ((slotsFreed_zeroiseStart.trans slotsFreed_zeroiseWork).trans (slotsFreed_endAllSessions .zeroised)).keep (by simp [tamperJournal])

/-- A zeroise empties every slot (R18, R103). -/
theorem zeroisePart_empty (cause : TamperCause) (i : SlotIx) : ((zeroisePart cause s).slot i).content = .empty := by
  have hstart : ((zeroiseStart s).slot i).content = .empty := by
    rw [zeroiseStart, State.slot, zeroiseSlots, Tab.get_map]; rfl
  have hrest : SlotsFreed (zeroiseStart s) (zeroisePart cause s) := by
    rw [zeroisePart_eq]
    exact (slotsFreed_zeroiseWork.trans (slotsFreed_endAllSessions .zeroised)).keep (by simp [tamperJournal])
  rcases hrest.content i with h | h
  · exact h.trans hstart
  · exact h

end

/-! ### Every change of a slot -/

/-- One change of a slot. -/
inductive SlotMove (x : Slot) : Slot → Prop
  | freed {y : Slot} : y.generation = x.generation → y.content = x.content ∨ y.content = .empty → SlotMove x y
  | reserved (h : Holder) : SlotMove x { x with content := .assembling h }
  | installed (k : HeldKey) : k.use.nextCounter?.getD 0 = 0 →
      SlotMove x { x with content := .active k, generation := x.generation + 1 }
  | raised {k : HeldKey} {keySet next value : Nat} : x.content.key? = some k → k.use = .baseDerivation keySet next →
      next ≤ value → ((x.content = .active k → next < counterEnd) → value ≤ counterEnd) → SlotMove x { x with content := withNextCounter k keySet value }
  | approved {k : HeldKey} : x.content.key? = some k → SlotMove x { x with content := .erasing k }
  | destroyed : SlotMove x x.destroyed
  | reset : SlotMove x x.afterReset

/-- The slots have changed by such changes only. -/
structure SlotsMove (s t : State) : Prop where
  moved : ∀ i, Relation.ReflTransGen SlotMove (s.slot i) (t.slot i)

theorem SlotsFreed.moves {s t : State} (h : SlotsFreed s t) : SlotsMove s t :=
  ⟨fun i => .single (.freed (h.generation i) (h.content i))⟩

theorem SlotsMove.of_eq {s t : State} (h : t.store.slots = s.store.slots) : SlotsMove s t := (SlotsFreed.of_eq h).moves

theorem SlotsMove.trans {s t u : State} (h : SlotsMove s t) (g : SlotsMove t u) : SlotsMove s u :=
  ⟨fun i => (h.moved i).trans (g.moved i)⟩

theorem SlotsMove.keep {s t u : State} (h : SlotsMove s t) (g : u.store.slots = t.store.slots) : SlotsMove s u :=
  h.trans (.of_eq g)

theorem SlotsMove.after {s t u : State} (h : SlotsMove t u) (g : t.store.slots = s.store.slots) : SlotsMove s u :=
  (SlotsMove.of_eq g).trans h

theorem SlotsMove.setSlot {i : SlotIx} {x : Slot} {s : State} (h : SlotMove (s.slot i) x) : SlotsMove s (s.setSlot i x) := by
  refine ⟨fun j => ?_⟩
  rw [slot_setSlot]
  split
  next hij => exact hij ▸ .single h
  next => exact .refl

theorem SlotsMove.map {f : Slot → Slot} {s t : State} (h : ∀ x, SlotMove x (f x)) (ht : t.store.slots = s.store.slots.map f) :
    SlotsMove s t :=
  ⟨fun i => by rw [State.slot, State.slot, ht, Tab.get_map]; exact .single (h _)⟩

section
variable {s t : State}

theorem slotsMove_raiseInUse (i : SlotIx) : SlotsMove s (raiseInUse i s) := .setSlot (.freed rfl (.inl rfl))

theorem slotsMove_reserveSlot (h : Holder) (i : SlotIx) : SlotsMove s (reserveSlot h i s) := .setSlot (.reserved h)

theorem slotsMove_installKey {h : Holder} {res : ResHolder} {i : SlotIx} {key : HeldKey} {origin : KeyOrigin}
    (hk : key.use.nextCounter?.getD 0 = 0) : SlotsMove s (installKey h res i key origin s) := by
  unfold installKey
  simp only
  split
  · have h : SlotsMove s (s.setSlot i { s.slot i with content := .active key, generation := (s.slot i).generation + 1 }) :=
      .setSlot (.installed key hk)
    exact h.keep (by simp)
  · exact .of_eq rfl

/-- A new key of any class starts its counter at 0 (R13). -/
theorem newKeyUse_next {c : KeyClass} {keySet : Option Nat} {use : KeyUse} (h : newKeyUse c keySet = some use) :
    use.nextCounter?.getD 0 = 0 := by
  unfold newKeyUse at h
  split at h <;> cases h <;> rfl

/-- A raised counter, the slot otherwise as it was (R10, R20). -/
theorem slotsMove_setNextCounter {i : SlotIx} {k : HeldKey} {keySet next value : Nat} (hk : (s.slot i).content.key? = some k)
    (hu : k.use = .baseDerivation keySet next) (hle : next ≤ value)
    (hend : ((s.slot i).content = .active k → next < counterEnd) → value ≤ counterEnd) :
    SlotsMove s (s.setSlot i { s.slot i with content := withNextCounter k keySet value }) :=
  .setSlot (.raised hk hu hle hend)

theorem slotsMove_resetBlocks (cause : ResetCause) : SlotsMove s (resetBlocks cause s) :=
  .map (f := Slot.afterReset) (fun _ => .reset) (congrArg Store.slots (resetBlocks_reads cause s).1)

theorem slotsFreed_zeroiseAfterReset : SlotsFreed s (zeroiseAfterReset s) := by
  unfold zeroiseAfterReset
  split
  · exact (slotsFreed_zeroisePart _).after rfl
  · split
    · exact slotsFreed_zeroisePart _
    · exact .of_eq rfl

/-- The slots have changed by such changes, or the store has been lost. -/
def SlotsChange (s t : State) : Prop := SlotsMove s t ∨ ∀ i, (t.slot i).content = .empty

theorem slotsChange_resetPart (cause : ResetCause) : SlotsChange s (resetPart cause s) := by
  rw [resetPart_eq, foundStore]
  split
  · refine .inr fun i => ?_
    have hempty : ((resetBlocks cause { s with store := Store.initial }).slot i).content = .empty := by
      rw [resetBlocks_slot, show State.slot i { s with store := Store.initial } = Slot.initial from Tab.get_fill ..]; rfl
    rcases (slotsFreed_zeroiseAfterReset (s := resetBlocks cause { s with store := Store.initial })).content i with h | h
    · exact h.trans hempty
    · exact h
  · exact .inl ((slotsMove_resetBlocks cause).trans slotsFreed_zeroiseAfterReset.moves)

theorem slotsChange_loseStore : SlotsChange s (loseStore s) := .inr fun _ => congrArg Slot.content (Tab.get_fill ..)

/-! ### The handlers -/

theorem slotsMove_startCeremony (l : ConsoleLink) (p : Person) (params : CeremonyParams) :
    SlotsMove s (startCeremony l p params s) := by
  unfold startCeremony
  simp only
  split
  next slot _ _ _ _ => exact (slotsMove_reserveSlot .ceremony slot).keep (by simp)
  next => exact .of_eq (by simp)

theorem slotsMove_openCeremony (l : ConsoleLink) (p : Person) (o : Opening) : SlotsMove s (openCeremony l p o s) := by
  rcases openCeremony_cases l p o s with ⟨st, h⟩ | h | ⟨params, -, -, -, -, h⟩ <;> rw [h]
  · exact .of_eq (by simp)
  · exact .of_eq (by simp)
  · exact (slotsMove_startCeremony ..).after (by simp)

theorem slotsFreed_badEntry (w : CeremonyWork) : SlotsFreed s (badEntry w s) := by
  unfold badEntry
  simp only
  split
  · exact .of_eq (by simp)
  · exact (slotsFreed_abortCeremony ..).after (by simp)

theorem slotsFreed_componentChecked (l : ConsoleLink) (p : Person) (value : KeyBytes) (check : Kcv) (length count : Nat)
    (w : CeremonyWork) : SlotsFreed s (componentChecked l p value check length count w s) := by
  unfold componentChecked
  split
  · exact .of_eq (by simp)
  · split
    · exact .of_eq (by simp)
    · split
      · exact .of_eq (by simp)
      · split
        · exact (slotsFreed_badEntry w).after (by simp)
        · exact .of_eq (by simp [takeComponent])

theorem slotsFreed_giveComponent (l : ConsoleLink) (p : Person) (value : KeyBytes) (check : Kcv) :
    SlotsFreed s (giveComponent l p value check s) := by
  unfold giveComponent
  split
  · split
    · exact slotsFreed_componentChecked ..
    · exact .of_eq (by simp)
  · exact .of_eq (by simp)

theorem slotsMove_approveErase (i : SlotIx) (w : CeremonyWork) : SlotsMove s (approveErase i w s) := by
  unfold approveErase
  simp only
  split
  · exact ((slotsFreed_completeErasure i).after (by rfl)).moves
  · split
    next k hk =>
      have h : SlotsMove s (s.setSlot i { s.slot i with content := .erasing k }) := .setSlot (.approved hk)
      exact h.keep (by simp)
    next => exact .of_eq (by simp)

theorem slotsMove_installAssembled (slot : SlotIx) (cls : KeyClass) (length : Nat) (keySet : Option Nat) (pair : Pair)
    (w : CeremonyWork) : SlotsMove s (installAssembled slot cls length keySet pair w s) := by
  unfold installAssembled
  split
  next hu _ => exact slotsMove_installKey (newKeyUse_next hu)
  next => exact .of_eq rfl

theorem slotsFreed_endLogonsOf (c : Cust) : SlotsFreed s (endLogonsOf c s) := by
  refine slotsFreed_foldl (fun u l => ?_) _
  split
  · exact slotsFreed_endLogon l
  · exact .of_eq rfl

theorem slotsMove_completeCeremony (w : CeremonyWork) (pair : Pair) : SlotsMove s (completeCeremony w pair s) := by
  unfold completeCeremony
  split
  next slot cls length count keySet _ => exact (slotsMove_installAssembled slot cls length keySet pair w).keep (by simp)
  next => exact slotsMove_approveErase ..
  next => exact .of_eq (by simp)
  next => exact .of_eq (by simp [changeCustodian])
  next => exact ((slotsFreed_endLogonsOf _).after (by simp [changeCustodian])).moves
  next => exact .of_eq (by simp [changeCustodian])

theorem slotsMove_acceptCeremony (l : ConsoleLink) (p : Person) : SlotsMove s (acceptCeremony l p s) := by
  unfold acceptCeremony
  split
  · split
    · exact .of_eq (by simp)
    · simp only
      split
      · exact (slotsMove_completeCeremony ..).after (by simp)
      · exact .of_eq (by simp)
  · exact .of_eq (by simp)

theorem slotsMove_personHandler {c : Instr} {l : ConsoleLink} {kind : Byte} (h : consoleMessage? c = some (l, kind))
    (hn : needsLogon c = true) (p : Person) : SlotsMove s (personHandler c p s) := by
  have hanswer : ∀ k st, SlotsFreed s (answer l k st .nothing s) := fun k st => .of_eq (by simp)
  cases c <;> simp only [consoleMessage?, needsLogon, reduceCtorEq, Bool.false_eq_true, Option.some.injEq, Prod.mk.injEq] at h hn <;>
    obtain ⟨rfl, rfl⟩ := h <;> simp only [personHandler]
  case accept => exact slotsMove_acceptCeremony ..
  case zeroise => exact ((hanswer ..).trans (slotsFreed_zeroisePart _)).moves
  case logoff => exact ((hanswer ..).trans (slotsFreed_endLogon _)).moves
  case component => exact (slotsFreed_giveComponent ..).moves
  case reject =>
    unfold rejectCeremony
    (repeat' split) <;> try exact (hanswer ..).moves
    exact ((hanswer ..).trans (slotsFreed_abortCeremony ..)).moves
  case cancel =>
    unfold cancelCeremony
    (repeat' split) <;> try exact (hanswer ..).moves
    exact ((hanswer ..).trans (slotsFreed_abortCeremony ..)).moves
  all_goals exact slotsMove_openCeremony ..

/-! ### Requests -/

theorem slotsMove_counterRaise {tag : Byte} {i : SlotIx} {k : HeldKey} {keySet next value : Nat}
    (hk : (s.slot i).content.key? = some k) (hu : k.use = .baseDerivation keySet next) (hend : value ≤ counterEnd) :
    SlotsMove s (counterRaise tag i k keySet next value s) := by
  unfold counterRaise
  split
  · exact .of_eq (by simp)
  next hlt =>
    rcases Nat.lt_or_ge s.journal.occupancy 511 with hf | hf
    · rw [requestReservation_granted hf]
      have hslot : (reserved .counterAdvance s).slot i = s.slot i := by simp
      have h : SlotsMove (reserved .counterAdvance s)
          ((reserved .counterAdvance s).setSlot i { s.slot i with content := withNextCounter k keySet value }) := by
        rw [← hslot]
        exact slotsMove_setNextCounter (by rw [hslot]; exact hk) hu (by omega) fun _ => hend
      exact (h.after (by simp)).keep (by simp)
    · rw [requestReservation_refused hf]
      exact .of_eq (by simp)

theorem SlotContent.key?_of_held? {c : SlotContent} {st : HeldState} {k : HeldKey} (h : c.held? = some (st, k)) :
    c.key? = some k := by
  rw [key?_eq_held?, h]; rfl

theorem slotsMove_counterAdvance (tag : Byte) (n value : Nat) : SlotsMove s (counterAdvance tag n value s) := by
  unfold counterAdvance
  split
  · exact .of_eq (by simp)
  · split
    · exact .of_eq (by simp)
    next hend =>
      split
      · exact .of_eq (by simp)
      next hheld =>
        split
        next hu =>
          split
          · exact .of_eq (by simp)
          · exact slotsMove_counterRaise (SlotContent.key?_of_held? hheld) hu (by omega)
        next => exact .of_eq (by simp)

theorem slotsMove_importKey (tag : Byte) (body : List Byte) : SlotsMove s (importKey tag body s) := by
  have hrefuse : ∀ st, SlotsMove s (refuse tag 0x20 st s) := fun st => .of_eq (by simp)
  unfold importKey
  split
  · exact hrefuse _
  · split
    · exact hrefuse _
    · split
      · exact hrefuse _
      · split
        · unfold importChecked
          split
          · exact hrefuse _
          next transport _ _ =>
            split
            · exact hrefuse _
            next target _ =>
              rcases Nat.lt_or_ge s.journal.occupancy 511 with hf | hf
              · rw [requestReservation_granted hf]
                have h := (slotsMove_raiseInUse (s := reserved .importUnit s) transport).trans (slotsMove_reserveSlot .importUnit target)
                exact (h.after (by simp)).keep (by simp [startImport])
              · rw [requestReservation_refused hf]
                exact .of_eq (by simp)
        · exact hrefuse _

theorem applyPortTable_store (ports : Tab PortEntry 8) (s : State) : (applyPortTable ports s).store = s.store :=
  (congrArg State.store (applyPortTable_spec ports s).1 :)

theorem profileCommit_slots (tag : Byte) (check : Check32) : (profileCommit tag check s).store.slots = s.store.slots := by
  unfold profileCommit
  split
  · simp
  · simp only
    split
    · simp
    · split
      · simp
      · split
        · simp [refuseAt]
        · split
          · simp [refuseAt]
          · simp [commitProfile, applyPortTable_store]

theorem slotsMove_lineClose (tag : Byte) : SlotsMove s (lineClose tag s) := by
  have hend := slotsFreed_endAllSessions (s := setLine (.closing tag) s) .lineClosed
  have hbegin : SlotsMove s (beginClose tag s) := ((hend.after (by simp)).keep (by simp [beginClose])).moves
  unfold lineClose
  split
  case h_2 | h_3 => exact hbegin
  all_goals exact .of_eq (by simp)

theorem slotsChange_requestHandler (c : Instr) : SlotsChange s (requestHandler c s) := by
  cases hl : lightRequest c with
  | true => exact .inl (.of_eq (congrArg (fun x => x.store.slots) (lightRequest_frame hl s)))
  | false =>
    cases c <;> simp only [lightRequest, Bool.true_eq_false] at hl
    case profileCommit tag check => exact .inl (.of_eq (profileCommit_slots tag check))
    case lineClose tag => exact .inl (slotsMove_lineClose tag)
    case lineReset => exact slotsChange_resetPart .lineReset
    case importKey tag body => exact .inl (slotsMove_importKey tag body)
    case counterAdvance tag n value => exact .inl (slotsMove_counterAdvance tag n value)

/-! ### Bench messages -/

theorem slotsMove_allocateCounter {i : SlotIx} {k : HeldKey} {keySet next : Nat} (hk : (s.slot i).content = .active k)
    (hu : k.use = .baseDerivation keySet next) : SlotsMove s (allocateCounter i k keySet next s) :=
  (slotsMove_setNextCounter (by rw [hk]; rfl) hu (Nat.le_succ next) fun h => h hk).keep (by simp [allocateCounter])

theorem slotsMove_admitCover {p : Port} {source cover : SlotIx} {k : HeldKey} {d : Option (Nat × Nat)} {a : Admission} {t : State}
    (hk : (s.slot source).content = .active k) (hd : ∀ x ∈ d, k.use = .baseDerivation x.1 x.2)
    (h : admitCover p source cover k d s = .admitted a t) : SlotsMove s t := by
  unfold admitCover at h
  split at h
  · cases h
  · split at h
    · split at h
      · have hraise := (slotsMove_raiseInUse (s := s) source).trans (slotsMove_raiseInUse cover)
        have hkeep : ((raiseInUse cover (raiseInUse source s)).slot source).content = .active k := by
          simp only [raiseInUse, slot_setSlot]
          split <;> simp_all
        split at h <;> cases h
        · exact hraise
        · exact hraise.trans (slotsMove_allocateCounter hkeep (hd _ rfl))
      · cases h
    · cases h

theorem slotsMove_admitStep {p : Port} {kind : StepType} {source cover : SlotIx} {a : Admission} {t : State}
    (h : admitStep p kind source cover s = .admitted a t) : SlotsMove s t := by
  unfold admitStep at h
  split at h
  · cases h
  · split at h
    · cases h
    next hk =>
      split at h
      · exact slotsMove_admitCover hk (by simp) h
      · cases h
    next hk =>
      split at h
      next hu => exact slotsMove_admitCover hk (by rintro x ⟨⟩; exact hu) h
      next => cases h
    · cases h

theorem slotsMove_admitFetch (p : Port) (ss : Session) (index : Nat) (st : RecipeStep) :
    SlotsMove s (admitFetch p ss index st s) := by
  unfold admitFetch
  rcases Nat.lt_or_ge s.journal.occupancy 511 with hf | hf
  · rw [requestReservation_granted hf]
    simp only
    split
    · exact .of_eq (by simp)
    next ha => exact ((slotsMove_admitStep ha).after (by simp)).keep (by simp [startStep])
  · rw [requestReservation_refused hf]
    exact .of_eq (by simp)

theorem slotsMove_fetchStep (p : Port) (index : Nat) : SlotsMove s (fetchStep p index s) := by
  unfold fetchStep
  split
  · unfold fetchTaken
    split
    · exact .of_eq (by simp)
    · split
      · exact .of_eq (by simp)
      · split
        · exact .of_eq (by simp)
        · exact slotsMove_admitFetch ..
  · exact .of_eq (by simp)

theorem slotsFreed_confirm (p : Port) (index : Nat) (kcv : Kcv) : SlotsFreed s (confirm p index kcv s) := by
  unfold confirm
  split
  next ss _ ps _ _ =>
    split
    · exact .of_eq (by simp)
    · split
      · unfold confirmMatch
        have hend := slotsFreed_endStep p ps (.delivered ps.facts kcv)
          (s := s.setRegistry (modifyEntry ss.serial (Entry.deliver ps.facts.index ss.stepCount) s.registry))
        simp only
        split <;> exact (hend.after (by simp)).keep (by simp)
      · unfold confirmMismatch
        simp only
        split <;> exact (slotsFreed_endStep p ps (.voided ps.facts ps.expected .kcvMismatch)).keep (by simp)
  next => exact .of_eq (by simp)

theorem hello_slots (p : Port) (serial : Serial) (model : ModelCode) : (hello p serial model s).store.slots = s.store.slots :=
  (congrArg (fun x => x.store.slots) (hello_frame p serial model) :)

theorem slotsFreed_bye (p : Port) : SlotsFreed s (bye p s) := by
  unfold bye
  split
  case h_4 => exact .of_eq (by simp)
  all_goals exact (slotsFreed_endSession .abandoned p).keep (by simp)

theorem slotsMove_benchHandler (c : Instr) : SlotsMove s (benchHandler c s) := by
  cases c
  case hello p serial model => exact .of_eq (hello_slots p serial model)
  case fetch p index => exact slotsMove_fetchStep p index
  case confirm p index kcv => exact (slotsFreed_confirm p index kcv).moves
  case bye p => exact (slotsFreed_bye p).moves
  case benchBadMessage p => exact .of_eq (by simp [benchHandler])
  all_goals exact .of_eq rfl

/-! ### Completions, expiries, levels -/

theorem slotsFreed_prepareHandled (j : Job) : SlotsFreed s (prepareHandled j s) := by
  unfold prepareHandled
  split
  · exact .of_eq rfl
  next p _ =>
    split
    · unfold drainComplete
      split
      next reason mark _ => exact (slotsFreed_voidStep p (fun _ => none) reason).keep (by simp)
      next => exact .of_eq rfl
    · split
      · split
        · exact .of_eq rfl
        · unfold offerStep
          split
          · exact .of_eq rfl
          · exact .of_eq (by simp)
      · exact .of_eq rfl

theorem slotsFreed_checkComponentHandled (j : Job) : SlotsFreed s (checkComponentHandled j s) := by
  unfold checkComponentHandled
  split
  · exact .of_eq (by simp)
  · split
    · split
      next w _ _ _ u _ _ _ _ _ _ _ _ _ _ =>
        split
        · exact .of_eq rfl
        · split
          · unfold componentPassed
            simp only
            split <;> exact .of_eq (by simp)
          · exact (slotsFreed_badEntry _).after (by simp)
      next => exact .of_eq rfl
    · exact .of_eq rfl

theorem combineHandled_slots (j : Job) : (combineHandled j s).store.slots = s.store.slots := by
  unfold combineHandled
  (repeat' split) <;> simp

theorem importOutcome_use {w : ImportWork} {inputs : JobInputs} {k : HeldKey} (h : importOutcome w inputs s = .installed k) :
    k.use.nextCounter?.getD 0 = 0 := by
  unfold importOutcome at h
  split at h
  · cases h
  · split at h
    · split at h
      · cases h
      · split at h
        · cases h
        next hu =>
          cases h
          unfold usableKey at hu
          split at hu
          · split at hu
            · obtain ⟨use, hnew, rfl⟩ := Option.map_eq_some_iff.1 hu
              exact newKeyUse_next hnew
            · cases hu
          · cases hu
    · cases h

theorem slotsMove_unwrapHandled (j : Job) : SlotsMove s (unwrapHandled j s) := by
  unfold unwrapHandled
  split
  · exact .of_eq rfl
  next w _ =>
    split
    · have hgive := slotsFreed_abandonSlot (s := s) .importUnit w.target
      have hlower := slotsFreed_lowerInUse (s := returnReservation .importUnit (abandonSlot .importUnit w.target s)) w.transport
      exact (((hgive.keep (by simp)).trans hlower).keep (by simp [endImport])).moves
    next key hout =>
      have hinstall := slotsMove_installKey (s := s) (h := .importUnit) (res := .importUnit) (i := w.target)
        (origin := .imported w.transport w.transportGen) (importOutcome_use hout)
      have hlower := slotsFreed_lowerInUse (s := installKey .importUnit .importUnit w.target key
        (.imported w.transport w.transportGen) s) w.transport
      exact (hinstall.trans hlower.moves).keep (by simp [endImport])

theorem slotsMove_completion {fits : JobInputs → Bool} {handle : Job → State → State} (h : Completes fits handle) (j : Job) :
    SlotsMove s (handle j s) := by
  cases h with
  | prepareShared | prepareDerived => exact (slotsFreed_prepareHandled j).moves
  | checkComponent => exact (slotsFreed_checkComponentHandled j).moves
  | combine => exact .of_eq (combineHandled_slots j)
  | unwrap => exact slotsMove_unwrapHandled j

theorem slotsMove_expiry {expire : State → State} (h : Expiry expire) : SlotsMove s (expire s) := by
  cases h with
  | custodianIdle l =>
    unfold custodianIdleExpired
    split
    · exact (slotsFreed_endLogon l).moves
    · exact .of_eq rfl
  | window =>
    unfold windowExpired
    split
    · split
      · exact (slotsFreed_abortCeremony ..).moves
      · exact .of_eq rfl
    · exact .of_eq rfl
  | sessionIdle p =>
    unfold sessionIdleExpired
    split
    · exact (slotsFreed_endSession ..).moves
    · exact .of_eq rfl
  | entryAged i =>
    unfold entryAged
    split <;> exact .of_eq rfl

theorem slotsMove_setLatch : SlotsMove s (setLatch s) := by
  unfold setLatch
  split
  · exact .of_eq rfl
  · exact .map (f := Slot.destroyed) (fun _ => .destroyed) rfl

theorem SlotsChange.after {u : State} (h : SlotsChange u t) (g : u.store.slots = s.store.slots) : SlotsChange s t :=
  h.imp_left fun h => h.after g

theorem slotsChange_level {change : State → State} (h : LevelChange change) : SlotsChange s (change s) := by
  cases h with
  | consoleArrives l => exact .inl (.of_eq rfl)
  | consoleLeaves l =>
    unfold consoleLeaves
    simp only
    split
    · exact .inl (.of_eq rfl)
    · split
      · exact .inl (.of_eq rfl)
      · exact .inl ((slotsFreed_endLogon l).after (by rfl)).moves
  | terminalArrives p =>
    unfold terminalArrives
    simp only
    split
    · exact .inl (.of_eq rfl)
    · split <;> exact .inl (.of_eq rfl)
  | terminalLeaves p =>
    unfold terminalLeaves
    simp only
    split
    · exact .inl (.of_eq rfl)
    · split
      · exact .inl (.of_eq rfl)
      · unfold contextDetached
        split
        case h_4 => exact .inl ((slotsFreed_endSession .detached p).after (by rfl)).moves
        all_goals exact .inl (.of_eq rfl)
  | coverOpens =>
    unfold coverOpens
    split
    · exact .inl (.of_eq rfl)
    · simp only
      split
      · exact .inl ((slotsFreed_zeroisePart .tamperLine).after (by rfl)).moves
      · exact .inl (slotsMove_setLatch.after (by rfl))
  | coverCloses => exact .inl (.of_eq rfl)
  | powerArrives =>
    unfold powerArrives
    split
    · exact .inl (.of_eq rfl)
    · simp only
      split
      · exact .inl (.of_eq rfl)
      · exact (slotsChange_resetPart _).after (by rfl)
  | powerLeaves =>
    unfold powerLeaves
    split
    · exact .inl (.of_eq rfl)
    · simp only
      split
      · exact .inl (.of_eq rfl)
      · exact slotsChange_loseStore.after (by rfl)
  | batteryLeaves =>
    unfold batteryLeaves
    simp only
    split
    · exact .inl (.of_eq rfl)
    · exact slotsChange_loseStore.after (by rfl)
  | pinAsserted => exact .inl (.of_eq rfl)
  | pinReleased =>
    unfold pinReleased
    split
    · exact .inl (.of_eq rfl)
    · simp only
      split
      · exact .inl (.of_eq rfl)
      · exact (slotsChange_resetPart _).after (by rfl)

/-- What one command does to the slots. -/
theorem slotsChange_happens (h : Happens s t) : SlotsChange s t := by
  cases h with
  | nothing => exact .inl (.of_eq rfl)
  | frameError | overrun => exact .inl (.of_eq rfl)
  | fetch clocks =>
    refine .inl (.of_eq ?_)
    unfold responseFetch readyFollowsQueue
    simp only
    (repeat' split) <;> rfl
  | request => exact (slotsChange_requestHandler _).after (by rfl)
  | unreadable => exact .inl (.of_eq rfl)
  | receiver k r => cases k <;> exact .inl (.of_eq rfl)
  | busy | notLoggedOn => exact .inl (.of_eq rfl)
  | @console c l kind hc hn =>
    have hkeep := congrArg (fun x => x.store.slots) (consoleHandler_frame hc hn (heard l s))
    exact .inl (.of_eq hkeep)
  | person hc hn => exact .inl ((slotsMove_personHandler hc hn _).after (by rfl))
  | unknownOpen => exact .inl ((slotsMove_openCeremony ..).after (by rfl))
  | bench => exact .inl ((slotsMove_benchHandler _).after (by rfl))
  | sent k =>
    refine .inl (.of_eq ?_)
    cases k <;> (unfold transmitDone; simp only; split <;> rfl)
  | level hl => exact slotsChange_level hl
  | expiry he => exact .inl (slotsMove_expiry he)
  | @completion fits handle j hc =>
    have hmove := slotsMove_completion (s := jobTaken s) hc j
    exact .inl ((hmove.after (by rfl)).keep (by simp))

theorem slotsChange_step (h : step s = .next t) : SlotsChange s t := by
  rcases happens_of_step h with rfl | ⟨c, rest, -, hc⟩
  · refine .inl (.of_eq ?_)
    unfold tick
    split <;> rfl
  · exact (slotsChange_happens hc).after rfl

end

end Sys2Proof.Machine
end

section
/-! The counters of base derivation keys: in their range (R1, R3, R10), and never falling (R10, R20). -/

namespace Sys2Proof.Machine
open Sys2Proof.Safety

/-- The next counter of one slot is in its range. -/
def SlotInRange (x : Slot) : Prop :=
  ∀ keySet next, derivationFields x = some (keySet, next) →
    next ≤ counterEnd ∧ (∀ k, x.content = .active k → next < counterEnd) ∧ ∀ k, x.content = .exhausted k → next = counterEnd

theorem countersInRange_iff {s : State} : CountersInRange s ↔ ∀ i, SlotInRange (s.slot i) := Iff.rfl

theorem derivationFields_eq_some {x : Slot} {keySet next : Nat} :
    derivationFields x = some (keySet, next) ↔ ∃ k, x.content.key? = some k ∧ k.use = .baseDerivation keySet next := by
  unfold derivationFields
  split
  next k hk =>
    split
    next hu => simp [hk, hu]
    next hno => simp only [hk, reduceCtorEq, Option.some.injEq, exists_eq_left', false_iff]; exact fun hu => hno _ _ hu
  next hk => simp [hk]

theorem derivationFields_congr {x y : Slot} (h : x.content.key?.map HeldKey.use = y.content.key?.map HeldKey.use) :
    derivationFields x = derivationFields y := by
  refine Option.ext fun ⟨keySet, next⟩ => ?_
  have hkey : ∀ z : Slot, (∃ k, z.content.key? = some k ∧ k.use = .baseDerivation keySet next)
      ↔ z.content.key?.map HeldKey.use = some (.baseDerivation keySet next) := fun z => by simp
  rw [derivationFields_eq_some, derivationFields_eq_some, hkey, hkey, h]

theorem derivationFields_none {x : Slot} (h : x.content.key? = none) : derivationFields x = none := by
  simp [derivationFields, h]

theorem derivationFields_destroyed (x : Slot) : derivationFields x.destroyed = derivationFields x :=
  derivationFields_congr (by cases h : x.content <;> simp [Slot.destroyed, SlotContent.bare, SlotContent.key?, h, HeldKey.bare])

theorem key?_withNextCounter (k : HeldKey) (keySet next : Nat) :
    (withNextCounter k keySet next).key? = some { k with use := .baseDerivation keySet next } := by
  unfold withNextCounter
  simp only
  split <;> rfl

/-- After a reset a slot holds the key it held, unless it was ASSEMBLING (R22). -/
theorem derivationFields_afterReset (x : Slot) : derivationFields x.afterReset = derivationFields x := by
  refine derivationFields_congr ?_
  cases h : x.content <;> simp only [Slot.afterReset, h]
  case erasing k => split <;> rfl
  all_goals rfl

/-- Every change of a slot keeps its counter in range. -/
theorem SlotMove.inRange {x y : Slot} (h : SlotMove x y) (hx : SlotInRange x) : SlotInRange y := by
  intro keySet next hy
  cases h with
  | freed hg hc =>
    rcases hc with hc | hc
    · have hfields : derivationFields y = derivationFields x := derivationFields_congr (by rw [hc])
      rw [hc]
      exact hx keySet next (hfields ▸ hy)
    · rw [derivationFields_none (by rw [hc]; rfl)] at hy; cases hy
  | reserved => rw [derivationFields_none rfl] at hy; cases hy
  | installed k hk =>
    obtain ⟨_, hk', hu⟩ := derivationFields_eq_some.1 hy
    cases hk'
    obtain rfl : next = 0 := by simpa [hu, KeyUse.nextCounter?] using hk
    exact ⟨by decide, fun _ _ => by decide, nofun⟩
  | @raised k ks n value hk hu hle hend =>
    obtain ⟨_, hk', hu'⟩ := derivationFields_eq_some.1 hy
    cases (key?_withNextCounter k ks value).symm.trans hk'
    cases hu'
    have hmax : next ≤ counterEnd := hend fun hact =>
      (hx _ _ (derivationFields_eq_some.2 ⟨k, hk, hu⟩)).2.1 k hact
    refine ⟨hmax, fun k' h => ?_, fun k' h => ?_⟩ <;> simp only [withNextCounter] at h <;> split at h <;> cases h
    · omega
    · assumption
  | approved hk =>
    obtain ⟨_, hk', hu⟩ := derivationFields_eq_some.1 hy
    cases hk'
    exact ⟨(hx _ _ (derivationFields_eq_some.2 ⟨_, hk, hu⟩)).1, nofun, nofun⟩
  | destroyed =>
    rw [derivationFields_destroyed] at hy
    obtain ⟨hmax, hactive, hexhausted⟩ := hx keySet next hy
    refine ⟨hmax, fun k h => ?_, fun k h => ?_⟩ <;> cases hc : x.content <;>
      simp only [Slot.destroyed, SlotContent.bare, hc, reduceCtorEq] at h
    · exact hactive _ hc
    · exact hexhausted _ hc
  | reset =>
    rw [derivationFields_afterReset] at hy
    obtain ⟨hmax, hactive, hexhausted⟩ := hx keySet next hy
    cases hc : x.content <;> simp only [Slot.afterReset, hc]
    case empty | assembling => exact ⟨hmax, nofun, nofun⟩
    case active k => exact ⟨hmax, fun _ _ => hactive k hc, nofun⟩
    case exhausted k => exact ⟨hmax, nofun, fun _ _ => hexhausted k hc⟩
    case erasing k =>
      obtain ⟨_, hk, hu⟩ := derivationFields_eq_some.1 hy
      rw [hc] at hk
      cases hk
      simp only [hu, KeyUse.nextCounter?, Option.some.injEq]
      split
      next heq => exact ⟨hmax, nofun, fun _ _ => heq⟩
      next hne => exact ⟨hmax, fun _ _ => by omega, nofun⟩

/-- Every step keeps the next counters in range (R1, R10). -/
theorem countersInRange_step {s t : State} (h : step s = .next t) (hs : CountersInRange s) : CountersInRange t := by
  refine countersInRange_iff.2 fun i => ?_
  rcases slotsChange_step h with hm | hm
  · have hmoved := hm.moved i
    have hstart : SlotInRange (s.slot i) := hs i
    generalize t.slot i = y at hmoved
    induction hmoved with
    | refl => exact hstart
    | tail _ hlast ih => exact hlast.inRange ih
  · intro keySet next hy
    rw [derivationFields_none (by rw [hm i]; rfl)] at hy; cases hy

/-! ### Growth -/

/-- A later slot has a higher generation, or no counter, or the same key set number and a counter at least as high. -/
structure SlotGrows (x y : Slot) : Prop where
  generation : x.generation ≤ y.generation
  fields : y.generation = x.generation → ∀ keySet' next', derivationFields y = some (keySet', next') →
    ∃ next, derivationFields x = some (keySet', next) ∧ next ≤ next'

theorem SlotGrows.of_fields {x y : Slot} (hg : y.generation = x.generation) (h : derivationFields y = derivationFields x) :
    SlotGrows x y := ⟨hg.ge, fun _ _ next' hy => ⟨next', h ▸ hy, le_rfl⟩⟩

theorem SlotGrows.of_none {x y : Slot} (hg : y.generation = x.generation) (h : derivationFields y = none) :
    SlotGrows x y := ⟨hg.ge, fun _ _ _ hy => by rw [h] at hy; cases hy⟩

theorem SlotGrows.trans {x y z : Slot} (h : SlotGrows x y) (g : SlotGrows y z) : SlotGrows x z where
  generation := h.generation.trans g.generation
  fields hz keySet' next' hfields := by
    have hxy := h.generation
    have hyz := g.generation
    obtain ⟨mid, hmid, hle⟩ := g.fields (by omega) keySet' next' hfields
    obtain ⟨next, hnext, hle'⟩ := h.fields (by omega) keySet' mid hmid
    exact ⟨next, hnext, hle'.trans hle⟩

theorem SlotMove.grows {x y : Slot} (h : SlotMove x y) : SlotGrows x y := by
  cases h with
  | freed hg hc =>
    rcases hc with hc | hc
    · exact .of_fields hg (derivationFields_congr (by rw [hc]))
    · exact .of_none hg (derivationFields_none (by rw [hc]; rfl))
  | reserved => exact .of_none rfl (derivationFields_none rfl)
  | installed => exact ⟨Nat.le_succ _, fun h => absurd h (Nat.succ_ne_self _)⟩
  | @raised k keySet next value hk hu hle =>
    refine ⟨le_rfl, fun _ keySet' next' hy => ?_⟩
    obtain ⟨_, hk', hu'⟩ := derivationFields_eq_some.1 hy
    cases (key?_withNextCounter k keySet value).symm.trans hk'
    cases hu'
    exact ⟨next, derivationFields_eq_some.2 ⟨k, hk, hu⟩, hle⟩
  | approved hk => exact .of_fields rfl (derivationFields_congr (by rw [hk]; rfl))
  | destroyed => exact .of_fields rfl (derivationFields_destroyed x)
  | reset => exact .of_fields rfl (derivationFields_afterReset x)

/-- Every step lets the counters only grow while a slot keeps its generation (R10, R20). -/
theorem counters_grow {s t : State} (h : step s = .next t) {i : SlotIx} {keySet next keySet' next' : Nat}
    (hg : (t.slot i).generation = (s.slot i).generation) (hs : derivationFields (s.slot i) = some (keySet, next))
    (ht : derivationFields (t.slot i) = some (keySet', next')) : keySet' = keySet ∧ next ≤ next' := by
  rcases slotsChange_step h with hm | hm
  · have hgrows : SlotGrows (s.slot i) (t.slot i) := by
      have hmoved := hm.moved i
      generalize t.slot i = y at hmoved
      induction hmoved with
      | refl => exact .of_fields rfl rfl
      | tail _ hlast ih => exact ih.trans hlast.grows
    obtain ⟨mid, hmid, hle⟩ := hgrows.fields hg keySet' next' ht
    cases hs.symm.trans hmid
    exact ⟨rfl, hle⟩
  · rw [derivationFields_none (by rw [hm i]; rfl)] at ht; cases ht

end Sys2Proof.Machine
end

section
/-! What the handlers that reach the slots leave unchanged: ACCEPT, the requests of the key store and the Import Unit, the bench
messages and the completions. -/

namespace Sys2Proof.Machine
open Sys2Proof.Safety

section
variable {s : State}

/-! ### ACCEPT -/

/-- The slots, the table, the journal, the line state, the stream, the ceremony, the engine, the console links and the flags as in
another state. -/
def withAccept (s t : State) : State :=
  { t with
    store := { t.store with slots := s.store.slots, custodians := s.store.custodians, journal := s.store.journal }
    line := s.line, stream := s.stream, ceremony := s.ceremony, engine := s.engine, consoles := s.consoles, flags := s.flags }

theorem withAccept_trans {s u t : State} (h : withAccept s u = s) (g : withAccept u t = u) : withAccept s t = s :=
  (congrArg (withAccept s) g).trans h

theorem answer_withAccept (l : ConsoleLink) (kind : Byte) (st : Status) (body : AnswerBody) :
    withAccept s (answer l kind st body s) = s := by
  rw [answer_frame]; rfl

theorem noticeAll_withAccept (n : Notice) : withAccept s (noticeAll n s) = s := by
  rw [noticeAll_frame]; rfl

theorem finishCeremony_withAccept (w : CeremonyWork) (result : CeremonyResult) (run : CeremonyRun) :
    withAccept s (finishCeremony w result run s) = s := by
  rw [finishCeremony_frame]; rfl

theorem endLogonsOf_withAccept (c : Cust) : withAccept s (endLogonsOf c s) = s := by
  unfold endLogonsOf
  induction allConsoles generalizing s with
  | nil => rfl
  | cons l rest ih =>
    refine withAccept_trans ?_ ih
    simp only
    split
    · rw [endLogon_frame]; rfl
    · rfl

theorem approveErase_withAccept (i : SlotIx) (w : CeremonyWork) : withAccept s (approveErase i w s) = s := by
  unfold approveErase
  simp only
  split
  · rw [completeErasure_frame]; rfl
  · split
    · exact withAccept_trans (by rfl) (noticeAll_withAccept _)
    · exact withAccept_trans (by rfl) (noticeAll_withAccept _)

theorem installAssembled_withAccept (slot : SlotIx) (cls : KeyClass) (length : Nat) (keySet : Option Nat) (pair : Pair)
    (w : CeremonyWork) : withAccept s (installAssembled slot cls length keySet pair w s) = s := by
  unfold installAssembled
  split
  · rw [installKey_frame]; rfl
  · rfl

theorem completeCeremony_withAccept (w : CeremonyWork) (pair : Pair) : withAccept s (completeCeremony w pair s) = s := by
  unfold completeCeremony
  split
  next slot cls length count keySet _ =>
    exact withAccept_trans (installAssembled_withAccept slot cls length keySet pair w) (finishCeremony_withAccept ..)
  next => exact approveErase_withAccept ..
  next => exact withAccept_trans (by rw [setLine_frame]; rfl) (finishCeremony_withAccept ..)
  next => exact withAccept_trans (by rfl) (finishCeremony_withAccept ..)
  next => exact withAccept_trans (withAccept_trans (by rfl) (finishCeremony_withAccept ..)) (endLogonsOf_withAccept _)
  next => exact withAccept_trans (by rfl) (finishCeremony_withAccept ..)

theorem acceptCeremony_frame (l : ConsoleLink) (p : Person) : withAccept s (acceptCeremony l p s) = s := by
  unfold acceptCeremony
  split
  · split
    · exact answer_withAccept ..
    · simp only
      split
      · exact withAccept_trans (answer_withAccept ..) (completeCeremony_withAccept ..)
      · exact withAccept_trans (withAccept_trans (answer_withAccept ..) (by rfl)) (noticeAll_withAccept _)
  · exact answer_withAccept ..

/-! ### IMPORT, COUNTER_ADVANCE -/

/-- The slots, the journal, the import, the ceremony, the engine, the console links and the control port as in another state. -/
def withImport (s t : State) : State :=
  { t with
    store := { t.store with slots := s.store.slots, journal := s.store.journal }
    importWork := s.importWork, ceremony := s.ceremony, engine := s.engine, consoles := s.consoles
    outstanding := s.outstanding, responses := s.responses, flags := s.flags }

theorem withImport_trans {s u t : State} (h : withImport s u = s) (g : withImport u t = u) : withImport s t = s :=
  (congrArg (withImport s) g).trans h

theorem refuse_withImport (tag kind : Byte) (st : Status) : withImport s (refuse tag kind st s) = s := by
  rw [refuse_frame]; rfl

theorem respond_withImport (tag kind : Byte) (st : Status) (changed : Bool) (body : ResponseBody) :
    withImport s (respond tag kind st changed body s) = s := by
  rw [respond_frame]; rfl

theorem requestReservation_withImport {h : ResHolder} {b : Bool} {t : State} (ht : requestReservation h s = (b, t)) :
    withImport s t = s := by
  obtain rfl : t = (requestReservation h s).2 := by rw [ht]
  rcases Nat.lt_or_ge s.journal.occupancy 511 with hf | hf
  · rw [requestReservation_granted hf]
    simp only [reserved, State.setFlagIf]
    split <;> rfl
  · rw [requestReservation_refused hf]; rfl

theorem importKey_frame (tag : Byte) (body : List Byte) : withImport s (importKey tag body s) = s := by
  unfold importKey
  (repeat' split) <;> try exact refuse_withImport ..
  unfold importChecked
  (repeat' split) <;> try exact refuse_withImport ..
  next hres => exact withImport_trans (requestReservation_withImport hres) (refuse_withImport ..)
  next hres =>
    refine withImport_trans (requestReservation_withImport hres) ?_
    unfold startImport
    simp only
    rw [requestJob_frame]; rfl

theorem counterAdvance_frame (tag : Byte) (n value : Nat) : withImport s (counterAdvance tag n value s) = s := by
  unfold counterAdvance
  (repeat' split) <;> try exact refuse_withImport ..
  unfold counterRaise
  (repeat' split)
  · rfl
  next hres => exact withImport_trans (requestReservation_withImport hres) (refuse_withImport ..)
  next hres =>
    refine withImport_trans (requestReservation_withImport hres) ?_
    rw [respond_frame, counterEvents_frame]; rfl

theorem unwrapHandled_frame (j : Job) : withImport s (unwrapHandled j s) = s := by
  unfold unwrapHandled
  split
  · rfl
  next w _ =>
    have hend : ∀ u, withImport u (endImport w u) = u := fun u => by
      unfold endImport
      rw [lowerInUse_frame]; rfl
    split
    · refine withImport_trans (withImport_trans ?_ (hend _)) (refuse_withImport ..)
      rw [returnReservation_frame, abandonSlot_frame]; rfl
    next key _ =>
      have hinstall : withImport s (installKey .importUnit .importUnit w.target key (.imported w.transport w.transportGen) s) = s := by
        rw [installKey_frame]; rfl
      exact withImport_trans (withImport_trans hinstall (hend _)) (respond_withImport ..)

/-! ### The completions of the Ceremony Engine's jobs -/

theorem answerWithheld_withCeremony (l : ConsoleLink) (st : Status) (body : AnswerBody) :
    withCeremony s (answerWithheld l st body s) = s := by
  rw [answerWithheld_frame]; rfl

theorem settleCeremony_withCeremony : withCeremony s (settleCeremony s) = s := by
  rw [settleCeremony_frame]; rfl

theorem joinPending_withCeremony (r : Fin 10) (inputs : JobInputs) : withCeremony s (joinPending r inputs s) = s := by
  rw [joinPending_frame]; rfl

theorem componentPassed_withCeremony (u : UnderCheck) (count : Nat) (w : CeremonyWork) :
    withCeremony s (componentPassed u count w s) = s := by
  unfold componentPassed
  simp only
  split
  · exact withCeremony_trans (withCeremony_trans (answerWithheld_withCeremony ..) (by rfl)) (noticeAll_withCeremony _)
  · exact withCeremony_trans (withCeremony_trans (withCeremony_trans (answerWithheld_withCeremony ..) (by rfl))
      (joinPending_withCeremony ..)) (noticeAll_withCeremony _)

theorem checkComponentHandled_frame (j : Job) : withCeremony s (checkComponentHandled j s) = s := by
  unfold checkComponentHandled
  (repeat' split) <;> try rfl
  · exact settleCeremony_withCeremony
  · exact componentPassed_withCeremony ..
  · exact withCeremony_trans (answerWithheld_withCeremony ..) (badEntry_withCeremony _)

theorem combineHandled_frame (j : Job) : withCeremony s (combineHandled j s) = s := by
  unfold combineHandled
  (repeat' split) <;> try rfl
  · exact settleCeremony_withCeremony
  · exact withCeremony_trans (by rfl) (noticeAll_withCeremony _)

/-! ### Bench messages -/

/-- The slots, the registry, the steps in flight, the journal, the ceremony, the engine, the links and the flags as in another
state. -/
def withBench (s t : State) : State :=
  { t with
    store := { t.store with
      slots := s.store.slots, registry := s.store.registry, steps := s.store.steps, journal := s.store.journal }
    ceremony := s.ceremony, engine := s.engine, consoles := s.consoles, benches := s.benches, flags := s.flags }

theorem withBench_trans {s u t : State} (h : withBench s u = s) (g : withBench u t = u) : withBench s t = s :=
  (congrArg (withBench s) g).trans h

theorem pushBench_withBench (p : Port) (m : BenchOut) : withBench s (pushBench p m s) = s := by
  rw [pushBench_frame]; rfl

theorem verdict_withBench (p : Port) (st : Status) : withBench s (verdict p st s) = s := pushBench_withBench ..

theorem endSession_withBench (reason : VoidReason) (p : Port) : withBench s (endSession reason p s) = s := by
  rw [endSession_frame]; rfl

theorem endStep_withBench (p : Port) (ps : PendingStep) (body : RecordBody) : withBench s (endStep p ps body s) = s := by
  rw [endStep_frame]; rfl

theorem requestReservation_withBench {h : ResHolder} {b : Bool} {t : State} (ht : requestReservation h s = (b, t)) :
    withBench s t = s := by
  obtain rfl : t = (requestReservation h s).2 := by rw [ht]
  rcases Nat.lt_or_ge s.journal.occupancy 511 with hf | hf
  · rw [requestReservation_granted hf]
    simp only [reserved, State.setFlagIf]
    split <;> rfl
  · rw [requestReservation_refused hf]; rfl

theorem admitCover_withBench {p : Port} {source cover : SlotIx} {k : HeldKey} {d : Option (Nat × Nat)} {a : Admission} {t : State}
    (h : admitCover p source cover k d s = .admitted a t) : withBench s t = s := by
  unfold admitCover at h
  split at h
  · cases h
  · split at h
    · split at h
      · split at h <;> cases h
        · rfl
        · unfold allocateCounter
          rw [counterEvents_frame]; rfl
      · cases h
    · cases h

theorem admitStep_withBench {p : Port} {kind : StepType} {source cover : SlotIx} {a : Admission} {t : State}
    (h : admitStep p kind source cover s = .admitted a t) : withBench s t = s := by
  unfold admitStep at h
  (repeat' split at h) <;> try cases h
  all_goals exact admitCover_withBench h

theorem fetchStep_frame (p : Port) (index : Nat) : withBench s (fetchStep p index s) = s := by
  unfold fetchStep
  split
  · unfold fetchTaken
    (repeat' split) <;> try exact verdict_withBench ..
    unfold admitFetch
    split
    next hres => exact withBench_trans (requestReservation_withBench hres) (verdict_withBench ..)
    next hres =>
      refine withBench_trans (requestReservation_withBench hres) ?_
      split
      · exact withBench_trans (by rfl) (verdict_withBench ..)
      next ha =>
        refine withBench_trans (admitStep_withBench ha) ?_
        unfold startStep
        rw [requestJob_frame]; rfl
  · exact verdict_withBench ..

theorem setRegistry_withBench (r : Registry) : withBench s (s.setRegistry r) = s := rfl
theorem setCtx_withBench (p : Port) (c : PortContext) : withBench s (s.setCtx p c) = s := rfl
theorem setFlag_withBench (f : Event) : withBench s (s.setFlag f) = s := rfl

theorem confirmMatch_withBench (p : Port) (ss : Session) (ps : PendingStep) (kcv : Kcv) :
    withBench s (confirmMatch p ss ps kcv s) = s := by
  unfold confirmMatch
  simp only
  split
  · exact withBench_trans (withBench_trans (withBench_trans (withBench_trans (setRegistry_withBench _) (endStep_withBench ..))
      (setCtx_withBench ..)) (setFlag_withBench _)) (pushBench_withBench ..)
  · exact withBench_trans (withBench_trans (withBench_trans (setRegistry_withBench _) (endStep_withBench ..))
      (setCtx_withBench ..)) (pushBench_withBench ..)

theorem confirmMismatch_withBench (p : Port) (ss : Session) (ps : PendingStep) :
    withBench s (confirmMismatch p ss ps s) = s := by
  unfold confirmMismatch
  simp only
  split
  · exact withBench_trans (withBench_trans (withBench_trans (withBench_trans (endStep_withBench ..) (setRegistry_withBench _))
      (setCtx_withBench ..)) (setFlag_withBench _)) (pushBench_withBench ..)
  · exact withBench_trans (withBench_trans (withBench_trans (endStep_withBench ..) (setRegistry_withBench _))
      (setCtx_withBench ..)) (pushBench_withBench ..)

theorem confirm_frame (p : Port) (index : Nat) (kcv : Kcv) : withBench s (confirm p index kcv s) = s := by
  unfold confirm
  split
  · split
    · exact verdict_withBench ..
    · split
      · exact confirmMatch_withBench ..
      · exact confirmMismatch_withBench ..
  · exact verdict_withBench ..

theorem bye_frame (p : Port) : withBench s (bye p s) = s := by
  unfold bye
  split
  case h_4 => exact verdict_withBench ..
  all_goals exact withBench_trans (endSession_withBench ..) (verdict_withBench ..)

theorem withBench_of_withHello {s t : State} (h : withHello s t = s) : withBench s t = s :=
  (congrArg (withBench s) (show t = withHello t (withHello s t) from rfl)).trans (by rw [h]; rfl)

theorem benchHandler_frame (c : Instr) : withBench s (benchHandler c s) = s := by
  cases c
  case hello p serial model => exact withBench_of_withHello (hello_frame p serial model)
  case fetch p index => exact fetchStep_frame p index
  case confirm p index kcv => exact confirm_frame p index kcv
  case bye p => exact bye_frame p
  case benchBadMessage p => exact verdict_withBench ..
  all_goals rfl

end

end Sys2Proof.Machine
end

section
/-! How the registry can change: an entry where its serial's row is, no serial twice, LOADING exactly when bound (R109, R110, R112),
and delivered sets that only grow (R112). -/

namespace Sys2Proof.Machine
open Sys2Proof.Safety

/-! ### One place -/

/-- An entry is LOADING exactly when it is bound (R112). -/
def Entry.Settled (e : Entry) : Prop := e.state = .loading ↔ e.boundPort.isSome = true

/-- An entry later: of the same serial, its delivered set grown, and settled if it was. -/
structure Entry.Later (e e' : Entry) : Prop where
  serial : e'.serial = e.serial
  delivered : ∀ k, e.delivered.getLsbD k = true → e'.delivered.getLsbD k = true
  settled : e.Settled → e'.Settled

theorem Entry.Later.refl (e : Entry) : e.Later e := ⟨rfl, fun _ h => h, fun h => h⟩

theorem Entry.Later.trans {e f g : Entry} (h : e.Later f) (k : f.Later g) : e.Later g :=
  ⟨k.serial.trans h.serial, fun i hi => k.delivered i (h.delivered i hi), fun hs => k.settled (h.settled hs)⟩

/-- A change that settles an entry and leaves its serial and its delivered set. -/
theorem Entry.Later.of_settled {e e' : Entry} (hs : e'.serial = e.serial) (hd : e'.delivered = e.delivered) (h : e'.Settled) :
    e.Later e' := ⟨hs, fun _ hk => hd ▸ hk, fun _ => h⟩

theorem Entry.later_unbound (e : Entry) : e.Later e.unbound := by
  refine .of_settled rfl rfl ?_
  simp only [Entry.Settled, Entry.unbound]
  split <;> simp

theorem Entry.later_pinned (recipe : Option (Fin 16)) (e : Entry) : e.Later (e.pinned recipe) := ⟨rfl, fun _ h => h, fun h => h⟩

theorem Entry.later_counted (e : Entry) : e.Later e.counted := ⟨rfl, fun _ h => h, fun h => h⟩

theorem Entry.later_bound (p : Port) (r : Recipe) (e : Entry) : e.Later (e.bound p r) :=
  .of_settled rfl rfl (by simp [Entry.Settled, Entry.bound])

theorem Entry.later_completedAtBind {e : Entry} (h : e.boundPort = none) : e.Later e.completedAtBind :=
  .of_settled rfl rfl (by simp [Entry.Settled, Entry.completedAtBind, h])

theorem Entry.later_deliver (index count : Nat) (e : Entry) : e.Later (e.deliver index count) := by
  unfold Entry.deliver
  simp only
  split
  · exact ⟨rfl, fun k h => by simp [h], fun _ => by simp [Entry.Settled]⟩
  · exact ⟨rfl, fun k h => by simp [h], fun h => h⟩

theorem Entry.later_mismatch (retry : Nat) (e : Entry) : e.Later (e.mismatch retry) := by
  unfold Entry.mismatch
  split
  · exact .of_settled rfl rfl (by simp [Entry.Settled])
  · exact ⟨rfl, fun _ h => h, fun h => h⟩

theorem Entry.later_withState {new : EntryState} {e : Entry} (hb : e.boundPort = none) (hn : new ≠ .loading) :
    e.Later (e.withState new) := by
  unfold Entry.withState
  split
  · exact .of_settled rfl rfl (by simp [Entry.Settled, hb])
  · exact .of_settled rfl rfl (by simp [Entry.Settled, hb, hn])

/-- A place later: free, or with its entry later. -/
def PlaceMove (x y : Option Entry) : Prop := ∀ e', y = some e' → ∃ e, x = some e ∧ e.Later e'

theorem PlaceMove.refl (x : Option Entry) : PlaceMove x x := fun e h => ⟨e, h, .refl e⟩

theorem PlaceMove.trans {x y z : Option Entry} (h : PlaceMove x y) (g : PlaceMove y z) : PlaceMove x z := fun e'' hz => by
  obtain ⟨e', hy, hl⟩ := g e'' hz
  obtain ⟨e, hx, hl'⟩ := h e' hy
  exact ⟨e, hx, hl'.trans hl⟩

theorem PlaceMove.freed (x : Option Entry) : PlaceMove x none := nofun

theorem PlaceMove.later {e e' : Entry} (h : e.Later e') : PlaceMove (some e) (some e') := fun _ hy => ⟨e, rfl, by cases hy; exact h⟩

theorem PlaceMove.map {f : Entry → Entry} (h : ∀ e : Entry, e.Later (f e)) (x : Option Entry) : PlaceMove x (x.map f) := by
  cases x with
  | none => exact .freed _
  | some e => exact .later (h e)

theorem placeMove_afterReset (x : Option Entry) : PlaceMove x (placeAfterReset x) := by
  cases x with
  | none => exact .freed _
  | some e =>
    have hlater : e.Later (if e.state = .loading then e.unbound else { e with boundPort := none }) := by
      split
      · exact e.later_unbound
      next h => exact .of_settled rfl rfl (by simp [Entry.Settled, h])
    unfold placeAfterReset
    simp only
    generalize (if e.state = .loading then e.unbound else { e with boundPort := none }) = e' at hlater
    split
    · exact .freed _
    · exact .later hlater

/-! ### The registry -/

/-- Every place has moved so. -/
structure RegMoves (r r' : Registry) : Prop where
  moved : ∀ i, PlaceMove (r.get i) (r'.get i)

theorem RegMoves.refl (r : Registry) : RegMoves r r := ⟨fun _ => .refl _⟩

theorem RegMoves.trans {r r' r'' : Registry} (h : RegMoves r r') (g : RegMoves r' r'') : RegMoves r r'' :=
  ⟨fun i => (h.moved i).trans (g.moved i)⟩

theorem RegMoves.map {f : Option Entry → Option Entry} (h : ∀ x, PlaceMove x (f x)) (r : Registry) : RegMoves r (r.map f) :=
  ⟨fun i => by rw [Tab.get_map]; exact h _⟩

theorem RegMoves.set {r : Registry} {i : RegIx} {x : Option Entry} (h : PlaceMove (r.get i) x) : RegMoves r (r.set i x) :=
  ⟨fun j => by
    rw [Tab.get_set]
    split
    next hij => exact hij ▸ h
    next => exact .refl _⟩

theorem RegMoves.modify {r : Registry} {i : RegIx} {f : Entry → Entry} (h : ∀ e : Entry, e.Later (f e)) :
    RegMoves r (r.modify i (Option.map f)) :=
  ⟨fun j => by
    by_cases hij : i = j
    · subst hij
      rw [Tab.get_modify_self]
      exact .map h _
    · rw [Tab.get_modify_other _ _ _ _ hij]
      exact .refl _⟩

theorem holdsSerial_iff {r : Registry} {serial : Serial} {i : RegIx} :
    holdsSerial r serial i = true ↔ ∃ e, r.get i = some e ∧ e.serial = serial := by
  unfold holdsSerial
  split
  next e h => simp [h]
  next h => simp [h]

/-- A place found holds the serial, in the serial's row (R110). -/
theorem lookupSerial_some {r : Registry} {serial : Serial} {i : RegIx} (h : lookupSerial r serial = some i) :
    i ∈ rowPositions (rowOf serial) ∧ ∃ e, r.get i = some e ∧ e.serial = serial :=
  ⟨List.mem_of_find?_eq_some h, holdsSerial_iff.1 (List.find?_some h)⟩

theorem lookupSerial_none {r : Registry} {serial : Serial} :
    lookupSerial r serial = none ↔ ∀ i ∈ rowPositions (rowOf serial), ∀ e, r.get i = some e → e.serial ≠ serial := by
  rw [lookupSerial, List.find?_eq_none]
  refine forall₂_congr fun i _ => ?_
  rw [holdsSerial_iff]
  simp

theorem entryOf_some {r : Registry} {serial : Serial} {e : Entry} (h : entryOf r serial = some e) :
    ∃ i, lookupSerial r serial = some i ∧ r.get i = some e ∧ e.serial = serial := by
  obtain ⟨i, hi, he⟩ := Option.bind_eq_some_iff.1 h
  obtain ⟨-, e', he', hs⟩ := lookupSerial_some hi
  cases he.symm.trans he'
  exact ⟨i, hi, he, hs⟩

/-- The entry of a serial is changed where it stands. -/
theorem RegMoves.modifyEntry {r : Registry} {serial : Serial} {f : Entry → Entry}
    (h : ∀ e, entryOf r serial = some e → e.Later (f e)) : RegMoves r (modifyEntry serial f r) := by
  unfold Machine.modifyEntry
  split
  · exact .refl r
  next i hi =>
    refine ⟨fun j => ?_⟩
    by_cases hij : i = j
    · subst hij
      rw [Tab.get_modify_self]
      cases he : r.get i with
      | none => exact .freed _
      | some e => exact .later (h e (by rw [entryOf, hi]; exact he))
    · rw [Tab.get_modify_other _ _ _ _ hij]
      exact .refl _

/-! ### Insertion (R114) -/

theorem victim_mem {r : Registry} {ways : List RegIx} {i : RegIx} (h : victim r ways = some i) :
    i ∈ ways ∧ (victimTime r i).isSome = true := by
  induction ways with
  | nil => cases h
  | cons j rest ih =>
    unfold victim at h
    split at h
    next hrest => exact ⟨List.mem_cons_of_mem _ (ih h).1, (ih h).2⟩
    next hj _ => cases h; exact ⟨List.mem_cons_self, by simp [hj]⟩
    next hj hrest =>
      split at h <;> cases h
      · exact ⟨List.mem_cons_of_mem _ (ih hrest).1, (ih hrest).2⟩
      · exact ⟨List.mem_cons_self, by simp [hj]⟩

/-- An insertion takes a place of the serial's row that is free or holds an evictable entry. -/
theorem insertEntry_some {e : Entry} {r : Registry} {ins : Inserted} (h : insertEntry e r = some ins) :
    ins.place ∈ rowPositions (rowOf e.serial) ∧ ins.registry = r.set ins.place (some e)
      ∧ ∀ v, r.get ins.place = some v → v.evictable = true := by
  unfold insertEntry at h
  simp only at h
  split at h
  next i hi =>
    cases h
    have hfree : r.get i = none := by simpa using List.find?_some hi
    exact ⟨List.mem_of_find?_eq_some hi, rfl, fun v hv => by rw [hfree] at hv; cases hv⟩
  next =>
    split at h
    · cases h
    next i hi =>
      cases h
      obtain ⟨hmem, htime⟩ := victim_mem hi
      refine ⟨hmem, rfl, fun v hv => ?_⟩
      simp only at hv
      rw [victimTime, hv] at htime
      by_contra hno
      simp [hno] at htime

/-- The registry is in order (R109, R110, R112). -/
def PlacedReg (r : Registry) : Prop :=
  ∀ i e, r.get i = some e →
    i ∈ rowPositions (rowOf e.serial) ∧ (∀ j f, r.get j = some f → f.serial = e.serial → j = i) ∧ e.Settled

theorem registryPlaced_iff {s : State} : RegistryPlaced s ↔ PlacedReg s.registry := Iff.rfl

/-- While a place keeps its serial, its delivered set grows (R112). -/
def RegGrows (r r' : Registry) : Prop :=
  ∀ i e e', r.get i = some e → r'.get i = some e' → e'.serial = e.serial →
    ∀ k, e.delivered.getLsbD k = true → e'.delivered.getLsbD k = true

/-- A change of the registry that keeps it in order and lets delivered sets only grow. -/
structure RegStep (r r' : Registry) : Prop where
  placed : PlacedReg r → PlacedReg r'
  grows : RegGrows r r'

theorem RegMoves.placed {r r' : Registry} (h : RegMoves r r') (hp : PlacedReg r) : PlacedReg r' := by
  intro i e' he'
  obtain ⟨e, he, hl⟩ := h.moved i e' he'
  obtain ⟨hrow, honce, hset⟩ := hp i e he
  refine ⟨hl.serial ▸ hrow, fun j f' hf' hs => ?_, hl.settled hset⟩
  obtain ⟨f, hf, hlf⟩ := h.moved j f' hf'
  exact honce j f hf (by rw [← hlf.serial, hs, hl.serial])

theorem RegMoves.step {r r' : Registry} (h : RegMoves r r') : RegStep r r' where
  placed := h.placed
  grows i e e' he he' _ k hk := by
    obtain ⟨f, hf, hl⟩ := h.moved i e' he'
    cases he.symm.trans hf
    exact hl.delivered k hk

theorem RegStep.trans_moves {r r' r'' : Registry} (h : RegStep r r') (g : RegMoves r' r'') : RegStep r r'' where
  placed hp := g.placed (h.placed hp)
  grows i e e'' he he'' hs k hk := by
    obtain ⟨e', he', hl⟩ := g.moved i e'' he''
    exact hl.delivered k (h.grows i e e' he he' (hl.serial.symm.trans hs) k hk)

/-- A new entry for a serial that is absent from its row keeps the order (R109, R114). -/
theorem PlacedReg.insert {r : Registry} {e : Entry} {i : RegIx} (hr : PlacedReg r) (hl : lookupSerial r e.serial = none)
    (hi : i ∈ rowPositions (rowOf e.serial)) (he : e.Settled) : PlacedReg (r.set i (some e)) := by
  have habsent : ∀ j f, r.get j = some f → f.serial ≠ e.serial := fun j f hf hs =>
    lookupSerial_none.1 hl j (hs ▸ (hr j f hf).1) f hf hs
  intro j f hf
  rw [Tab.get_set] at hf
  split at hf
  next hij =>
    cases hf
    refine ⟨hij ▸ hi, fun k g hg hs => ?_, he⟩
    rw [Tab.get_set] at hg
    split at hg
    next hik => exact hik.symm.trans hij
    next => exact absurd hs (habsent k g hg)
  next hij =>
    obtain ⟨hrow, honce, hset⟩ := hr j f hf
    refine ⟨hrow, fun k g hg hs => ?_, hset⟩
    rw [Tab.get_set] at hg
    split at hg
    next => cases hg; exact absurd hs.symm (habsent j f hf)
    next => exact honce k g hg hs

theorem settled_newEntry (serial : Serial) (origin : Origin) (recipe : Option (Fin 16)) :
    (newEntry serial origin recipe).Settled := by
  simp [Entry.Settled, newEntry]

/-- One insertion of a new entry (R114). -/
theorem regStep_insertEntry {serial : Serial} {origin : Origin} {recipe : Option (Fin 16)} {r : Registry} {ins : Inserted}
    (hl : lookupSerial r serial = none) (h : insertEntry (newEntry serial origin recipe) r = some ins) :
    RegStep r ins.registry := by
  obtain ⟨hmem, hreg, -⟩ := insertEntry_some h
  rw [hreg]
  refine ⟨fun hp => hp.insert hl hmem (settled_newEntry ..), fun i e e' he he' hs => ?_⟩
  rw [Tab.get_set] at he'
  split at he'
  next hi =>
    cases he'
    exact absurd hs.symm (lookupSerial_none.1 hl i (hi ▸ hmem) e he)
  next => cases he.symm.trans he'; exact fun _ h => h

end Sys2Proof.Machine
end

section
/-! The registry under every operation and every event. -/

namespace Sys2Proof.Machine
open Sys2Proof.Safety

/-! ### The manifest (R86) -/

/-- Every entry stays where it is, later. -/
def RegKept (r r' : Registry) : Prop := ∀ i e, r.get i = some e → ∃ e', r'.get i = some e' ∧ e.Later e'

theorem RegKept.refl (r : Registry) : RegKept r r := fun _ e h => ⟨e, h, .refl e⟩

theorem RegKept.trans {r r' r'' : Registry} (h : RegKept r r') (g : RegKept r' r'') : RegKept r r'' := fun i e he => by
  obtain ⟨e', he', hl⟩ := h i e he
  obtain ⟨e'', he'', hl'⟩ := g i e' he'
  exact ⟨e'', he'', hl.trans hl'⟩

theorem RegKept.modifyEntry {serial : Serial} {f : Entry → Entry} (h : ∀ e : Entry, e.Later (f e)) (r : Registry) :
    RegKept r (modifyEntry serial f r) := by
  unfold Machine.modifyEntry
  split
  · exact .refl r
  next i _ =>
    intro j e he
    by_cases hij : i = j
    · subst hij
      exact ⟨f e, by rw [Tab.get_modify_self, he]; rfl, h e⟩
    · exact ⟨e, by rw [Tab.get_modify_other _ _ _ _ hij, he], .refl e⟩

theorem pinLines_moves (lines : List ManifestLine) (r : Registry) :
    RegMoves r (pinLines lines r) ∧ RegKept r (pinLines lines r) := by
  induction lines generalizing r with
  | nil => exact ⟨.refl r, .refl r⟩
  | cons x rest ih =>
    obtain ⟨hm, hk⟩ := ih (modifyEntry x.serial (Entry.pinned x.recipe) r)
    exact ⟨(RegMoves.modifyEntry fun e _ => e.later_pinned _).trans hm, (RegKept.modifyEntry (Entry.later_pinned _) r).trans hk⟩

/-- From `r` to `r'`, places have only been filled with entries of other serials than those they held, which may not be evicted. -/
def RegFilled (r r' : Registry) : Prop :=
  ∀ i, r'.get i = r.get i ∨ ∃ e', r'.get i = some e' ∧ e'.evictable = false ∧ ∀ e, r.get i = some e → e.serial ≠ e'.serial

theorem regFilled_insert {r r' : Registry} {serial : Serial} {recipe : Option (Fin 16)} {ins : Inserted} (h : RegFilled r r')
    (hl : lookupSerial r' serial = none) (hi : insertEntry (newEntry serial .manifest recipe) r' = some ins) :
    RegFilled r ins.registry := by
  obtain ⟨hmem, hreg, hevict⟩ := insertEntry_some hi
  intro i
  rw [hreg, Tab.get_set]
  split
  next hplace =>
    refine .inr ⟨_, rfl, rfl, fun e he => ?_⟩
    rcases h i with hsame | ⟨f, hf, hno, -⟩
    · exact lookupSerial_none.1 hl i (hplace ▸ hmem) e (hsame.trans he)
    · exact absurd (hevict f (hplace ▸ hf)) (by simp [hno])
  next => exact h i

theorem insertLines_passed {lines : List ManifestLine} {r : Registry} {a b : Applied} (h : insertLines a lines = .passed b) :
    (PlacedReg a.registry → PlacedReg b.registry) ∧ (RegFilled r a.registry → RegFilled r b.registry) := by
  induction lines generalizing a with
  | nil => cases h; exact ⟨id, id⟩
  | cons x rest ih =>
    unfold insertLines at h
    split at h
    · exact ih h
    next hl =>
      split at h
      · cases h
      next ins hins =>
        obtain ⟨hp, hf⟩ := ih h
        exact ⟨fun hr => hp ((regStep_insertEntry hl hins).placed hr), fun hr => hf (regFilled_insert hr hl hins)⟩

/-- A manifest applied keeps the registry in order, and no place takes its serial back (R83, R86). -/
theorem regStep_applyManifest {lines : List ManifestLine} {r : Registry} {a : Applied} (h : applyManifest lines r = .passed a) :
    RegStep r a.registry := by
  obtain ⟨hmoves, hkept⟩ := pinLines_moves lines r
  obtain ⟨hplaced, hfilled⟩ := insertLines_passed (r := pinLines lines r) h
  refine ⟨fun hp => hplaced (hmoves.placed hp), fun i e e' he he' hs k hk => ?_⟩
  obtain ⟨f, hf, hl⟩ := hkept i e he
  rcases hfilled (fun _ => .inl rfl) i with hsame | ⟨g, hg, -, hne⟩
  · cases (hsame.trans hf).symm.trans he'
    exact hl.delivered k hk
  · cases hg.symm.trans he'
    exact absurd (hl.serial.trans hs.symm) (hne f hf)

/-! ### The operations that move entries where they stand -/

/-- The registry's places have moved from `s` to `t`. -/
structure RegsMove (s t : State) : Prop where
  moves : RegMoves s.registry t.registry

theorem RegsMove.of_eq {s t : State} (h : t.registry = s.registry) : RegsMove s t := ⟨h ▸ .refl _⟩

theorem RegsMove.trans {s t u : State} (h : RegsMove s t) (g : RegsMove t u) : RegsMove s u := ⟨h.moves.trans g.moves⟩

theorem RegsMove.keep {s t u : State} (h : RegsMove s t) (g : u.registry = t.registry) : RegsMove s u := h.trans (.of_eq g)

theorem RegsMove.after {s t u : State} (h : RegsMove t u) (g : t.registry = s.registry) : RegsMove s u := (RegsMove.of_eq g).trans h

section
variable {s t : State}

theorem regsMove_finishSession (p : Port) (ss : Session) (reason : VoidReason) (next : PortContext) :
    RegsMove s (finishSession p ss reason next s) := by
  have h : RegsMove s (unbindSerial ss.serial s) := ⟨RegMoves.modifyEntry fun e _ => e.later_unbound⟩
  unfold finishSession
  refine h.keep ?_
  simp only
  split <;> simp

theorem regsMove_endSession (reason : VoidReason) (p : Port) : RegsMove s (endSession reason p s) := by
  unfold endSession
  split
  · exact regsMove_finishSession ..
  · exact (regsMove_finishSession ..).after (by simp)
  · simp only
    split <;> exact (regsMove_finishSession ..).after (by simp)
  · exact .of_eq rfl

theorem regsMove_endAllSessions (reason : VoidReason) : RegsMove s (endAllSessions reason s) := by
  unfold endAllSessions
  induction allPorts generalizing s with
  | nil => exact .of_eq rfl
  | cons p l ih => exact (regsMove_endSession reason p).trans ih

theorem zeroiseStart_registry : (zeroiseStart s).registry = s.registry := by
  have h : (zeroiseStart s).registry = (zeroiseClose s.line (setLine .zeroised s)).registry := rfl
  rw [h]
  unfold zeroiseClose
  split <;> simp

theorem zeroiseWork_registry : (zeroiseWork s).registry = s.registry := by
  have h : (zeroiseWork s).registry = (zeroiseCeremony s).registry := rfl
  rw [h]
  unfold zeroiseCeremony
  split <;> simp

theorem regsMove_zeroisePart (cause : TamperCause) : RegsMove s (zeroisePart cause s) := by
  rw [zeroisePart_eq]
  have hend := regsMove_endAllSessions (s := zeroiseWork (zeroiseStart s)) .zeroised
  exact (hend.after (by rw [zeroiseWork_registry, zeroiseStart_registry])).keep (by simp [tamperJournal])

theorem regsMove_zeroiseAfterReset : RegsMove s (zeroiseAfterReset s) := by
  unfold zeroiseAfterReset
  split
  · exact (regsMove_zeroisePart _).after (by rfl)
  · split
    · exact regsMove_zeroisePart _
    · exact .of_eq rfl

theorem regsMove_resetPart (cause : ResetCause) : RegsMove s (resetPart cause s) := by
  have hfound : RegsMove s (foundStore s) := by
    unfold foundStore
    split
    · exact ⟨⟨fun i => by
        rw [show State.registry { s with store := Store.initial } = Tab.fill 256 none from rfl, Tab.get_fill]; exact .freed _⟩⟩
    · exact .of_eq rfl
  have hblocks : RegsMove (foundStore s) (resetBlocks cause (foundStore s)) :=
    ⟨⟨fun i => by rw [resetBlocks_registry_get]; exact placeMove_afterReset _⟩⟩
  rw [resetPart_eq]
  exact (hfound.trans hblocks).trans regsMove_zeroiseAfterReset

theorem regsMove_loseStore : RegsMove s (loseStore s) :=
  ⟨⟨fun i => by rw [show (loseStore s).registry = Tab.fill 256 none from rfl, Tab.get_fill]; exact .freed _⟩⟩

/-! ### Requests -/

/-- The registry has changed in order from `s` to `t`. -/
structure RegsStep (s t : State) : Prop where
  step : RegStep s.registry t.registry

theorem RegsMove.step (h : RegsMove s t) : RegsStep s t := ⟨h.moves.step⟩

theorem RegsStep.of_eq (h : t.registry = s.registry) : RegsStep s t := (RegsMove.of_eq h).step

theorem RegsStep.after {u : State} (h : RegsStep u t) (g : u.registry = s.registry) : RegsStep s t := ⟨g ▸ h.step⟩

theorem RegsStep.then_moves {u : State} (h : RegsStep s u) (g : RegsMove u t) : RegsStep s t := ⟨h.step.trans_moves g.moves⟩

theorem RegsStep.keep {u : State} (h : RegsStep s u) (g : t.registry = u.registry) : RegsStep s t := h.then_moves (.of_eq g)

theorem regsStep_regAdd (tag : Byte) (serial : Serial) (recipe : Option Nat) : RegsStep s (regAdd tag serial recipe s) := by
  have hrefuse : ∀ st, RegsStep s (refuse tag 0x30 st s) := fun st => .of_eq (by simp)
  have hchecked : ∀ r, RegsStep s (regAddChecked tag serial r s) := fun r => by
    unfold regAddChecked
    split
    · exact hrefuse _
    · split
      next i hi =>
        have hmoves : RegsMove s (s.setRegistry (s.registry.modify i (Option.map (Entry.pinned r)))) :=
          ⟨.modify (Entry.later_pinned r)⟩
        exact (hmoves.keep (by simp)).step
      next hl =>
        split
        · exact hrefuse _
        next ins hins =>
          have hstep : RegsStep s (s.setRegistry ins.registry) := ⟨regStep_insertEntry hl hins⟩
          exact hstep.keep (by simp)
  unfold regAdd
  split
  · exact hrefuse _
  · split
    · exact hchecked _
    · split
      · exact hrefuse _
      · exact hchecked _

theorem settable_ne_loading {old new : EntryState} (h : settable old new = true) : new ≠ .loading := by
  rintro rfl
  cases old <;> cases h

theorem regsMove_regSetState (tag : Byte) (serial : Serial) (expected new : Nat) :
    RegsMove s (regSetState tag serial expected new s) := by
  have hrefuse : ∀ st, RegsMove s (refuse tag 0x32 st s) := fun st => .of_eq (by simp)
  unfold regSetState
  split
  · exact hrefuse _
  · split
    next e n _ _ =>
      split
      · exact hrefuse _
      next hset =>
        split
        · exact hrefuse _
        · split
          · exact hrefuse _
          next i _ _ x hx =>
            unfold setEntryState
            split
            · exact hrefuse _
            next hb =>
              split
              · exact .of_eq (by simp)
              · split
                · exact hrefuse _
                · have hlater : x.Later (x.withState n) :=
                    Entry.later_withState (by simpa using hb) (settable_ne_loading (by simpa using hset))
                  have hmoves : RegsMove s (s.setRegistry (s.registry.set i (some (x.withState n)))) :=
                    ⟨RegMoves.set (hx ▸ .later hlater)⟩
                  exact hmoves.keep (by simp)
    next => exact hrefuse _

theorem regsMove_regRemove (tag : Byte) (serial : Serial) (expected : Nat) :
    RegsMove s (regRemove tag serial expected s) := by
  have hrefuse : ∀ st, RegsMove s (refuse tag 0x33 st s) := fun st => .of_eq (by simp)
  unfold regRemove
  split
  · exact hrefuse _
  · split
    · exact hrefuse _
    · split
      · exact hrefuse _
      · split
        · exact hrefuse _
        next i _ _ x _ =>
          unfold removeEntry
          split
          · exact hrefuse _
          · split
            · exact .of_eq (by simp)
            · have hmoves : RegsMove s (s.setRegistry (s.registry.set i none)) := ⟨RegMoves.set (.freed _)⟩
              exact hmoves.keep (by simp)

theorem removeAged_moves (limit : Nat) (r : Registry) : RegMoves r (removeAged limit r) := by
  refine ⟨fun i e' he' => ?_⟩
  rw [removeAged_get] at he'
  obtain ⟨e, he, hn⟩ := Option.bind_eq_some_iff.1 he'
  unfold notAged at hn
  (repeat' split at hn) <;> cases hn <;> exact ⟨_, he, .refl _⟩

theorem regsStep_profileCommit (tag : Byte) (check : Check32) : RegsStep s (profileCommit tag check s) := by
  have hrefuse : ∀ st u, u.registry = s.registry → RegsStep s (refuse tag 0x03 st u) := fun st u h => .of_eq (by simp [h])
  unfold profileCommit
  split
  · exact hrefuse _ _ rfl
  · simp only
    split
    · exact hrefuse _ _ rfl
    · split
      · exact hrefuse _ _ rfl
      · split
        · exact .of_eq (by simp [refuseAt, State.registry])
        next staged _ =>
          split
          · exact .of_eq (by simp [refuseAt, State.registry])
          next a ha =>
            have hstep : RegStep s.registry a.registry := regStep_applyManifest ha
            have haged := removeAged_moves staged.profile.params.ageLimit a.registry
            have hreg : (commitProfile tag check staged a { s with stream := none }).registry
                = removeAged staged.profile.params.ageLimit a.registry := by
              simp [commitProfile, State.registry, applyPortTable_store]
            exact ⟨hreg ▸ hstep.trans_moves haged⟩

theorem regsMove_lineClose (tag : Byte) : RegsMove s (lineClose tag s) := by
  have hend := regsMove_endAllSessions (s := setLine (.closing tag) s) .lineClosed
  have hbegin : RegsMove s (beginClose tag s) := (hend.after (by simp)).keep (by simp [beginClose])
  unfold lineClose
  split
  case h_2 | h_3 => exact hbegin
  all_goals exact .of_eq (by simp)

/-- The registry requests are handed to the registry. -/
def registryRequest : Instr → Bool
  | .regAdd .. | .regSetState .. | .regRemove .. => true
  | _ => false

theorem portRequest_registry {c : Instr} (h : lightRequest c = true) (hr : registryRequest c = false) :
    (requestHandler c s).registry = s.registry := by
  cases c <;> simp only [lightRequest, registryRequest, Bool.true_eq_false, Bool.false_eq_true] at h hr <;>
    simp only [requestHandler]
  case profileBegin => unfold profileBegin; split <;> rfl
  case profileBlock => unfold profileBlock; (repeat' split) <;> rfl
  case linePause => unfold linePause; split <;> simp
  case lineResume => unfold lineResume; split <;> simp
  case slotQuery => unfold slotQuery; split <;> simp
  case regQuery => unfold regQuery; (repeat' split) <;> simp
  case regScan => unfold regScan; split <;> simp
  case counterRead => unfold counterRead; (repeat' split) <;> simp
  case journalRead => unfold journalRead; split <;> simp
  case journalRelease => unfold journalRelease; simp only; (repeat' split) <;> simp
  case status => unfold statusRequest clearCountsIf; split <;> rfl
  all_goals rfl

theorem regsStep_requestHandler (c : Instr) : RegsStep s (requestHandler c s) := by
  cases hl : lightRequest c with
  | true =>
    cases hr : registryRequest c with
    | false => exact .of_eq (portRequest_registry hl hr)
    | true =>
      cases c <;> simp only [registryRequest, Bool.false_eq_true] at hr
      case regAdd tag serial recipe => exact regsStep_regAdd tag serial recipe
      case regSetState tag serial expected new => exact (regsMove_regSetState tag serial expected new).step
      case regRemove tag serial expected => exact (regsMove_regRemove tag serial expected).step
  | false =>
    cases c <;> simp only [lightRequest, Bool.true_eq_false] at hl
    case profileCommit tag check => exact regsStep_profileCommit tag check
    case lineClose tag => exact (regsMove_lineClose tag).step
    case lineReset => exact (regsMove_resetPart .lineReset).step
    case importKey tag body => exact .of_eq (congrArg State.registry (importKey_frame tag body) :)
    case counterAdvance tag n value => exact .of_eq (congrArg State.registry (counterAdvance_frame tag n value) :)

/-! ### Bench messages -/

theorem lookupSerial_of_entryOf_none {r : Registry} {serial : Serial} (h : entryOf r serial = none) : lookupSerial r serial = none := by
  cases hl : lookupSerial r serial with
  | none => rfl
  | some i =>
    obtain ⟨-, e, he, -⟩ := lookupSerial_some hl
    rw [entryOf, hl] at h
    exact absurd (he.symm.trans h) nofun

theorem regsStep_findForHello (serial : Serial) (model : ModelCode) : RegsStep s (findForHello serial model s).2 := by
  unfold findForHello
  split
  · split <;> exact .of_eq rfl
  next hl =>
    split
    · split
      · exact .of_eq rfl
      · simp only
        split
        · exact .of_eq rfl
        next ins hins => exact ⟨regStep_insertEntry (lookupSerial_of_entryOf_none hl) hins⟩
    · exact .of_eq rfl

/-- The entry that a HELLO finds or inserts is not bound (R117). -/
theorem findForHello_unbound {serial : Serial} {model : ModelCode} {e x : Entry}
    (h : findForHello serial model s = (.entry e, t)) (hx : entryOf t.registry e.serial = some x) : x.boundPort = none := by
  unfold findForHello at h
  split at h
  next f hf =>
    obtain ⟨-, -, -, hs⟩ := entryOf_some hf
    (repeat' split at h) <;> cases h
    next hb _ _ =>
      rw [hs, hf] at hx
      cases hx
      exact hb
  next hl =>
    simp only at h
    (repeat' split at h) <;> cases h
    next hins =>
      obtain ⟨-, hreg, -⟩ := insertEntry_some hins
      obtain ⟨i, hi, hget, hs⟩ := entryOf_some hx
      obtain ⟨hmem, -⟩ := lookupSerial_some hi
      rw [State.registry_setRegistry, hreg, Tab.get_set] at hget
      split at hget
      · cases hget; rfl
      · exact absurd hs (lookupSerial_none.1 (lookupSerial_of_entryOf_none hl) i hmem x hget)

theorem regsMove_bindSession {p : Port} {e : Entry} {r : Recipe}
    (he : ∀ x, entryOf s.registry e.serial = some x → x.boundPort = none) : RegsMove s (bindSession p e r s) := by
  unfold bindSession
  simp only
  split
  · have hmove : RegsMove s (s.setRegistry (modifyEntry e.serial Entry.completedAtBind s.registry)) :=
      ⟨.modifyEntry fun x hx => Entry.later_completedAtBind (he x hx)⟩
    exact hmove.keep (by simp [helloRefused])
  · have hmove : RegsMove s (s.setRegistry (modifyEntry e.serial (Entry.bound p r) s.registry)) :=
      ⟨.modifyEntry fun x _ => x.later_bound p r⟩
    exact hmove.keep (by simp)

theorem regsStep_helloFound (p : Port) (serial : Serial) (model : ModelCode) : RegsStep s (helloFound p serial model s) := by
  unfold helloFound
  split
  all_goals
    rename_i hfind
    have hs := regsStep_findForHello (s := s) serial model
    rw [hfind] at hs
  case h_7 =>
    split
    · exact hs.keep (by simp [helloRefused])
    · exact hs.then_moves (regsMove_bindSession fun x hx => findForHello_unbound hfind hx)
  all_goals exact hs.keep (by simp [helloRefused])

theorem regsStep_hello (p : Port) (serial : Serial) (model : ModelCode) : RegsStep s (hello p serial model s) := by
  unfold hello
  split
  · unfold helloTaken
    split
    · split
      · exact regsStep_helloFound ..
      · exact .of_eq (by simp [helloRefused])
    · exact .of_eq (by simp)
    · exact .of_eq (by simp)
  · exact .of_eq (by simp)

theorem admitStep_registry {p : Port} {kind : StepType} {source cover : SlotIx} {a : Admission}
    (h : admitStep p kind source cover s = .admitted a t) : t.registry = s.registry := by
  have hcover : ∀ {k : HeldKey} {d : Option (Nat × Nat)}, admitCover p source cover k d s = .admitted a t → t.registry = s.registry := by
    intro k d h
    unfold admitCover at h
    (repeat' split at h) <;> cases h
    · rfl
    · simp [allocateCounter]
  unfold admitStep at h
  (repeat' split at h) <;> try cases h
  all_goals exact hcover h

theorem fetchStep_registry (p : Port) (index : Nat) : (fetchStep p index s).registry = s.registry := by
  unfold fetchStep
  split
  · unfold fetchTaken
    (repeat' split) <;> try simp
    unfold admitFetch
    rcases Nat.lt_or_ge s.journal.occupancy 511 with hf | hf
    · rw [requestReservation_granted hf]
      simp only
      split
      · simp
      next ha =>
        have hreg := admitStep_registry ha
        simpa [startStep] using hreg
    · rw [requestReservation_refused hf]
      simp
  · simp

theorem regsMove_confirm (p : Port) (index : Nat) (kcv : Kcv) : RegsMove s (confirm p index kcv s) := by
  unfold confirm
  split
  next ss _ ps _ _ =>
    split
    · exact .of_eq (by simp)
    · split
      · have hmove : RegsMove s (s.setRegistry (modifyEntry ss.serial (Entry.deliver ps.facts.index ss.stepCount) s.registry)) :=
          ⟨.modifyEntry fun x _ => x.later_deliver _ _⟩
        unfold confirmMatch
        simp only
        split <;> exact hmove.keep (by simp)
      · have hmove : ∀ u, RegsMove u (u.setRegistry (modifyEntry ss.serial (Entry.mismatch (retryLimit u)) u.registry)) :=
          fun u => ⟨.modifyEntry fun x _ => x.later_mismatch _⟩
        unfold confirmMismatch
        simp only
        split <;>
          exact ((hmove (endStep p ps (.voided ps.facts ps.expected .kcvMismatch) s)).after (by simp)).keep (by simp)
  next => exact .of_eq (by simp)

theorem regsMove_bye (p : Port) : RegsMove s (bye p s) := by
  unfold bye
  split
  case h_4 => exact .of_eq (by simp)
  all_goals exact (regsMove_endSession .abandoned p).keep (by simp)

theorem regsStep_benchHandler (c : Instr) : RegsStep s (benchHandler c s) := by
  cases c
  case hello p serial model => exact regsStep_hello p serial model
  case fetch p index => exact .of_eq (fetchStep_registry p index)
  case confirm p index kcv => exact (regsMove_confirm p index kcv).step
  case bye p => exact (regsMove_bye p).step
  case benchBadMessage p => exact .of_eq (by simp [benchHandler])
  all_goals exact .of_eq rfl

/-! ### Everything else -/

theorem regsMove_personHandler {c : Instr} {l : ConsoleLink} {kind : Byte} (h : consoleMessage? c = some (l, kind))
    (hn : needsLogon c = true) (p : Person) : RegsMove s (personHandler c p s) := by
  by_cases ha : c = .accept l
  · subst ha
    exact .of_eq (congrArg State.registry (acceptCeremony_frame l p) :)
  · by_cases hz : c = .zeroise l
    · subst hz
      exact (regsMove_zeroisePart _).after (answer_keeps ..).2.2.2.1
    · exact .of_eq (congrArg State.registry (personHandler_frame h hn ha hz p) :)

theorem prepareHandled_registry (j : Job) : (prepareHandled j s).registry = s.registry := by
  unfold prepareHandled
  split
  · rfl
  next p _ =>
    split
    · unfold drainComplete
      split <;> simp
    · split
      · split
        · rfl
        · unfold offerStep
          split <;> simp
      · rfl

theorem completion_registry {fits : JobInputs → Bool} {handle : Job → State → State} (h : Completes fits handle) (j : Job) :
    (handle j s).registry = s.registry := by
  cases h with
  | prepareShared | prepareDerived => exact prepareHandled_registry j
  | checkComponent => exact (congrArg State.registry (checkComponentHandled_frame j) :)
  | combine => exact (congrArg State.registry (combineHandled_frame j) :)
  | unwrap => exact (congrArg State.registry (unwrapHandled_frame j) :)

theorem regsMove_expiry {expire : State → State} (h : Expiry expire) : RegsMove s (expire s) := by
  cases h with
  | custodianIdle l =>
    unfold custodianIdleExpired
    split <;> exact .of_eq (by simp)
  | window =>
    unfold windowExpired
    split
    · split <;> exact .of_eq (by simp)
    · exact .of_eq rfl
  | sessionIdle p =>
    unfold sessionIdleExpired
    split
    · exact regsMove_endSession ..
    · exact .of_eq rfl
  | entryAged i =>
    unfold entryAged
    split
    · exact ⟨RegMoves.set (.freed _)⟩
    · exact .of_eq rfl

theorem regsMove_level {change : State → State} (h : LevelChange change) : RegsMove s (change s) := by
  cases h with
  | consoleArrives l => exact .of_eq rfl
  | consoleLeaves l =>
    unfold consoleLeaves
    simp only
    (repeat' split) <;> exact .of_eq (by simp)
  | terminalArrives p =>
    unfold terminalArrives
    simp only
    (repeat' split) <;> exact .of_eq rfl
  | terminalLeaves p =>
    unfold terminalLeaves contextDetached
    simp only
    split
    · exact .of_eq rfl
    · split
      · exact .of_eq rfl
      · split
        case h_4 => exact (regsMove_endSession .detached p).after (by rfl)
        all_goals exact .of_eq rfl
  | coverOpens =>
    unfold coverOpens
    split
    · exact .of_eq rfl
    · simp only
      split
      · exact (regsMove_zeroisePart .tamperLine).after (by rfl)
      · refine .of_eq ?_
        unfold setLatch
        split <;> rfl
  | coverCloses => exact .of_eq rfl
  | powerArrives =>
    unfold powerArrives
    split
    · exact .of_eq rfl
    · simp only
      split
      · exact .of_eq rfl
      · exact (regsMove_resetPart _).after (by rfl)
  | powerLeaves =>
    unfold powerLeaves
    split
    · exact .of_eq rfl
    · simp only
      split
      · exact .of_eq rfl
      · exact regsMove_loseStore.after (by rfl)
  | batteryLeaves =>
    unfold batteryLeaves
    simp only
    split
    · exact .of_eq rfl
    · exact regsMove_loseStore.after (by rfl)
  | pinAsserted => exact .of_eq rfl
  | pinReleased =>
    unfold pinReleased
    split
    · exact .of_eq rfl
    · simp only
      split
      · exact .of_eq rfl
      · exact (regsMove_resetPart _).after (by rfl)

/-- What one command does to the registry. -/
theorem regsStep_happens (h : Happens s t) : RegsStep s t := by
  cases h with
  | nothing => exact .of_eq rfl
  | frameError | overrun => exact .of_eq rfl
  | fetch clocks =>
    refine .of_eq ?_
    unfold responseFetch readyFollowsQueue
    simp only
    (repeat' split) <;> rfl
  | request => exact (regsStep_requestHandler _).after (by rfl)
  | unreadable => exact .of_eq rfl
  | receiver k r => cases k <;> exact .of_eq rfl
  | busy | notLoggedOn => exact .of_eq rfl
  | @console c l kind hc hn => exact .of_eq (congrArg State.registry (consoleHandler_frame hc hn (heard l s)) :)
  | person hc hn => exact ((regsMove_personHandler hc hn _).after (by rfl)).step
  | unknownOpen => exact .of_eq (congrArg State.registry (openCeremony_withCeremony ..) :)
  | bench => exact (regsStep_benchHandler _).after (by rfl)
  | sent k =>
    refine .of_eq ?_
    cases k <;> (unfold transmitDone; simp only; split <;> rfl)
  | level hl => exact (regsMove_level hl).step
  | expiry he => exact (regsMove_expiry he).step
  | @completion fits handle j hc =>
    have hkeep : (handle j (jobTaken s)).registry = s.registry := completion_registry hc j
    exact .of_eq (by simpa using hkeep)

theorem regsStep_step (h : step s = .next t) : RegsStep s t := by
  rcases happens_of_step h with rfl | ⟨c, rest, -, hc⟩
  · unfold tick
    split
    · exact .of_eq rfl
    · exact RegsMove.step ⟨RegMoves.map (fun x => .map Entry.later_counted x) _⟩
  · exact (regsStep_happens hc).after rfl

end

end Sys2Proof.Machine

open Sys2Proof Sys2Proof.Machine Sys2Proof.Safety

/-- Settles O57: a step only moves slots and registry places along their lives, and each such move keeps the invariants. -/
theorem stepKeepsCountersAndRegistry : Obligations.StepKeepsCountersAndRegistry := fun _ _ h =>
  ⟨countersInRange_step h, (regsStep_step h).step.placed⟩

/-- Settles O59: along every move of a slot the counter only rises, and along every move of a place the delivered set only grows. -/
theorem countersAndDeliveredSetsOnlyGrow : Obligations.CountersAndDeliveredSetsOnlyGrow := fun _ _ h =>
  ⟨fun _ _ _ _ _ hg hs ht => counters_grow h hg hs ht, (regsStep_step h).step.grows⟩

end

section
/-! The custodian links and the Cipher Engine under every event: logons only end or begin by LOGON (R27, R33), the transmit queues
stay bounded (R200, R201), and the engine's record stays in order (R132). -/

namespace Sys2Proof.Machine
open Sys2Proof.Safety

/-! ### Transmit queues (R201) -/

/-- The answers in a transmit queue. -/
def answersIn (q : List ConsoleOut) : Nat := (q.filter ConsoleOut.isAnswer).length

theorem answersIn_append (q r : List ConsoleOut) : answersIn (q ++ r) = answersIn q + answersIn r := by simp [answersIn]

theorem answersIn_cons (m : ConsoleOut) (q : List ConsoleOut) : answersIn (m :: q) = answersIn [m] + answersIn q :=
  answersIn_append [m] q

theorem answersIn_notice (n : Notice) : answersIn [.notice n] = 0 := rfl

theorem answersIn_answer (kind : Byte) (st : Status) (body : AnswerBody) : answersIn [.answer kind st body] = 1 := rfl

theorem answersDue_eq (c : Console) : c.answersDue = answersIn c.tx + if c.unanswered then 1 else 0 := rfl

theorem answersIn_dropNotice (q : List ConsoleOut) : answersIn (dropNotice q) = answersIn q := by
  induction q with
  | nil => rfl
  | cons m rest ih =>
    unfold dropNotice
    split
    · rw [answersIn_cons, ih, ← answersIn_cons]
    next h => simp [answersIn, h]

/-- A queue that holds a notice loses one message. -/
theorem length_dropNotice {q : List ConsoleOut} (h : answersIn q < q.length) : (dropNotice q).length + 1 = q.length := by
  induction q with
  | nil => simp at h
  | cons m rest ih =>
    unfold dropNotice
    split
    next hm =>
      rw [answersIn_cons, show answersIn [m] = 1 by simp [answersIn, hm], List.length_cons] at h
      rw [List.length_cons, ih (by omega), List.length_cons]
    next => rfl

theorem answersIn_joinConsoleQueue (q : List ConsoleOut) (m : ConsoleOut) :
    answersIn (joinConsoleQueue q m) = answersIn q + answersIn [m] := by
  unfold joinConsoleQueue
  split
  · exact answersIn_append ..
  · split
    · simp [answersIn]
    next head rest _ =>
      rw [List.cons_append, answersIn_cons, answersIn_append, answersIn_dropNotice, answersIn_cons head rest]
      omega

theorem length_joinConsoleQueue {q : List ConsoleOut} (m : ConsoleOut) (hq : q.length ≤ 8) (ha : answersIn q ≤ 4) :
    (joinConsoleQueue q m).length ≤ 8 := by
  unfold joinConsoleQueue
  split
  · simp; omega
  · split
    · simp
    next head rest h =>
      simp only [List.length_cons] at h hq
      have hrest : answersIn rest < rest.length := by
        rw [answersIn_cons] at ha
        omega
      have hdrop := length_dropNotice hrest
      simp
      omega

/-! ### A custodian link -/

/-- A link's queue is bounded (R200, R201). -/
def Console.Bounded (c : Console) : Prop := c.tx.length ≤ 8 ∧ c.answersDue ≤ 4

theorem queuesBounded_iff {s : State} : ConsoleQueuesBounded s ↔ ∀ l, (s.console l).Bounded := Iff.rfl

/-- A link later: bounded if it was, and nobody newly logged on, who is at a console that is present if it was. -/
structure Console.Kept (c c' : Console) : Prop where
  bounded : c.Bounded → c'.Bounded
  logon : ∀ who, c'.logon.map Logon.who = some who → c.logon.map Logon.who = some who ∧ (c.present = true → c'.present = true)

theorem Console.Kept.refl (c : Console) : c.Kept c := ⟨id, fun _ h => ⟨h, id⟩⟩

theorem Console.Kept.trans {c d e : Console} (h : c.Kept d) (g : d.Kept e) : c.Kept e :=
  ⟨fun hc => g.bounded (h.bounded hc), fun who hw => by
    obtain ⟨hd, hp⟩ := g.logon who hw
    obtain ⟨hc, hp'⟩ := h.logon who hd
    exact ⟨hc, fun h => hp (hp' h)⟩⟩

/-- A message joins the queue where the bound on answers leaves room for it. -/
theorem Console.kept_join (c : Console) {m : ConsoleOut} (h : c.answersDue + answersIn [m] ≤ 4) :
    c.Kept { c with tx := joinConsoleQueue c.tx m } := by
  refine ⟨fun hc => ⟨?_, ?_⟩, fun _ hw => ⟨hw, id⟩⟩
  · exact length_joinConsoleQueue m hc.1 (by have := hc.2; rw [answersDue_eq] at this; omega)
  · rw [answersDue_eq] at h ⊢
    simp only [answersIn_joinConsoleQueue]
    omega

theorem Console.kept_notice (c : Console) (n : Notice) : c.Kept { c with tx := joinConsoleQueue c.tx (.notice n) } := by
  refine ⟨fun hc => ?_, fun _ hw => ⟨hw, id⟩⟩
  exact (c.kept_join (by rw [answersIn_notice]; exact hc.2)).bounded hc

/-- The withheld answer takes the place it was counted for. -/
theorem Console.kept_answerWithheld {c : Console} (hu : c.unanswered = true) (kind : Byte) (st : Status) (body : AnswerBody) :
    c.Kept { c with unanswered := false, tx := joinConsoleQueue c.tx (.answer kind st body) } := by
  refine ⟨fun hc => ?_, fun _ hw => ⟨hw, id⟩⟩
  obtain ⟨hlen, hdue⟩ := hc
  rw [answersDue_eq, hu] at hdue
  refine ⟨length_joinConsoleQueue _ hlen (by omega), ?_⟩
  rw [answersDue_eq]
  simp only [answersIn_joinConsoleQueue, answersIn_answer]
  simpa using hdue

theorem Console.kept_withheld {c : Console} (hu : c.unanswered = true) : c.Kept { c with unanswered := false } := by
  refine ⟨fun hc => ⟨hc.1, ?_⟩, fun _ hw => ⟨hw, id⟩⟩
  have hdue := hc.2
  rw [answersDue_eq] at hdue ⊢
  simp only [hu] at hdue
  simp at hdue ⊢
  omega

/-- A link without a logon, its queue empty or as it was. -/
theorem Console.kept_loggedOff {c c' : Console} (hl : c'.logon = none) (ht : c'.tx = c.tx ∨ c'.tx = [])
    (hu : c'.unanswered = c.unanswered ∨ c'.unanswered = false) : c.Kept c' := by
  refine ⟨fun hc => ?_, fun who hw => by rw [hl] at hw; cases hw⟩
  obtain ⟨hlen, hdue⟩ := hc
  rw [answersDue_eq] at hdue
  rw [Console.Bounded, answersDue_eq]
  have hin : answersIn [] = 0 := rfl
  rcases ht with ht | ht <;> rcases hu with hu | hu <;> simp [ht, hu, hin] at hdue ⊢ <;> grind

/-! ### The engine -/

/-- Each pending job stands under its own requester, and the running job is the one last granted (R132). -/
def Engine.Stands (e : Engine) : Prop :=
  (∀ r j, e.waiting.get r = some j → j.requester = r) ∧ ∀ j, e.running = some j → j.requester = e.lastGranted

/-- The engine is not FREE while a job is pending (R132). -/
def Engine.Granted (e : Engine) : Prop := e.running = none → ∀ r, e.waiting.get r = none

theorem engineOrdered_iff {s : State} : EngineOrdered s ↔ s.engine.Granted ∧ s.engine.Stands := Iff.rfl

theorem Engine.Stands.drop {e : Engine} (h : e.Stands) (r : Fin 10) : ({ e with waiting := e.waiting.set r none } : Engine).Stands :=
  ⟨fun q j hj => h.1 q j (by rw [Tab.get_set] at hj; split at hj <;> [cases hj; exact hj]), h.2⟩

theorem Engine.Stands.join {e : Engine} (h : e.Stands) (r : Fin 10) (inputs : JobInputs) :
    ({ e with waiting := e.waiting.set r (some (newJob r inputs)) } : Engine).Stands := by
  refine ⟨fun q j hj => ?_, h.2⟩
  rw [Tab.get_set] at hj
  split at hj
  next hr => cases hj; exact hr
  next => exact h.1 q j hj

theorem Engine.Stands.zeroise {e : Engine} (h : e.Stands) : e.zeroise.Stands := by
  refine ⟨fun r j hj => ?_, fun j hj => ?_⟩
  · rw [Engine.zeroise, Tab.get_map] at hj
    obtain ⟨k, hk, rfl⟩ := Option.map_eq_some_iff.1 hj
    exact h.1 r k hk
  · obtain ⟨k, hk, rfl⟩ := Option.map_eq_some_iff.1 hj
    exact h.2 k hk

theorem Engine.Granted.zeroise {e : Engine} (h : e.Granted) : e.zeroise.Granted := fun hr q => by
  rw [Engine.zeroise, Tab.get_map, h (by simpa [Engine.zeroise] using hr) q]; rfl

/-! ### States -/

/-- From `s` to `t` nobody has logged on; who still is, is ENROLLED if he was. -/
def LogonsFewer (s t : State) : Prop :=
  t.running = true → s.running = true ∧ ∀ l c, LoggedOn l c t → LoggedOn l c s
    ∧ ((s.console l).present = true → (t.console l).present = true)
    ∧ ((∃ e, s.custodian c = some e ∧ e.lock = .enrolled) → ∃ e, t.custodian c = some e ∧ e.lock = .enrolled)

theorem LogonsFewer.trans {s t u : State} (h : LogonsFewer s t) (g : LogonsFewer t u) : LogonsFewer s u := fun hu => by
  obtain ⟨ht, hg⟩ := g hu
  obtain ⟨hs, hh⟩ := h ht
  refine ⟨hs, fun l c hl => ?_⟩
  obtain ⟨hl', hp', hc'⟩ := hg l c hl
  obtain ⟨hl'', hp, hc⟩ := hh l c hl'
  exact ⟨hl'', fun x => hp' (hp x), fun x => hc' (hc x)⟩

theorem LogonsFewer.held {s t : State} (h : LogonsFewer s t) (hs : LogonsHeld s) : LogonsHeld t := fun ht l c hl => by
  obtain ⟨hrun, hh⟩ := h ht
  obtain ⟨hl', hp', hc'⟩ := hh l c hl
  obtain ⟨hp, hc, honce⟩ := hs hrun l c hl'
  exact ⟨hp' hp, hc' hc, fun k hk => honce k (hh k c hk).1⟩

/-- What a change keeps, though it may leave a job pending that no job runs before. -/
structure LinksStood (s t : State) : Prop where
  stands : s.engine.Stands → t.engine.Stands
  queues : ConsoleQueuesBounded s → ConsoleQueuesBounded t
  logons : LogonsFewer s t

/-- What a change of the links and the engine keeps. -/
structure LinksKept (s t : State) : Prop extends LinksStood s t where
  granted : s.engine.Granted → t.engine.Granted

/-- The part of the state that the links and the engine are. -/
def linksOf (s : State) : Engine × Tab Console 2 × Tab (Option CustEntry) 8 × Bool :=
  (s.engine, s.consoles, s.store.custodians, s.running)

theorem LinksStood.trans {s t u : State} (h : LinksStood s t) (g : LinksStood t u) : LinksStood s u :=
  ⟨fun hs => g.stands (h.stands hs), fun hs => g.queues (h.queues hs), h.logons.trans g.logons⟩

theorem LinksKept.trans {s t u : State} (h : LinksKept s t) (g : LinksKept t u) : LinksKept s u :=
  ⟨h.toLinksStood.trans g.toLinksStood, fun hs => g.granted (h.granted hs)⟩

/-- The engine changes, or one table or the other: each part for itself. -/
theorem LinksKept.of_parts {s t : State} (hs : s.engine.Stands → t.engine.Stands) (hg : s.engine.Granted → t.engine.Granted)
    (hc : ∀ l, (s.console l).Kept (t.console l)) (hr : t.running = s.running)
    (hcust : ∀ c, (∃ e, s.custodian c = some e ∧ e.lock = .enrolled) → ∃ e, t.custodian c = some e ∧ e.lock = .enrolled) :
    LinksKept s t :=
  ⟨⟨hs, fun hq l => (hc l).bounded (hq l), fun ht => ⟨hr ▸ ht, fun l c hl => by
    obtain ⟨hl', hp⟩ := (hc l).logon c hl
    exact ⟨hl', hp, hcust c⟩⟩⟩, hg⟩

theorem LinksKept.of_eq {s t : State} (h : linksOf t = linksOf s) : LinksKept s t := by
  simp only [linksOf, Prod.mk.injEq] at h
  obtain ⟨he, hc, hcust, hr⟩ := h
  refine .of_parts (by rw [he]; exact id) (by rw [he]; exact id) (fun l => ?_) hr (fun c => ?_)
  · rw [State.console, State.console, hc]; exact .refl _
  · rw [State.custodian, State.custodian, hcust]; exact id

theorem LinksKept.refl (s : State) : LinksKept s s := .of_eq rfl

theorem LinksKept.keep {s t u : State} (h : LinksKept s t) (g : linksOf u = linksOf t) : LinksKept s u := h.trans (.of_eq g)

theorem LinksKept.after {s t u : State} (h : LinksKept t u) (g : linksOf t = linksOf s) : LinksKept s u := (LinksKept.of_eq g).trans h

theorem LinksStood.keep {s t u : State} (h : LinksStood s t) (g : linksOf u = linksOf t) : LinksStood s u :=
  h.trans (LinksKept.of_eq g).toLinksStood

theorem LinksKept.engine {s : State} {e : Engine} (hs : s.engine.Stands → e.Stands) (hg : s.engine.Granted → e.Granted) :
    LinksKept s { s with engine := e } := .of_parts hs hg (fun _ => .refl _) rfl fun _ => id

theorem LinksKept.setConsole {s : State} {l : ConsoleLink} {c : Console} (h : (s.console l).Kept c) : LinksKept s (s.setConsole l c) :=
  .of_parts id id (fun k => by
    rw [State.console, State.console, show (s.setConsole l c).consoles = s.consoles.set l c from rfl, Tab.get_set]
    split
    next hk => exact hk ▸ h
    next => exact .refl _) rfl fun _ => id

section
variable {s : State}

/-! ### The shared operations -/

theorem linksKept_withdrawJob (r : Fin 10) : LinksKept s (withdrawJob r s) := by
  unfold withdrawJob
  split
  · exact .refl s
  · refine .engine (fun h => h.drop r) fun h hn q => ?_
    rw [Tab.get_set]
    split
    · rfl
    · exact h hn q
  · refine .engine (fun h => ⟨h.1, fun j hj => ?_⟩) fun h hn q => h (by simpa using hn) q
    obtain ⟨k, hk, rfl⟩ := Option.map_eq_some_iff.1 hj
    exact h.2 k hk

theorem linksKept_requestJob (r : Fin 10) (inputs : JobInputs) : LinksKept s (requestJob r inputs s) := by
  unfold requestJob
  split
  · exact .engine (fun h => ⟨h.1, fun j hj => by cases hj; rfl⟩) fun _ => nofun
  next k hk => exact .engine (fun h => h.join r inputs) fun _ hn => absurd (hk.symm.trans hn) nofun

theorem linksStood_joinPending (r : Fin 10) (inputs : JobInputs) : LinksStood s (joinPending r inputs s) :=
  ⟨fun h => h.join r inputs, id, (LinksKept.refl s).logons⟩

/-- A grant leaves the engine FREE only with no job pending (R135, R137). -/
theorem granted_grantNext : (grantNext s).engine.Granted := by
  unfold grantNext
  split
  next hnone =>
    intro _ r
    have hmem : r ∈ grantOrder s.engine.lastGranted := by
      generalize s.engine.lastGranted = last
      unfold grantOrder
      simp only [List.mem_map, List.mem_range]
      exact ⟨(r.val + 9 - last.val) % 10, Nat.mod_lt _ (by omega), Fin.ext (by simp; omega)⟩
    have hr := List.find?_eq_none.1 hnone r hmem
    simpa using hr
  next r hr =>
    intro hn
    have hsome := List.find?_some hr
    simp only at hn
    simp [hn] at hsome

theorem linksStood_grantNext : LinksStood s (grantNext s) := by
  have hcons : (grantNext s).consoles = s.consoles := by simp
  refine ⟨fun h => ?_, fun h l => by rw [State.console, hcons]; exact h l, (LinksKept.of_eq (s := s) (t := { grantNext s with engine := s.engine }) (by simp [linksOf, State.running])).logons⟩
  unfold grantNext
  split
  · exact ⟨h.1, nofun⟩
  next r _ => exact ⟨(h.drop r).1, fun j hj => h.1 r j hj⟩

theorem linksKept_pushNotice (l : ConsoleLink) (n : Notice) : LinksKept s (pushConsole l (.notice n) s) := by
  unfold pushConsole
  simp only
  split
  · exact .setConsole ((s.console l).kept_notice n)
  · exact .refl s

theorem linksKept_noticeAll (n : Notice) : LinksKept s (noticeAll n s) := (linksKept_pushNotice 0 n).trans (linksKept_pushNotice 1 n)

/-- An answer joins where fewer than 4 are due (R200). -/
theorem linksKept_answer {l : ConsoleLink} (h : (s.console l).answersDue < 4) (kind : Byte) (st : Status) (body : AnswerBody) :
    LinksKept s (answer l kind st body s) := by
  unfold answer pushConsole
  simp only
  split
  · exact .setConsole ((s.console l).kept_join (by rw [answersIn_answer]; omega))
  · exact .refl s

theorem linksKept_answerWithheld (l : ConsoleLink) (st : Status) (body : AnswerBody) : LinksKept s (answerWithheld l st body s) := by
  unfold answerWithheld
  split
  next hu =>
    unfold answer pushConsole
    simp only
    split
    · have h := Console.kept_answerWithheld hu 0x05 st body
      simpa [State.setConsole, State.console] using LinksKept.setConsole h
    · exact .setConsole (Console.kept_withheld hu)
  next => exact .refl s

theorem linksKept_finishCeremony (w : CeremonyWork) (result : CeremonyResult) (run : CeremonyRun) :
    LinksKept s (finishCeremony w result run s) := by
  have hset : ∀ u, LinksKept u (State.setFlag .ceremonyEnd u) := fun _ => .of_eq rfl
  exact ((linksKept_noticeAll _).after (by rfl)).trans (hset _)

theorem linksKept_completeErasure (i : SlotIx) : LinksKept s (completeErasure i s) := by
  unfold completeErasure
  simp only
  split
  · split
    · exact (linksKept_finishCeremony ..).after (by rfl)
    · exact .of_eq rfl
  · exact .of_eq rfl

theorem linksKept_lowerInUse (i : SlotIx) : LinksKept s (lowerInUse i s) := by
  unfold lowerInUse
  simp only
  split
  · split
    · exact (linksKept_completeErasure i).after (by rfl)
    · exact .of_eq rfl
  · exact .of_eq rfl

theorem linksKept_endStep (p : Port) (ps : PendingStep) (body : RecordBody) : LinksKept s (endStep p ps body s) :=
  ((linksKept_lowerInUse _).trans (linksKept_lowerInUse _)).after (by rfl)

theorem linksKept_voidStep (p : Port) (kcv : PendingStep → Option Kcv) (reason : VoidReason) : LinksKept s (voidStep p kcv reason s) := by
  unfold voidStep
  split
  · exact .refl s
  · exact linksKept_endStep ..

theorem linksKept_abortCeremony (reason : AbortReason) (leaver : Option Cust) (w : CeremonyWork) :
    LinksKept s (abortCeremony reason leaver w s) := by
  rw [abortCeremony_eq]
  have htarget : LinksKept s (abandonTarget w s) := .of_eq (by unfold abandonTarget; split <;> simp [linksOf])
  have hanswer : ∀ u, LinksKept u (answerUnderCheck reason leaver w u) := fun u => by
    unfold answerUnderCheck
    split
    · exact linksKept_answerWithheld ..
    · exact .refl u
  have hclaims : LinksKept s (abortClaims reason leaver w s) := (htarget.keep (by simp [linksOf])).trans (hanswer _)
  exact (hclaims.trans (linksKept_withdrawJob _)).trans (linksKept_finishCeremony ..)

theorem linksKept_custodianLeft (c : Cust) : LinksKept s (custodianLeft c s) := by
  unfold custodianLeft
  split
  · split
    · exact linksKept_abortCeremony ..
    · exact .refl s
  · exact .refl s

theorem linksKept_endLogon (l : ConsoleLink) : LinksKept s (endLogon l s) := by
  unfold endLogon
  split
  · exact .refl s
  · have hout : LinksKept s (s.setConsole l { s.console l with logon := none }) :=
      .setConsole (Console.kept_loggedOff rfl (.inl rfl) (.inl rfl))
    exact hout.trans (linksKept_custodianLeft _)

/-- The logon of a link ends when it is the custodian's (R35). -/
def endLogonIf (c : Cust) (l : ConsoleLink) (s : State) : State :=
  if ((s.console l).logon.map Logon.who) = some c then endLogon l s else s

theorem endLogonsOf_eq (c : Cust) : endLogonsOf c s = endLogonIf c 1 (endLogonIf c 0 s) := rfl

theorem linksKept_endLogonIf (c : Cust) (l : ConsoleLink) : LinksKept s (endLogonIf c l s) := by
  unfold endLogonIf
  split
  · exact linksKept_endLogon l
  · exact .refl s

theorem linksKept_endLogonsOf (c : Cust) : LinksKept s (endLogonsOf c s) :=
  (linksKept_endLogonIf c 0).trans (linksKept_endLogonIf c 1)

theorem linksKept_endSession (reason : VoidReason) (p : Port) : LinksKept s (endSession reason p s) := by
  have hfinish : ∀ ss next u, linksOf (finishSession p ss reason next u) = linksOf u := fun _ _ _ => by simp [linksOf]
  unfold endSession
  split
  · exact .of_eq (hfinish ..)
  · exact (linksKept_voidStep ..).keep (hfinish ..)
  · simp only
    split
    · exact (linksKept_withdrawJob _).keep (hfinish ..)
    · exact ((linksKept_withdrawJob _).trans (linksKept_voidStep ..)).keep (hfinish ..)
  · exact .refl s

theorem linksKept_endAllSessions (reason : VoidReason) : LinksKept s (endAllSessions reason s) := by
  unfold endAllSessions
  induction allPorts generalizing s with
  | nil => exact .refl s
  | cons p l ih => exact (linksKept_endSession reason p).trans ih

theorem linksKept_zeroisePart (cause : TamperCause) : LinksKept s (zeroisePart cause s) := by
  rw [zeroisePart_eq]
  have hclose : LinksKept s (zeroiseSlots (zeroiseClose s.line (setLine .zeroised s))) := by
    refine .of_eq ?_
    have hslots : ∀ u, linksOf (zeroiseSlots u) = linksOf u := fun _ => rfl
    rw [hslots]
    unfold zeroiseClose
    split <;> simp [linksOf]
  have hstart : LinksKept s (zeroiseStart s) := hclose.trans (.engine (fun h => h.zeroise) fun h => h.zeroise)
  have hceremony : ∀ u, LinksKept u (zeroiseCeremony u) := fun u => by
    unfold zeroiseCeremony
    split
    · exact linksKept_abortCeremony ..
    · exact .refl u
  have hwork : LinksKept s (zeroiseWork (zeroiseStart s)) := (hstart.trans (hceremony _)).keep (by rfl)
  exact (hwork.trans (linksKept_endAllSessions .zeroised)).keep (by simp [linksOf, tamperJournal])

end

end Sys2Proof.Machine
end

section
/-! The custodian links and the Cipher Engine: the handlers and the events. -/

namespace Sys2Proof.Machine
open Sys2Proof.Safety

section
variable {s t : State}

/-! ### The table (R27, R28, R34, R35) -/

/-- A change of an entry that leaves whoever is logged on ENROLLED. -/
theorem linksKept_setCustodian {c : Cust} {x : Option CustEntry}
    (h : (∃ e, s.custodian c = some e ∧ e.lock = .enrolled) → ∃ e, x = some e ∧ e.lock = .enrolled) :
    LinksKept s (s.setCustodian c x) :=
  .of_parts id id (fun _ => .refl _) rfl fun d hd => by
    rw [State.custodian, show (s.setCustodian c x).store.custodians = s.store.custodians.set c x from rfl, Tab.get_set]
    split
    next hc => exact h (hc ▸ hd)
    next => exact hd

/-- A change of the entry of somebody who is not logged on. -/
theorem linksKept_setCustodian_absent {c : Cust} {x : Option CustEntry} (h : ∀ l, ¬LoggedOn l c s) : LinksKept s (s.setCustodian c x) :=
  ⟨⟨id, id, fun hr => ⟨hr, fun l d hd => ⟨hd, id, fun he => by
    rw [State.custodian, show (s.setCustodian c x).store.custodians = s.store.custodians.set c x from rfl, Tab.get_set]
    split
    next hc => exact absurd (hc ▸ hd) (h l)
    next => exact he⟩⟩⟩, id⟩

theorem linksKept_changeCustodian {action : CustodianAction} {who : Cust} {pair : Pair} {x : Option CustEntry}
    (h : (∃ e, s.custodian who = some e ∧ e.lock = .enrolled) → ∃ e, x = some e ∧ e.lock = .enrolled) :
    LinksKept s (changeCustodian action who pair x s) :=
  (linksKept_setCustodian (s := writeRecord .ceremony (.custodianChanged action who pair) s) h).after (by rfl)

theorem not_loggedOn_endLogon {l : ConsoleLink} {c : Cust} (hr : (endLogon l s).running = true) : ¬LoggedOn l c (endLogon l s) := by
  unfold endLogon at hr ⊢
  split at hr
  next hl => simp [LoggedOn, hl]
  next g _ =>
    intro hc
    have hkept := (linksKept_custodianLeft (s := s.setConsole l { s.console l with logon := none }) g.who).logons hr
    obtain ⟨hc', -⟩ := hkept.2 l c hc
    simp [LoggedOn] at hc'

theorem not_loggedOn_endLogonIf {l : ConsoleLink} {c : Cust} (hr : (endLogonIf c l s).running = true) :
    ¬LoggedOn l c (endLogonIf c l s) := by
  unfold endLogonIf at hr ⊢
  split at hr
  next h => rw [if_pos h]; exact not_loggedOn_endLogon hr
  next h => rw [if_neg h]; exact h

theorem eq_or_eq_otherConsole (k l : ConsoleLink) : k = l ∨ k = otherConsole l := by
  fin_cases k <;> fin_cases l <;> simp [otherConsole]

/-- A custodian whose logons have ended is logged on at no link (R35). -/
theorem not_loggedOn_endLogonsOf {c : Cust} (hr : (endLogonsOf c s).running = true) (l : ConsoleLink) :
    ¬LoggedOn l c (endLogonsOf c s) := by
  rw [endLogonsOf_eq] at hr ⊢
  obtain ⟨hr', hkept⟩ := (linksKept_endLogonIf (s := endLogonIf c 0 s) c 1).logons hr
  intro hc
  by_cases hl : l = 1
  · subst hl
    exact not_loggedOn_endLogonIf hr hc
  · obtain rfl : l = 0 := (eq_or_eq_otherConsole l 1).resolve_left hl
    exact not_loggedOn_endLogonIf hr' (hkept 0 c hc).1

theorem linksKept_revoke {who : Cust} {pair : Pair} {w : CeremonyWork} :
    LinksKept s (endLogonsOf who (finishCeremony w .completed .idle (changeCustodian .revoke who pair none s))) := by
  have hchange : ∀ v : State, v = changeCustodian .revoke who pair none s → LinksKept v (endLogonsOf who (finishCeremony w .completed .idle v)) :=
    fun v _ => (linksKept_finishCeremony ..).trans (linksKept_endLogonsOf who)
  have hkept := hchange _ rfl
  refine ⟨⟨hkept.stands, hkept.queues, fun hr => ?_⟩, hkept.granted⟩
  obtain ⟨hrun, hl⟩ := hkept.logons hr
  refine ⟨hrun, fun l c hc => ?_⟩
  obtain ⟨hc', hp, he⟩ := hl l c hc
  have hne : c ≠ who := fun h => not_loggedOn_endLogonsOf hr l (h ▸ hc)
  refine ⟨hc', hp, fun hs => he ?_⟩
  rw [State.custodian, show (changeCustodian .revoke who pair none s).store.custodians = s.store.custodians.set who none from rfl,
    Tab.get_set, if_neg (Ne.symm hne)]
  exact hs

/-! ### Console messages -/

theorem linksKept_startCeremony {l : ConsoleLink} {p : Person} {params : CeremonyParams} (h : (s.console l).answersDue < 4) :
    LinksKept s (startCeremony l p params s) := by
  have hanswer : ∀ u : State, linksOf u = linksOf s → LinksKept s (answer l 0x04 .ok .nothing u) := fun u hu => by
    have hc : u.consoles = s.consoles := congrArg (fun x => x.2.1) hu
    exact (linksKept_answer (by rw [State.console, hc]; exact h) ..).after hu
  unfold startCeremony
  simp only
  refine LinksKept.trans (hanswer _ ?_) (linksKept_noticeAll _)
  split
  · simp [linksOf, State.running]
  · rfl

theorem linksOf_reserved (h : ResHolder) : linksOf (reserved h s) = linksOf s := by simp [linksOf, State.running]

theorem linksKept_openCeremony {l : ConsoleLink} (p : Person) (o : Opening) (h : (s.console l).answersDue < 4) :
    LinksKept s (openCeremony l p o s) := by
  rcases openCeremony_cases l p o s with ⟨st, he⟩ | he | ⟨params, -, -, -, -, he⟩ <;> rw [he]
  · exact linksKept_answer h ..
  · exact (linksKept_answer (s := s.setFlag .journalHigh) h ..).after (by rfl)
  · exact (linksKept_startCeremony (s := reserved .ceremony s) (by simpa using h)).after (linksOf_reserved _)

theorem linksKept_badEntry (w : CeremonyWork) : LinksKept s (badEntry w s) := by
  unfold badEntry
  simp only
  split
  · exact (linksKept_noticeAll _).after (by rfl)
  · exact (linksKept_abortCeremony ..).after (by rfl)

theorem linksKept_takeComponent {l : ConsoleLink} (p : Person) (value : KeyBytes) (check : Kcv) (w : CeremonyWork)
    (h : (s.console l).answersDue < 4) : LinksKept s (takeComponent l p value check w s) := by
  have hwith : (s.console l).Kept { s.console l with unanswered := true } := by
    refine ⟨fun hc => ⟨hc.1, ?_⟩, fun _ hw => ⟨hw, id⟩⟩
    rw [answersDue_eq] at h ⊢
    simp only [if_true]
    omega
  unfold takeComponent
  have hset : LinksKept s (s.setConsole l { s.console l with unanswered := true }) := .setConsole hwith
  exact LinksKept.trans (hset.keep (by rfl)) (linksKept_requestJob ..)

theorem linksKept_giveComponent {l : ConsoleLink} (p : Person) (value : KeyBytes) (check : Kcv) (h : (s.console l).answersDue < 4) :
    LinksKept s (giveComponent l p value check s) := by
  have hanswer : ∀ st, LinksKept s (answer l 0x05 st .nothing s) := fun st => linksKept_answer h ..
  unfold giveComponent
  split
  · split
    · unfold componentChecked
      split
      · exact hanswer _
      · split
        · exact hanswer _
        · split
          · exact hanswer _
          · split
            · exact (hanswer _).trans (linksKept_badEntry _)
            · exact linksKept_takeComponent _ _ _ _ h
    · exact hanswer _
  · exact hanswer _

theorem linksKept_approveErase (i : SlotIx) (w : CeremonyWork) : LinksKept s (approveErase i w s) := by
  unfold approveErase
  simp only
  split
  · exact (linksKept_completeErasure i).after (by rfl)
  · refine (linksKept_noticeAll _).after ?_
    split <;> rfl

theorem linksKept_completeCeremony (w : CeremonyWork) (pair : Pair) : LinksKept s (completeCeremony w pair s) := by
  unfold completeCeremony
  split
  · refine (linksKept_finishCeremony ..).after ?_
    unfold installAssembled
    split
    · simp [linksOf]
    · rfl
  · exact linksKept_approveErase ..
  · exact (linksKept_finishCeremony ..).after (by simp [linksOf, State.running])
  · exact (linksKept_changeCustodian fun _ => ⟨_, rfl, rfl⟩).trans (linksKept_finishCeremony ..)
  · exact linksKept_revoke
  · refine (linksKept_changeCustodian fun ⟨e, he, _⟩ => ?_).trans (linksKept_finishCeremony ..)
    exact ⟨_, by rw [he]; rfl, rfl⟩

theorem linksKept_acceptCeremony {l : ConsoleLink} (p : Person) (h : (s.console l).answersDue < 4) :
    LinksKept s (acceptCeremony l p s) := by
  unfold acceptCeremony
  split
  · split
    · exact linksKept_answer h ..
    · simp only
      split
      · exact (linksKept_answer h ..).trans (linksKept_completeCeremony ..)
      · exact LinksKept.trans ((linksKept_answer h ..).keep (by rfl)) (linksKept_noticeAll _)
  · exact linksKept_answer h ..

theorem linksKept_personHandler {c : Instr} {l : ConsoleLink} {kind : Byte} (h : consoleMessage? c = some (l, kind))
    (hn : needsLogon c = true) (p : Person) (hroom : (s.console l).answersDue < 4) : LinksKept s (personHandler c p s) := by
  have hanswer : ∀ k st, LinksKept s (answer l k st .nothing s) := fun k st => linksKept_answer hroom ..
  cases c <;> simp only [consoleMessage?, needsLogon, reduceCtorEq, Bool.false_eq_true, Option.some.injEq, Prod.mk.injEq] at h hn <;>
    obtain ⟨rfl, rfl⟩ := h <;> simp only [personHandler]
  case accept => exact linksKept_acceptCeremony p hroom
  case zeroise => exact (hanswer ..).trans (linksKept_zeroisePart _)
  case logoff => exact (hanswer ..).trans (linksKept_endLogon _)
  case component => exact linksKept_giveComponent _ _ _ hroom
  case reject =>
    unfold rejectCeremony
    (repeat' split) <;> try exact hanswer ..
    exact (hanswer ..).trans (linksKept_abortCeremony ..)
  case cancel =>
    unfold cancelCeremony
    (repeat' split) <;> try exact hanswer ..
    exact (hanswer ..).trans (linksKept_abortCeremony ..)
  all_goals exact linksKept_openCeremony _ _ hroom

/-- What every event keeps (R27, R33, R132, R200, R201). -/
structure LinksOrdered (s t : State) : Prop where
  logons : LogonsHeld s → LogonsHeld t
  queues : ConsoleQueuesBounded s → ConsoleQueuesBounded t
  engine : EngineOrdered s → EngineOrdered t

theorem LinksKept.ordered (h : LinksKept s t) : LinksOrdered s t :=
  ⟨h.logons.held, h.queues, fun he => ⟨h.granted he.1, h.stands he.2⟩⟩

theorem LinksOrdered.of_eq (h : linksOf t = linksOf s) : LinksOrdered s t := (LinksKept.of_eq h).ordered

theorem LinksOrdered.trans {u : State} (h : LinksOrdered s t) (g : LinksOrdered t u) : LinksOrdered s u :=
  ⟨fun x => g.logons (h.logons x), fun x => g.queues (h.queues x), fun x => g.engine (h.engine x)⟩

theorem LinksOrdered.after {u : State} (h : LinksOrdered u t) (g : linksOf u = linksOf s) : LinksOrdered s t :=
  (LinksOrdered.of_eq g).trans h

theorem console_setConsole (k l : ConsoleLink) (c : Console) : (s.setConsole l c).console k = if l = k then c else s.console k := by
  rw [State.console, show (s.setConsole l c).consoles = s.consoles.set l c from rfl, Tab.get_set, State.console]

/-- A custodian who is logged on nowhere logs on at a console that is present (R27). -/
theorem linksOrdered_logon {l : ConsoleLink} {g : Logon} (hp : (s.console l).present = true) (hc : ∀ k, ¬LoggedOn k g.who s)
    (he : ∃ e, s.custodian g.who = some e ∧ e.lock = .enrolled) :
    LinksOrdered s (s.setConsole l { s.console l with logon := some g }) where
  queues hq k := by
    rw [console_setConsole]
    split
    next hk => exact hk ▸ hq l
    next => exact hq k
  engine := id
  logons hs hr k d hd := by
    simp only [LoggedOn, console_setConsole] at hd ⊢
    split at hd
    next hk =>
      cases hd
      refine ⟨hk ▸ (by simpa using hp), he, fun j hj => ?_⟩
      split at hj
      next hj' => exact hj'.symm.trans hk
      next => exact absurd hj (hc j)
    next hk =>
      obtain ⟨hp', he', honce⟩ := hs hr k d hd
      refine ⟨by rw [if_neg hk]; exact hp', he', fun j hj => ?_⟩
      split at hj
      next hj' => cases hj; exact absurd hd (hc k)
      next => exact honce j hj

theorem linksOrdered_startLogon {l : ConsoleLink} {c : Cust} {e : CustEntry} (hp : (s.console l).present = true)
    (hroom : (s.console l).answersDue < 4) (hc : ∀ k, ¬LoggedOn k c s) (he : e.lock = .enrolled) :
    LinksOrdered s (startLogon l c e s) := by
  have hentry : LinksOrdered s (s.setCustodian c (some { e with fails := 0 })) := (linksKept_setCustodian_absent hc).ordered
  have hlogon := linksOrdered_logon (s := s.setCustodian c (some { e with fails := 0 })) (l := l)
    (g := { who := c, idle := { count := 0, limit := custodianIdleLimit (s.setCustodian c (some { e with fails := 0 })) } })
    hp hc ⟨_, Tab.get_set_self .., he⟩
  refine (hentry.trans hlogon).trans (linksKept_answer ?_ ..).ordered
  rw [console_setConsole, if_pos rfl]
  exact hroom

theorem linksOrdered_logonMessage {l : ConsoleLink} (number : Nat) (credential : List Byte) (hp : (s.console l).present = true)
    (hroom : (s.console l).answersDue < 4) : LinksOrdered s (logon l number credential s) := by
  have hanswer : ∀ st, LinksOrdered s (answer l 0x01 st .nothing s) := fun _ => (linksKept_answer hroom ..).ordered
  unfold logon
  split
  · exact hanswer _
  next hl =>
    split
    · exact hanswer _
    next c _ =>
      split
      · exact hanswer _
      next e _ =>
        split
        · exact hanswer _
        next hother =>
          have hc : ∀ k, ¬LoggedOn k c s := fun k hk => by
            rcases eq_or_eq_otherConsole k l with rfl | rfl
            · exact hl (by simpa using congrArg Option.isSome hk)
            · exact hother hk
          split
          · exact hanswer _
          next hlock =>
            split
            · exact linksOrdered_startLogon hp hroom hc (by cases hx : e.lock <;> simp_all)
            · have hfail : LinksOrdered s (s.setCustodian c (some e.failed)) := (linksKept_setCustodian_absent hc).ordered
              exact hfail.trans (linksKept_answer (s := s.setCustodian c (some e.failed)) hroom ..).ordered

theorem linksKept_enrolFirst {l : ConsoleLink} (number group : Nat) (credential : List Byte) (hroom : (s.console l).answersDue < 4) :
    LinksKept s (enrolFirst l number group credential s) := by
  unfold enrolFirst
  split
  · exact linksKept_answer hroom ..
  next c g _ =>
    have hset : LinksKept s (s.setCustodian c
        (some { group := g, digest := Config.digest credential, lock := .enrolled, fails := 0 })) :=
      linksKept_setCustodian fun _ => ⟨_, rfl, rfl⟩
    exact hset.trans (linksKept_answer (s := s.setCustodian c
      (some { group := g, digest := Config.digest credential, lock := .enrolled, fails := 0 })) hroom ..)

theorem linksOrdered_consoleHandler {c : Instr} {l : ConsoleLink} {kind : Byte} (h : consoleMessage? c = some (l, kind))
    (hn : needsLogon c = false) (hp : (s.console l).present = true) (hroom : (s.console l).answersDue < 4) :
    LinksOrdered s (consoleHandler c s) := by
  cases c <;> simp only [consoleMessage?, needsLogon, reduceCtorEq, Option.some.injEq, Prod.mk.injEq, Bool.true_eq_false] at h hn <;>
    obtain ⟨rfl, rfl⟩ := h <;> simp only [consoleHandler]
  case query => exact (linksKept_answer hroom ..).ordered
  case consoleBadMessage => exact (linksKept_answer hroom ..).ordered
  case logon => exact linksOrdered_logonMessage _ _ hp hroom
  case enrolFirst => exact (linksKept_enrolFirst _ _ _ hroom).ordered

/-! ### Requests -/

theorem linksOf_of_withPort (h : withPort s t = s) : linksOf t = linksOf s := (congrArg linksOf h :)

theorem linksKept_zeroiseAfterReset : LinksKept s (zeroiseAfterReset s) := by
  unfold zeroiseAfterReset
  split
  · exact (linksKept_zeroisePart _).after (by rfl)
  · split
    · exact linksKept_zeroisePart _
    · exact .refl s

/-- A reset leaves the links and the engine in order, whatever they were. -/
theorem linksOrdered_resetPart (cause : ResetCause) : LinksOrdered s (resetPart cause t) := by
  rw [resetPart_eq]
  generalize foundStore t = u
  have hblocks : LinksOrdered s (resetBlocks cause u) := by
    obtain ⟨-, -, -, -, -, hengine, -⟩ := resetBlocks_fixed cause u
    have hconsole : ∀ l, (resetBlocks cause u).console l = (u.console l).afterReset := resetBlocks_console cause u
    refine ⟨fun _ _ l c hl => ?_, fun _ l => ?_, fun _ => ?_⟩
    · simp [LoggedOn, hconsole, Console.afterReset] at hl
    · rw [hconsole]; exact ⟨Nat.zero_le _, Nat.zero_le _⟩
    · rw [engineOrdered_iff, hengine]
      have hnone : ∀ r, Engine.initial.waiting.get r = none := fun r => Tab.get_fill ..
      exact ⟨fun _ => hnone, fun r j hj => absurd ((hnone r).symm.trans hj) nofun, nofun⟩
  exact hblocks.trans linksKept_zeroiseAfterReset.ordered

theorem linksKept_importKey (tag : Byte) (body : List Byte) : LinksKept s (importKey tag body s) := by
  have hrefuse : ∀ st, LinksKept s (refuse tag 0x20 st s) := fun st => .of_eq (by simp [linksOf])
  unfold importKey
  (repeat' split) <;> try exact hrefuse _
  unfold importChecked
  split
  · exact hrefuse _
  · split
    · exact hrefuse _
    · rcases Nat.lt_or_ge s.journal.occupancy 511 with hf | hf
      · rw [requestReservation_granted hf]
        exact (linksKept_requestJob ..).after (by simp [linksOf, State.running])
      · rw [requestReservation_refused hf]
        exact .of_eq (by simp [linksOf])

theorem linksKept_lineClose (tag : Byte) : LinksKept s (lineClose tag s) := by
  have hend := linksKept_endAllSessions (s := setLine (.closing tag) s) .lineClosed
  have hbegin : LinksKept s (beginClose tag s) := (hend.after (by simp [linksOf])).keep (by simp [beginClose, linksOf])
  unfold lineClose
  split
  case h_2 | h_3 => exact hbegin
  all_goals exact .of_eq (by simp [linksOf])

/-- PROFILE_COMMIT changes the profile, the registry, the contexts, the stream and the control port. -/
def withCommit (s t : State) : State :=
  { t with
    store := { t.store with profile := s.store.profile, registry := s.store.registry }
    stream := s.stream, benches := s.benches, outstanding := s.outstanding, responses := s.responses, flags := s.flags }

theorem withCommit_trans {u : State} (h : withCommit s u = s) (g : withCommit u t = u) : withCommit s t = s :=
  (congrArg (withCommit s) g).trans h

theorem applyPortTable_withCommit (ports : Tab PortEntry 8) : withCommit s (applyPortTable ports s) = s := by
  have h := (applyPortTable_spec ports s).1
  generalize applyPortTable ports s = t at h
  exact (congrArg (withCommit s) (show t = { { t with benches := s.benches } with benches := t.benches } from rfl)).trans
    (by rw [h]; rfl)

theorem commitProfile_withCommit (tag : Byte) (check : Check32) (staged : Staged) (a : Applied) :
    withCommit s (commitProfile tag check staged a s) = s := by
  have hregistry : ∀ (u : State) (r : Registry), withCommit u (u.setRegistry r) = u := fun _ _ => rfl
  have hflag : ∀ (u : State) (b : Prop) [Decidable b] (e : Event), withCommit u (u.setFlagIf b e) = u := fun u b _ e => by
    unfold State.setFlagIf
    split <;> rfl
  have hrespond : ∀ (u : State) (body : ResponseBody), withCommit u (respond tag 0x03 .ok false body u) = u := fun _ _ => rfl
  unfold commitProfile
  exact withCommit_trans (withCommit_trans (withCommit_trans (withCommit_trans (by rfl) (applyPortTable_withCommit _))
    (hregistry ..)) (hflag ..)) (hrespond ..)

theorem profileCommit_frame (tag : Byte) (check : Check32) : withCommit s (profileCommit tag check s) = s := by
  unfold profileCommit
  split
  · rfl
  · simp only
    (repeat' split) <;> try rfl
    exact withCommit_trans (by rfl) (commitProfile_withCommit ..)

theorem linksOf_of_withCommit (h : withCommit s t = s) : linksOf t = linksOf s := (congrArg linksOf h :)

theorem linksKept_counterAdvance (tag : Byte) (n value : Nat) : LinksKept s (counterAdvance tag n value s) := by
  have hrefuse : ∀ st, LinksKept s (refuse tag 0x41 st s) := fun st => .of_eq (by simp [linksOf])
  unfold counterAdvance
  (repeat' split) <;> try exact hrefuse _
  unfold counterRaise
  split
  · exact .of_eq (by simp [linksOf])
  · rcases Nat.lt_or_ge s.journal.occupancy 511 with hf | hf
    · rw [requestReservation_granted hf]
      exact .of_eq (by simp [linksOf, State.running])
    · rw [requestReservation_refused hf]
      exact .of_eq (by simp [linksOf])

theorem linksOrdered_requestHandler (c : Instr) : LinksOrdered s (requestHandler c s) := by
  cases hl : lightRequest c with
  | true => exact (LinksKept.of_eq (linksOf_of_withPort (lightRequest_frame hl s))).ordered
  | false =>
    cases c <;> simp only [lightRequest, Bool.true_eq_false] at hl
    case profileCommit tag check => exact (LinksKept.of_eq (linksOf_of_withCommit (profileCommit_frame tag check))).ordered
    case lineClose tag => exact (linksKept_lineClose tag).ordered
    case lineReset => exact linksOrdered_resetPart .lineReset
    case importKey tag body => exact (linksKept_importKey tag body).ordered
    case counterAdvance tag n value => exact (linksKept_counterAdvance tag n value).ordered

/-! ### Bench messages -/

theorem linksOf_of_withHello (h : withHello s t = s) : linksOf t = linksOf s := (congrArg linksOf h :)

theorem admitStep_links {p : Port} {kind : StepType} {source cover : SlotIx} {a : Admission}
    (h : admitStep p kind source cover s = .admitted a t) : linksOf t = linksOf s := by
  have hcover : ∀ {k : HeldKey} {d : Option (Nat × Nat)}, admitCover p source cover k d s = .admitted a t → linksOf t = linksOf s := by
    intro k d h
    unfold admitCover at h
    (repeat' split at h) <;> cases h
    · rfl
    · simp [allocateCounter, linksOf]
  unfold admitStep at h
  (repeat' split at h) <;> try cases h
  all_goals exact hcover h

theorem linksKept_fetchStep (p : Port) (index : Nat) : LinksKept s (fetchStep p index s) := by
  have hverdict : ∀ st, LinksKept s (verdict p st s) := fun _ => .of_eq (by simp [linksOf])
  unfold fetchStep
  split
  · unfold fetchTaken
    (repeat' split) <;> try exact hverdict _
    unfold admitFetch
    rcases Nat.lt_or_ge s.journal.occupancy 511 with hf | hf
    · rw [requestReservation_granted hf]
      simp only
      split
      · exact .of_eq (by simp [linksOf, State.running])
      next ha =>
        have hadmit := (admitStep_links ha).trans (linksOf_reserved _)
        exact (linksKept_requestJob ..).after hadmit
    · rw [requestReservation_refused hf]
      exact .of_eq (by simp [linksOf])
  · exact hverdict _

theorem linksKept_confirm (p : Port) (index : Nat) (kcv : Kcv) : LinksKept s (confirm p index kcv s) := by
  unfold confirm
  split
  next ss _ ps _ _ =>
    split
    · exact .of_eq (by simp [linksOf])
    · split
      · have hend := linksKept_endStep p ps (.delivered ps.facts kcv)
          (s := s.setRegistry (modifyEntry ss.serial (Entry.deliver ps.facts.index ss.stepCount) s.registry))
        unfold confirmMatch
        simp only
        split <;> exact (hend.after (by simp [linksOf])).keep (by simp [linksOf])
      · unfold confirmMismatch
        simp only
        split <;> exact (linksKept_endStep p ps (.voided ps.facts ps.expected .kcvMismatch)).keep (by simp [linksOf])
  next => exact .of_eq (by simp [linksOf])

theorem linksKept_bye (p : Port) : LinksKept s (bye p s) := by
  unfold bye
  split
  case h_4 => exact .of_eq (by simp [linksOf])
  all_goals exact (linksKept_endSession .abandoned p).keep (by simp [linksOf])

theorem linksKept_benchHandler (c : Instr) : LinksKept s (benchHandler c s) := by
  cases c
  case hello p serial model => exact .of_eq (linksOf_of_withHello (hello_frame p serial model))
  case fetch p index => exact linksKept_fetchStep p index
  case confirm p index kcv => exact linksKept_confirm p index kcv
  case bye p => exact linksKept_bye p
  case benchBadMessage p => exact .of_eq (by simp [benchHandler, linksOf])
  all_goals exact .refl s

/-! ### Completions -/

theorem linksKept_prepareHandled (j : Job) : LinksKept s (prepareHandled j s) := by
  unfold prepareHandled
  split
  · exact .refl s
  next p _ =>
    split
    · unfold drainComplete
      split
      next reason mark _ => exact (linksKept_voidStep p (fun _ => none) reason).keep (by simp [linksOf])
      next => exact .refl s
    · split
      · split
        · exact .refl s
        · unfold offerStep
          split
          · exact .refl s
          · exact .of_eq (by simp [linksOf])
      · exact .refl s

theorem linksKept_settleCeremony : LinksKept s (settleCeremony s) := by
  unfold settleCeremony
  split
  · exact (linksKept_noticeAll _).after (by rfl)
  · exact .refl s

theorem linksStood_componentPassed (u : UnderCheck) (count : Nat) (w : CeremonyWork) :
    LinksStood s (componentPassed u count w s) := by
  unfold componentPassed
  simp only
  split
  · exact ((linksKept_answerWithheld ..).trans ((linksKept_noticeAll _).after (by rfl))).toLinksStood
  · exact (LinksStood.trans ((linksKept_answerWithheld ..).keep (by rfl)).toLinksStood (linksStood_joinPending ..)).trans
      (linksKept_noticeAll _).toLinksStood

theorem linksStood_checkComponentHandled (j : Job) : LinksStood s (checkComponentHandled j s) := by
  unfold checkComponentHandled
  (repeat' split) <;> try exact (LinksKept.refl s).toLinksStood
  · exact linksKept_settleCeremony.toLinksStood
  · exact linksStood_componentPassed ..
  · exact ((linksKept_answerWithheld ..).trans (linksKept_badEntry _)).toLinksStood

theorem linksKept_combineHandled (j : Job) : LinksKept s (combineHandled j s) := by
  unfold combineHandled
  (repeat' split) <;> try exact .refl s
  · exact linksKept_settleCeremony
  · exact (linksKept_noticeAll _).after (by rfl)

theorem linksKept_endImport (w : ImportWork) : LinksKept s (endImport w s) := (linksKept_lowerInUse w.transport).keep (by rfl)

theorem linksKept_unwrapHandled (j : Job) : LinksKept s (unwrapHandled j s) := by
  have hend : ∀ w u, linksOf u = linksOf s → LinksKept s (endImport w u) := fun w u hu => (linksKept_endImport w).after hu
  have hanswer : ∀ tag st body u, LinksKept u (respond tag 0x20 st false body u) := fun _ _ _ _ => .of_eq rfl
  unfold unwrapHandled
  split
  · exact .refl s
  · split
    · exact (hend _ _ (by simp [linksOf])).trans (hanswer ..)
    · exact (hend _ _ (by simp [linksOf])).trans (hanswer ..)

theorem linksStood_completion {fits : JobInputs → Bool} {handle : Job → State → State} (h : Completes fits handle) (j : Job) :
    LinksStood s (handle j s) := by
  cases h with
  | prepareShared | prepareDerived => exact (linksKept_prepareHandled j).toLinksStood
  | checkComponent => exact linksStood_checkComponentHandled j
  | combine => exact (linksKept_combineHandled j).toLinksStood
  | unwrap => exact (linksKept_unwrapHandled j).toLinksStood

/-! ### The events -/

theorem linksKept_expiry {expire : State → State} (h : Expiry expire) : LinksKept s (expire s) := by
  cases h with
  | custodianIdle l =>
    unfold custodianIdleExpired
    split
    · exact linksKept_endLogon l
    · exact .refl s
  | window =>
    unfold windowExpired
    split
    · split
      · exact linksKept_abortCeremony ..
      · exact .refl s
    · exact .refl s
  | sessionIdle p =>
    unfold sessionIdleExpired
    split
    · exact linksKept_endSession ..
    · exact .refl s
  | entryAged i =>
    unfold entryAged
    split <;> exact .of_eq rfl

/-- A part that stops running has nobody logged on that counts. -/
theorem linksOrdered_of_stopped (hr : t.running = false) (hc : t.consoles = s.consoles) (he : t.engine = s.engine) :
    LinksOrdered s t where
  logons _ ht := by rw [hr] at ht; cases ht
  queues hq l := by rw [State.console, hc]; exact hq l
  engine h := by rw [EngineOrdered, he]; exact h

/-- The console that leaves takes its queue, the answers due and its logon along (R33). -/
theorem linksKept_consoleLeaves (l : ConsoleLink) : LinksOrdered s (consoleLeaves l s) := by
  have habsent : ∀ c : Console, c.logon = none → c.tx = [] → c.unanswered = false → LinksKept s (s.setConsole l c) :=
    fun c hl ht hu => .setConsole (Console.kept_loggedOff hl (.inr ht) (.inr hu))
  unfold consoleLeaves
  simp only
  split
  · exact .of_eq rfl
  · split
    next hr =>
      have hrun : s.running = false := by simpa using hr
      refine ⟨fun _ ht => ?_, fun hq k => ?_, id⟩
      · exact absurd (ht.symm.trans hrun) nofun
      · rw [console_setConsole]
        split
        next hk => exact hk ▸ hq l
        next => exact hq k
    next =>
      unfold endLogon
      split
      next hl => exact (habsent _ (by simpa using hl) rfl rfl).ordered
      next g _ =>
        refine LinksOrdered.trans ?_ (linksKept_custodianLeft _).ordered
        have hset := (habsent { s.console l with present := false, logon := none, unanswered := false, rx := .idle, tx := [] }
          rfl rfl rfl).ordered
        simpa [State.setConsole, State.console] using hset

theorem linksOrdered_level {change : State → State} (h : LevelChange change) : LinksOrdered s (change s) := by
  cases h with
  | consoleArrives l =>
    have harrives : (s.console l).Kept { s.console l with present := true } := ⟨id, fun _ hw => ⟨hw, fun _ => rfl⟩⟩
    exact (LinksKept.setConsole harrives).ordered
  | consoleLeaves l => exact linksKept_consoleLeaves l
  | terminalArrives p =>
    unfold terminalArrives
    simp only
    (repeat' split) <;> exact .of_eq rfl
  | terminalLeaves p =>
    unfold terminalLeaves contextDetached
    simp only
    split
    · exact .of_eq rfl
    · split
      · exact .of_eq rfl
      · split
        case h_4 => exact ((linksKept_endSession .detached p).after (by rfl)).ordered
        all_goals exact .of_eq rfl
  | coverOpens =>
    unfold coverOpens
    split
    · exact .of_eq rfl
    · simp only
      split
      · exact ((linksKept_zeroisePart .tamperLine).after (by rfl)).ordered
      · refine .of_eq ?_
        unfold setLatch
        split <;> rfl
  | coverCloses => exact .of_eq rfl
  | powerArrives =>
    unfold powerArrives
    split
    · exact .of_eq rfl
    · simp only
      split
      next hpin => exact linksOrdered_of_stopped (by simpa [State.running] using hpin) rfl rfl
      next hpin =>
        exact linksOrdered_resetPart _
  | powerLeaves =>
    unfold powerLeaves
    split
    · exact .of_eq rfl
    · simp only
      split <;> exact linksOrdered_of_stopped rfl rfl rfl
  | batteryLeaves =>
    unfold batteryLeaves
    simp only
    split
    · exact .of_eq rfl
    next hp => exact linksOrdered_of_stopped (by simp_all [State.running, loseStore]) rfl rfl
  | pinAsserted => exact linksOrdered_of_stopped (by simp [State.running]) rfl rfl
  | pinReleased =>
    unfold pinReleased
    split
    · exact .of_eq rfl
    · simp only
      split
      next hp => exact linksOrdered_of_stopped (by simp_all [State.running]) rfl rfl
      next => exact linksOrdered_resetPart _

theorem linksKept_heard (l : ConsoleLink) : LinksKept s (heard l s) :=
  .setConsole ⟨id, fun who hw => ⟨by simpa [Option.map_map, Function.comp_def] using hw, id⟩⟩

theorem room_heard {l : ConsoleLink} (h : Takes l s) : ((heard l s).console l).answersDue < 4 := by
  rw [heard_console_self]
  exact h.2.2

theorem linksKept_told {l : ConsoleLink} (h : (s.console l).answersDue < 4) (kind : Byte) (st : Status) (body : AnswerBody) :
    LinksKept s (told l kind st body s) :=
  .setConsole ((s.console l).kept_join (by rw [answersIn_answer]; omega))

theorem Console.kept_sent {c : Console} {m : ConsoleOut} {rest : List ConsoleOut} {sent : List Byte} (h : c.tx = m :: rest) :
    c.Kept { c with tx := rest, sent := sent } := by
  refine ⟨fun ⟨hlen, hdue⟩ => ⟨?_, ?_⟩, fun _ hw => ⟨hw, id⟩⟩
  · rw [h, List.length_cons] at hlen
    exact Nat.le_of_succ_le hlen
  · rw [answersDue_eq, h, answersIn_cons] at hdue
    rw [answersDue_eq]
    simp only
    omega

theorem Console.kept_counted (c : Console) : c.Kept c.counted :=
  ⟨id, fun who hw => ⟨by simpa [Console.counted, Option.map_map, Function.comp_def] using hw, id⟩⟩

/-- A job completes: the record is in order again with the grant that follows (R137). -/
theorem linksOrdered_completion {fits : JobInputs → Bool} {handle : Job → State → State} (h : Completes fits handle)
    (j : Job) : LinksOrdered s (grantNext (handle j (jobTaken s))) := by
  have htaken : LinksStood s (jobTaken s) := ⟨fun he => ⟨he.1, nofun⟩, id, (LinksKept.refl s).logons⟩
  have hall := (htaken.trans (linksStood_completion h j)).trans linksStood_grantNext
  exact ⟨hall.logons.held, hall.queues, fun he => ⟨granted_grantNext, hall.stands he.2⟩⟩

/-- What one command does to the links and the engine. -/
theorem linksOrdered_happens (h : Happens s t) : LinksOrdered s t := by
  cases h with
  | nothing => exact .of_eq rfl
  | frameError | overrun => exact .of_eq rfl
  | fetch clocks =>
    refine .of_eq ?_
    unfold responseFetch readyFollowsQueue
    simp only
    (repeat' split) <;> rfl
  | request => exact (linksOrdered_requestHandler _).after rfl
  | unreadable => exact .of_eq rfl
  | receiver k r =>
    cases k with
    | console l =>
      have hset : (s.console l).Kept { s.console l with rx := r } := ⟨id, fun _ hw => ⟨hw, id⟩⟩
      exact (LinksKept.setConsole hset).ordered
    | bench p => exact .of_eq rfl
  | busy l kind ht => exact (linksKept_heard l).ordered.trans (linksKept_told (room_heard ht) ..).ordered
  | notLoggedOn l kind ht => exact (linksKept_heard l).ordered.trans (linksKept_told (room_heard ht.1) ..).ordered
  | @console c l kind hc hn ht =>
    exact (linksKept_heard l).ordered.trans (linksOrdered_consoleHandler hc hn (heard_present ht.1) (room_heard ht.1))
  | @person c l kind who hc hn ht =>
    exact (linksKept_heard l).ordered.trans (linksKept_personHandler hc hn _ (room_heard ht.1)).ordered
  | @unknownOpen l who ht => exact (linksKept_heard l).ordered.trans (linksKept_openCeremony _ _ (room_heard ht.1)).ordered
  | bench => exact ((linksKept_benchHandler _).after (by rfl)).ordered
  | sent k =>
    cases k with
    | console l =>
      unfold transmitDone
      simp only
      split
      · exact .of_eq rfl
      next m rest htx => exact (LinksKept.setConsole (Console.kept_sent htx)).ordered
    | bench p =>
      unfold transmitDone
      simp only
      split <;> exact .of_eq rfl
  | level hl => exact linksOrdered_level hl
  | expiry he => exact (linksKept_expiry he).ordered
  | @completion fits handle j hc => exact linksOrdered_completion hc j

theorem linksOrdered_step (h : step s = .next t) : LinksOrdered s t := by
  rcases happens_of_step h with rfl | ⟨c, rest, -, hc⟩
  · unfold tick
    split
    · exact .of_eq rfl
    · have hcount : ∀ q n, LinksKept s { countSecond s with pending := q, freeCount := n } := fun q n => by
        refine .of_parts id id (fun l => ?_) rfl fun _ => id
        have hget : (s.consoles.map Console.counted).get l = (s.console l).counted := Tab.get_map ..
        exact (Console.kept_counted (s.console l)).trans (hget ▸ .refl _)
      exact (hcount ..).ordered
  · exact (linksOrdered_happens hc).after rfl

end

end Sys2Proof.Machine

open Sys2Proof Sys2Proof.Machine Sys2Proof.Safety

/-- Settles O58: the logons, the queues and the engine's record are kept by each change that one command can be. -/
theorem stepKeepsLinksAndEngine : Obligations.StepKeepsLinksAndEngine := fun _ _ h =>
  ⟨(linksOrdered_step h).logons, (linksOrdered_step h).queues, (linksOrdered_step h).engine⟩

end

section
/-! A ZEROISED part stays without keys (R18, R97, R103, R104): what works on without a key can only free what is held. -/

namespace Sys2Proof.Machine
open Sys2Proof.Safety

/-- No key is held and nothing is at work that could take one. -/
structure Bare (s : State) : Prop where
  slots : ∀ i, (s.slot i).content = .empty
  closed : ceremonyOpen s = false
  stream : s.stream = none
  work : ∀ w, s.importWork = some w → w.zeroised = true

theorem nothingHeld_iff {s : State} : NothingHeld s ↔ (s.line = .zeroised → Bare s) :=
  ⟨fun h hl => ⟨(h hl).1, (h hl).2.1, (h hl).2.2.1, (h hl).2.2.2⟩, fun h hl => ⟨(h hl).slots, (h hl).closed, (h hl).stream, (h hl).work⟩⟩

theorem Bare.nothingHeld {s : State} (h : Bare s) : NothingHeld s := nothingHeld_iff.2 fun _ => h

/-- The part of the state that the keys and what could take one are. -/
def keysOf (s : State) : Tab Slot 64 × LineState × CeremonyRun × Option Stream × Option ImportWork :=
  (s.store.slots, s.line, s.ceremony.run, s.stream, s.importWork)

/-- From `s` to `t` slots have only been freed and a ceremony has at most ended. -/
structure BareMove (s t : State) : Prop where
  freed : SlotsFreed s t
  line : t.line = s.line
  runs : ∀ w, t.ceremony.run = .work w → s.ceremony.run = .work w
  stream : t.stream = s.stream
  work : t.importWork = s.importWork

theorem BareMove.of_eq {s t : State} (h : keysOf t = keysOf s) : BareMove s t := by
  simp only [keysOf, Prod.mk.injEq] at h
  obtain ⟨hslots, hline, hrun, hstream, hwork⟩ := h
  exact ⟨.of_eq hslots, hline, fun w hw => hrun ▸ hw, hstream, hwork⟩

theorem BareMove.trans {s t u : State} (h : BareMove s t) (g : BareMove t u) : BareMove s u :=
  ⟨h.freed.trans g.freed, g.line.trans h.line, fun w hw => h.runs w (g.runs w hw), g.stream.trans h.stream, g.work.trans h.work⟩

theorem BareMove.keep {s t u : State} (h : BareMove s t) (g : keysOf u = keysOf t) : BareMove s u := h.trans (.of_eq g)

theorem BareMove.after {s t u : State} (h : BareMove t u) (g : keysOf t = keysOf s) : BareMove s u := (BareMove.of_eq g).trans h

theorem ceremonyOpen_iff {s : State} : ceremonyOpen s = true ↔ ∃ w, s.ceremony.run = .work w := by
  unfold ceremonyOpen
  split
  next w hw => exact ⟨fun _ => ⟨w, hw⟩, fun _ => rfl⟩
  next h => exact ⟨nofun, fun ⟨w, hw⟩ => absurd hw (h w)⟩

theorem run_of_closed {s : State} (h : ceremonyOpen s = false) (w : CeremonyWork) : s.ceremony.run ≠ .work w := fun hw => by
  rw [ceremonyOpen_iff.2 ⟨w, hw⟩] at h
  cases h

theorem closed_of_run {s : State} (h : ∀ w, s.ceremony.run ≠ .work w) : ceremonyOpen s = false := by
  rw [← Bool.not_eq_true, ceremonyOpen_iff]
  exact fun ⟨w, hw⟩ => h w hw

theorem BareMove.closed {s t : State} (h : BareMove s t) (hs : ceremonyOpen s = false) : ceremonyOpen t = false :=
  closed_of_run fun w hw => run_of_closed hs w (h.runs w hw)

theorem BareMove.bare {s t : State} (h : BareMove s t) (hs : Bare s) : Bare t where
  slots i := by
    rcases h.freed.content i with hc | hc
    · rw [hc]; exact hs.slots i
    · exact hc
  closed := h.closed hs.closed
  stream := h.stream.trans hs.stream
  work w hw := hs.work w (h.work ▸ hw)

section
variable {s t : State}

/-! ### The shared operations -/

theorem run_finishCeremony (w : CeremonyWork) (result : CeremonyResult) (run : CeremonyRun) :
    (finishCeremony w result run s).ceremony.run = run := by simp [finishCeremony]

theorem bareMove_completeErasure (i : SlotIx) : BareMove s (completeErasure i s) where
  freed := slotsFreed_completeErasure i
  line := by simp
  stream := by simp
  work := by simp
  runs x hx := by
    unfold completeErasure at hx
    simp only at hx
    split at hx
    next hw =>
      split at hx
      · rw [run_finishCeremony] at hx
        cases hx
      · exact hx
    next => exact hx

theorem bareMove_lowerInUse (i : SlotIx) : BareMove s (lowerInUse i s) where
  freed := slotsFreed_lowerInUse i
  line := by simp
  stream := by simp
  work := by simp
  runs x hx := by
    unfold lowerInUse at hx
    simp only at hx
    split at hx
    · split at hx
      · have hmove := bareMove_completeErasure (s := s.setSlot i { s.slot i with inUse := (s.slot i).inUse - 1 }) i
        exact hmove.runs x hx
      · exact hx
    · exact hx

theorem bareMove_endStep (p : Port) (ps : PendingStep) (body : RecordBody) : BareMove s (endStep p ps body s) :=
  ((bareMove_lowerInUse _).trans (bareMove_lowerInUse _)).after (by rfl)

theorem bareMove_voidStep (p : Port) (kcv : PendingStep → Option Kcv) (reason : VoidReason) : BareMove s (voidStep p kcv reason s) := by
  unfold voidStep
  split
  · exact .of_eq rfl
  · exact bareMove_endStep ..

theorem bareMove_endSession (reason : VoidReason) (p : Port) : BareMove s (endSession reason p s) := by
  have hfinish : ∀ ss next u, keysOf (finishSession p ss reason next u) = keysOf u := fun _ _ _ => by simp [keysOf]
  unfold endSession
  split
  · exact .of_eq (hfinish ..)
  · exact (bareMove_voidStep ..).keep (hfinish ..)
  · simp only
    split
    · exact .of_eq (by simp [keysOf])
    · exact ((bareMove_voidStep ..).after (by simp [keysOf])).keep (hfinish ..)
  · exact .of_eq rfl

theorem bareMove_endAllSessions (reason : VoidReason) : BareMove s (endAllSessions reason s) := by
  unfold endAllSessions
  induction allPorts generalizing s with
  | nil => exact .of_eq rfl
  | cons p l ih => exact (bareMove_endSession reason p).trans ih

theorem runAfterAbort_closed (w x : CeremonyWork) : runAfterAbort w s ≠ .work x := by
  unfold runAfterAbort
  split <;> nofun

theorem run_abortCeremony (reason : AbortReason) (leaver : Option Cust) (w x : CeremonyWork) :
    (abortCeremony reason leaver w s).ceremony.run ≠ .work x := by
  rw [abortCeremony_eq, run_finishCeremony]
  exact runAfterAbort_closed w x

theorem bareMove_abortCeremony (reason : AbortReason) (leaver : Option Cust) (w : CeremonyWork) :
    BareMove s (abortCeremony reason leaver w s) where
  freed := slotsFreed_abortCeremony ..
  line := by simp
  stream := by simp
  work := by simp
  runs x hx := absurd hx (run_abortCeremony reason leaver w x)

theorem bareMove_custodianLeft (c : Cust) : BareMove s (custodianLeft c s) := by
  unfold custodianLeft
  split
  · split
    · exact bareMove_abortCeremony ..
    · exact .of_eq rfl
  · exact .of_eq rfl

theorem bareMove_endLogon (l : ConsoleLink) : BareMove s (endLogon l s) := by
  unfold endLogon
  split
  · exact .of_eq rfl
  · have hout : BareMove s (s.setConsole l { s.console l with logon := none }) := .of_eq rfl
    exact hout.trans (bareMove_custodianLeft _)

theorem bareMove_settleCeremony : BareMove s (settleCeremony s) where
  freed := .of_eq (by simp)
  line := by simp
  stream := by simp
  work := by simp
  runs x hx := by
    unfold settleCeremony at hx
    split at hx
    · simp at hx
    · exact hx

theorem closed_zeroiseCeremony : ceremonyOpen (zeroiseCeremony s) = false := by
  unfold zeroiseCeremony
  split
  next w _ => exact closed_of_run (run_abortCeremony .zeroised none w)
  next h => exact closed_of_run h

/-- A zeroise leaves nothing held (R18, R103). -/
theorem bare_zeroisePart (cause : TamperCause) : Bare (zeroisePart cause s) := by
  have hend : BareMove (zeroiseWork (zeroiseStart s)) (zeroisePart cause s) := by
    rw [zeroisePart_eq]
    exact (bareMove_endAllSessions .zeroised).keep (by simp [keysOf, tamperJournal])
  refine ⟨zeroisePart_empty cause, hend.closed ?_, hend.stream, fun w hw => ?_⟩
  · exact closed_zeroiseCeremony
  · rw [hend.work] at hw
    have hmap : (zeroiseWork (zeroiseStart s)).importWork
        = (zeroiseCeremony (zeroiseStart s)).importWork.map fun w => { w with zeroised := true } := rfl
    obtain ⟨w', -, rfl⟩ := Option.map_eq_some_iff.1 (hmap ▸ hw)
    rfl

theorem nothingHeld_zeroiseAfterReset (h : s.line ≠ .zeroised) : NothingHeld (zeroiseAfterReset s) := by
  unfold zeroiseAfterReset
  split
  · exact (bare_zeroisePart _).nothingHeld
  · split
    · exact (bare_zeroisePart _).nothingHeld
    · exact nothingHeld_iff.2 fun hl => absurd hl h

theorem nothingHeld_resetPart (cause : ResetCause) : NothingHeld (resetPart cause s) := by
  rw [resetPart_eq]
  exact nothingHeld_zeroiseAfterReset (by rw [(resetBlocks_fixed cause (foundStore s)).1]; nofun)

/-! ### The events -/

/-- From `s` to `t` a ZEROISED part stays without keys. -/
structure StaysBare (s t : State) : Prop where
  kept : NothingHeld s → NothingHeld t

theorem BareMove.stays (h : BareMove s t) : StaysBare s t :=
  ⟨fun hs => nothingHeld_iff.2 fun hl => h.bare (nothingHeld_iff.1 hs (h.line ▸ hl))⟩

theorem StaysBare.of_eq (h : keysOf t = keysOf s) : StaysBare s t := (BareMove.of_eq h).stays

theorem StaysBare.of_held (h : NothingHeld t) : StaysBare s t := ⟨fun _ => h⟩

theorem StaysBare.trans {u : State} (h : StaysBare s t) (g : StaysBare t u) : StaysBare s u := ⟨fun hs => g.kept (h.kept hs)⟩

theorem StaysBare.after {u : State} (h : StaysBare u t) (g : keysOf u = keysOf s) : StaysBare s t := (StaysBare.of_eq g).trans h

theorem StaysBare.keep {u : State} (h : StaysBare s u) (g : keysOf t = keysOf u) : StaysBare s t := h.trans (.of_eq g)

/-- A change of a part that is not ZEROISED, and does not become so, asks for nothing. -/
theorem StaysBare.of_line (hline : t.line = .zeroised → s.line = .zeroised) (h : s.line = .zeroised → Bare s → Bare t) : StaysBare s t :=
  ⟨fun hs => nothingHeld_iff.2 fun hl => h (hline hl) (nothingHeld_iff.1 hs (hline hl))⟩

/-! ### Requests -/

theorem line_setLine (l : LineState) : (setLine l s).line = l := by
  unfold setLine
  split
  · assumption
  · rfl

theorem line_lightRequest {c : Instr} (h : lightRequest c = true) (hl : (requestHandler c s).line = .zeroised) : s.line = .zeroised := by
  by_contra hne
  cases c <;> simp only [lightRequest, Bool.false_eq_true] at h <;> simp only [requestHandler] at hl
  case profileBegin => unfold profileBegin at hl; split at hl <;> exact hne hl
  case profileBlock => unfold profileBlock at hl; (repeat' split at hl) <;> exact hne hl
  case linePause => unfold linePause at hl; (repeat' split at hl) <;> simp_all [line_setLine]
  case lineResume => unfold lineResume at hl; (repeat' split at hl) <;> simp_all [line_setLine]
  case slotQuery => unfold slotQuery at hl; split at hl <;> exact hne hl
  case regAdd => unfold regAdd regAddChecked at hl; (repeat' split at hl) <;> exact hne hl
  case regQuery => unfold regQuery at hl; (repeat' split at hl) <;> exact hne hl
  case regSetState => unfold regSetState setEntryState at hl; (repeat' split at hl) <;> exact hne hl
  case regRemove => unfold regRemove removeEntry at hl; (repeat' split at hl) <;> exact hne hl
  case regScan => unfold regScan at hl; split at hl <;> exact hne hl
  case counterRead => unfold counterRead at hl; (repeat' split at hl) <;> exact hne hl
  case journalRead => unfold journalRead at hl; split at hl <;> exact hne hl
  case journalRelease => unfold journalRelease at hl; simp only at hl; (repeat' split at hl) <;> exact hne hl
  case status => unfold statusRequest clearCountsIf at hl; split at hl <;> exact hne hl
  all_goals exact hne hl

/-- Without a stream, and not in SETUP, none begins (R77, R80). -/
theorem stream_lightRequest {c : Instr} (h : lightRequest c = true) (hl : s.line ≠ .setup) (hs : s.stream = none) :
    (requestHandler c s).stream = none := by
  cases c <;> simp only [lightRequest, Bool.false_eq_true] at h <;> simp only [requestHandler]
  case profileBegin => unfold profileBegin; rw [if_neg hl]; exact hs
  case profileBlock => unfold profileBlock; rw [hs]; exact hs
  case profileAbandon => rfl
  case linePause => unfold linePause; split <;> simpa using hs
  case lineResume => unfold lineResume; split <;> simpa using hs
  case slotQuery => unfold slotQuery; split <;> exact hs
  case regAdd => unfold regAdd regAddChecked; (repeat' split) <;> exact hs
  case regQuery => unfold regQuery; (repeat' split) <;> exact hs
  case regSetState => unfold regSetState setEntryState; (repeat' split) <;> exact hs
  case regRemove => unfold regRemove removeEntry; (repeat' split) <;> exact hs
  case regScan => unfold regScan; split <;> exact hs
  case counterRead => unfold counterRead; (repeat' split) <;> exact hs
  case journalRead => unfold journalRead; split <;> exact hs
  case journalRelease => unfold journalRelease; simp only; (repeat' split) <;> exact hs
  case status => unfold statusRequest clearCountsIf; split <;> exact hs
  all_goals exact hs

theorem Bare.of_withPort (h : withPort s t = s) (ht : t.stream = none) (hs : Bare s) : Bare t where
  slots i := (congrArg (fun x : State => (x.slot i).content) h).trans (hs.slots i)
  closed := (congrArg ceremonyOpen h).trans hs.closed
  stream := ht
  work w hw := hs.work w ((congrArg State.importWork h).symm.trans hw)

theorem Bare.of_withCommit (h : withCommit s t = s) (ht : t.stream = none) (hs : Bare s) : Bare t where
  slots i := (congrArg (fun x : State => (x.slot i).content) h).trans (hs.slots i)
  closed := (congrArg ceremonyOpen h).trans hs.closed
  stream := ht
  work w hw := hs.work w ((congrArg State.importWork h).symm.trans hw)

theorem stays_lightRequest {c : Instr} (h : lightRequest c = true) : StaysBare s (requestHandler c s) :=
  .of_line (line_lightRequest h) fun hl hs =>
    .of_withPort (lightRequest_frame h s) (stream_lightRequest h (by rw [hl]; nofun) hs.stream) hs

theorem stays_profileCommit (tag : Byte) (check : Check32) : StaysBare s (profileCommit tag check s) := by
  have hframe := profileCommit_frame (s := s) tag check
  refine .of_line (fun hl => (congrArg State.line hframe).symm.trans hl) fun _ hs => .of_withCommit hframe ?_ hs
  unfold profileCommit
  rw [hs.stream]
  exact hs.stream

theorem stays_closeFinish : StaysBare s (closeFinish s) := by
  unfold closeFinish
  split
  · split
    · exact .of_eq rfl
    · refine .of_line (fun hl => ?_) fun hl _ => ?_
      · exact absurd (hl.symm.trans (line_setLine .setup)) nofun
      · simp_all
  · exact .of_eq rfl

theorem stays_lineClose (tag : Byte) : StaysBare s (lineClose tag s) := by
  have hset : StaysBare s (setLine (.closing tag) s) :=
    ⟨fun _ => nothingHeld_iff.2 fun hl => absurd (hl.symm.trans (line_setLine _)) nofun⟩
  have hbegin : StaysBare s (beginClose tag s) := (hset.trans (bareMove_endAllSessions .lineClosed).stays).trans stays_closeFinish
  unfold lineClose
  split
  case h_2 | h_3 => exact hbegin
  all_goals exact .of_eq (by simp [keysOf])

theorem importKey_refused {tag : Byte} {body : List Byte} (h : s.line = .zeroised) : ∃ st, importKey tag body s = refuse tag 0x20 st s := by
  unfold importKey
  split
  · exact ⟨_, rfl⟩
  · rw [if_pos (by rw [h]; rfl)]
    exact ⟨_, rfl⟩

theorem stays_importKey (tag : Byte) (body : List Byte) : StaysBare s (importKey tag body s) := by
  refine .of_line (fun hl => (congrArg State.line (importKey_frame tag body)).symm.trans hl) fun hl hs => ?_
  obtain ⟨st, h⟩ := importKey_refused (tag := tag) (body := body) hl
  rw [h]
  exact (BareMove.of_eq (by simp [keysOf])).bare hs

theorem counterAdvance_refused {tag : Byte} {n value : Nat} (h : ∀ i, (s.slot i).content = .empty) :
    ∃ st, counterAdvance tag n value s = refuse tag 0x41 st s := by
  unfold counterAdvance
  split
  · exact ⟨_, rfl⟩
  · split
    · exact ⟨_, rfl⟩
    · rw [h]
      exact ⟨_, rfl⟩

theorem stays_counterAdvance (tag : Byte) (n value : Nat) : StaysBare s (counterAdvance tag n value s) := by
  refine .of_line (fun hl => (congrArg State.line (counterAdvance_frame tag n value)).symm.trans hl) fun _ hs => ?_
  obtain ⟨st, h⟩ := counterAdvance_refused (tag := tag) (n := n) (value := value) hs.slots
  rw [h]
  exact (BareMove.of_eq (by simp [keysOf])).bare hs

theorem stays_requestHandler (c : Instr) : StaysBare s (requestHandler c s) := by
  cases hl : lightRequest c with
  | true => exact stays_lightRequest hl
  | false =>
    cases c <;> simp only [lightRequest, Bool.true_eq_false] at hl
    case profileCommit tag check => exact stays_profileCommit tag check
    case lineClose tag => exact stays_lineClose tag
    case lineReset => exact .of_held (nothingHeld_resetPart .lineReset)
    case importKey tag body => exact stays_importKey tag body
    case counterAdvance tag n value => exact stays_counterAdvance tag n value

/-! ### Console messages -/

/-- In a ZEROISED part an OPEN is refused (R42). -/
theorem openCeremony_of_zeroised {l : ConsoleLink} {p : Person} {o : Opening} (h : s.line = .zeroised) :
    ∃ st, openCeremony l p o s = answer l 0x04 st .nothing s := by
  by_cases hi : s.ceremony.run = .idle
  · exact ⟨_, openCeremony_zeroised hi h⟩
  · exact ⟨_, openCeremony_busy hi⟩

/-- With no ceremony open, a message but ZEROISE leaves none open and no key (R49, R52, R55, R56). -/
theorem bareMove_personHandler {c : Instr} {l : ConsoleLink} {kind : Byte} (h : consoleMessage? c = some (l, kind))
    (hn : needsLogon c = true) (hz : c ≠ .zeroise l) (hl : s.line = .zeroised) (hc : ceremonyOpen s = false) (p : Person) :
    BareMove s (personHandler c p s) := by
  have hanswer : ∀ k st, BareMove s (answer l k st .nothing s) := fun k st => .of_eq (by simp [keysOf])
  have hopen : ∀ o, BareMove s (openCeremony l p o s) := fun o => by
    obtain ⟨st, ho⟩ := openCeremony_of_zeroised (l := l) (p := p) (o := o) hl
    rw [ho]
    exact hanswer ..
  have hrun := run_of_closed hc
  cases c <;> simp only [consoleMessage?, needsLogon, reduceCtorEq, Bool.false_eq_true, Option.some.injEq, Prod.mk.injEq] at h hn <;>
    obtain ⟨rfl, rfl⟩ := h <;> simp only [personHandler]
  case zeroise => exact absurd rfl hz
  case logoff => exact (hanswer ..).trans (bareMove_endLogon _)
  case component =>
    unfold giveComponent
    split
    next w hw => exact absurd hw (hrun w)
    next => exact hanswer ..
  case accept =>
    unfold acceptCeremony
    split
    next w hw => exact absurd hw (hrun w)
    next => exact hanswer ..
  case reject =>
    unfold rejectCeremony
    split
    next w hw => exact absurd hw (hrun w)
    next => exact hanswer ..
  case cancel =>
    unfold cancelCeremony
    split
    next w hw => exact absurd hw (hrun w)
    next => exact hanswer ..
  all_goals exact hopen _

theorem line_acceptCeremony {l : ConsoleLink} {p : Person} (h : s.line ≠ .zeroised) : (acceptCeremony l p s).line ≠ .zeroised := by
  have hlogons : ∀ c u, (endLogonsOf c u).line = u.line := fun c u => by
    rw [endLogonsOf_eq]
    unfold endLogonIf
    (repeat' split) <;> simp
  have hcomplete : ∀ w pair u, u.line ≠ .zeroised → (completeCeremony w pair u).line ≠ .zeroised := fun w pair u hu => by
    unfold completeCeremony
    split
    · unfold installAssembled
      split <;> simpa using hu
    · unfold approveErase
      simp only
      (repeat' split) <;> simpa using hu
    · simp [line_setLine]
    · simpa [changeCustodian] using hu
    · rw [hlogons]; simpa [changeCustodian] using hu
    · simpa [changeCustodian] using hu
  unfold acceptCeremony
  split
  · split
    · simpa using h
    · simp only
      split
      · exact hcomplete _ _ _ (by simpa using h)
      · simpa using h
  · simpa using h

theorem stays_personHandler {c : Instr} {l : ConsoleLink} {kind : Byte} (h : consoleMessage? c = some (l, kind))
    (hn : needsLogon c = true) (p : Person) : StaysBare s (personHandler c p s) := by
  by_cases hz : c = .zeroise l
  · subst hz
    exact .of_held (bare_zeroisePart _).nothingHeld
  · refine .of_line (fun hl => ?_) fun hl hs => (bareMove_personHandler h hn hz hl hs.closed p).bare hs
    by_contra hne
    by_cases ha : c = .accept l
    · subst ha
      exact line_acceptCeremony hne hl
    · exact hne ((congrArg State.line (personHandler_frame h hn ha hz p)).symm.trans hl)

/-! ### Bench messages and completions -/

theorem keysOf_of_withHello (h : withHello s t = s) : keysOf t = keysOf s := (congrArg keysOf h :)

theorem stays_fetchStep (p : Port) (index : Nat) : StaysBare s (fetchStep p index s) := by
  refine .of_line (fun hl => (congrArg State.line (fetchStep_frame p index)).symm.trans hl) fun hl hs => ?_
  have hverdict : ∀ st, Bare (verdict p st s) := fun _ => (BareMove.of_eq (by simp [keysOf])).bare hs
  unfold fetchStep
  split
  · unfold fetchTaken
    rw [if_pos (by rw [hl]; nofun)]
    exact hverdict _
  · exact hverdict _

theorem bareMove_confirm (p : Port) (index : Nat) (kcv : Kcv) : BareMove s (confirm p index kcv s) := by
  unfold confirm
  split
  next ss _ ps _ _ =>
    split
    · exact .of_eq (by simp [keysOf])
    · split
      · have hend := bareMove_endStep p ps (.delivered ps.facts kcv)
          (s := s.setRegistry (modifyEntry ss.serial (Entry.deliver ps.facts.index ss.stepCount) s.registry))
        unfold confirmMatch
        simp only
        split <;> exact (hend.after (by simp [keysOf])).keep (by simp [keysOf])
      · unfold confirmMismatch
        simp only
        split <;> exact (bareMove_endStep p ps (.voided ps.facts ps.expected .kcvMismatch)).keep (by simp [keysOf])
  next => exact .of_eq (by simp [keysOf])

theorem bareMove_bye (p : Port) : BareMove s (bye p s) := by
  unfold bye
  split
  case h_4 => exact .of_eq (by simp [keysOf])
  all_goals exact (bareMove_endSession .abandoned p).keep (by simp [keysOf])

theorem stays_benchHandler (c : Instr) : StaysBare s (benchHandler c s) := by
  cases c
  case hello p serial model => exact .of_eq (keysOf_of_withHello (hello_frame p serial model))
  case fetch p index => exact stays_fetchStep p index
  case confirm p index kcv => exact (bareMove_confirm p index kcv).stays
  case bye p => exact (bareMove_bye p).stays
  case benchBadMessage p => exact .of_eq (by simp [benchHandler, keysOf])
  all_goals exact .of_eq rfl

theorem stays_prepareHandled (j : Job) : StaysBare s (prepareHandled j s) := by
  unfold prepareHandled
  split
  · exact .of_eq rfl
  next p _ =>
    split
    · unfold drainComplete
      split
      next reason mark _ =>
        exact StaysBare.trans ((bareMove_voidStep p (fun _ => none) reason).keep (by rfl)).stays stays_closeFinish
      next => exact .of_eq rfl
    · split
      · split
        · exact .of_eq rfl
        · unfold offerStep
          split
          · exact .of_eq rfl
          · exact .of_eq (by simp [keysOf])
      · exact .of_eq rfl

theorem keysOf_of_withCeremony (h : withCeremony s t = s) :
    t.line = s.line ∧ t.stream = s.stream ∧ t.importWork = s.importWork :=
  ⟨(congrArg State.line h :), (congrArg State.stream h :), (congrArg State.importWork h :)⟩

theorem checkComponentHandled_closed (j : Job) (hc : ceremonyOpen s = false) : BareMove s (checkComponentHandled j s) := by
  unfold checkComponentHandled
  split
  · exact bareMove_settleCeremony
  · split
    next w hw => exact absurd hw (run_of_closed hc w)
    next => exact .of_eq rfl

theorem combineHandled_closed (j : Job) (hc : ceremonyOpen s = false) : BareMove s (combineHandled j s) := by
  unfold combineHandled
  split
  · exact bareMove_settleCeremony
  · split
    next w hw => exact absurd hw (run_of_closed hc w)
    next => exact .of_eq rfl

/-- An import that zeroise has reached fails (R71, R74). -/
theorem bare_unwrapHandled (j : Job) (hs : Bare s) : Bare (unwrapHandled j s) := by
  unfold unwrapHandled
  split
  · exact hs
  next w hw =>
    have hfail : importOutcome w j.inputs s = .failed .zeroised := by
      unfold importOutcome
      rw [if_pos (hs.work w hw)]
    rw [hfail]
    have hgive : BareMove s (returnReservation .importUnit (abandonSlot .importUnit w.target s)) := by
      refine BareMove.keep (t := abandonSlot .importUnit w.target s) ⟨slotsFreed_abandonSlot .., ?_, ?_, ?_, ?_⟩ rfl
      all_goals simp
    have hlower := (hgive.trans (bareMove_lowerInUse w.transport)).bare hs
    exact ⟨hlower.slots, hlower.closed, hlower.stream, nofun⟩

theorem stays_completion {fits : JobInputs → Bool} {handle : Job → State → State} (h : Completes fits handle) (j : Job) :
    StaysBare s (handle j s) := by
  cases h with
  | prepareShared | prepareDerived => exact stays_prepareHandled j
  | checkComponent =>
    exact .of_line (fun hl => (keysOf_of_withCeremony (checkComponentHandled_frame j)).1.symm.trans hl) fun _ hs =>
      (checkComponentHandled_closed j hs.closed).bare hs
  | combine =>
    exact .of_line (fun hl => (keysOf_of_withCeremony (combineHandled_frame j)).1.symm.trans hl) fun _ hs =>
      (combineHandled_closed j hs.closed).bare hs
  | unwrap =>
    exact .of_line (fun hl => (congrArg State.line (unwrapHandled_frame (s := s) j)).symm.trans hl) fun _ hs => bare_unwrapHandled j hs

/-! ### Expiries, levels, steps -/

theorem bareMove_expiry {expire : State → State} (h : Expiry expire) : BareMove s (expire s) := by
  cases h with
  | custodianIdle l =>
    unfold custodianIdleExpired
    split
    · exact bareMove_endLogon l
    · exact .of_eq rfl
  | window =>
    unfold windowExpired
    split
    · split
      · exact bareMove_abortCeremony ..
      · exact .of_eq rfl
    · exact .of_eq rfl
  | sessionIdle p =>
    unfold sessionIdleExpired
    split
    · exact bareMove_endSession ..
    · exact .of_eq rfl
  | entryAged i =>
    unfold entryAged
    split <;> exact .of_eq rfl

theorem stays_loseStore : StaysBare s (loseStore s) :=
  .of_line id fun _ hs => ⟨fun _ => congrArg Slot.content (Tab.get_fill ..), hs.closed, hs.stream, hs.work⟩

theorem stays_setLatch : StaysBare s (setLatch s) := by
  unfold setLatch
  split
  · exact .of_eq rfl
  · refine .of_line id fun _ hs => ⟨fun i => ?_, hs.closed, hs.stream, hs.work⟩
    have hslot : (s.store.slots.map Slot.destroyed).get i = (s.slot i).destroyed := Tab.get_map ..
    exact (congrArg Slot.content hslot).trans (by rw [Slot.destroyed, hs.slots]; rfl)

theorem stays_openCeremony (l : ConsoleLink) (p : Person) (o : Opening) : StaysBare s (openCeremony l p o s) := by
  refine .of_line (fun hl => (congrArg State.line (openCeremony_withCeremony l p o)).symm.trans hl) fun hl hs => ?_
  obtain ⟨st, ho⟩ := openCeremony_of_zeroised (l := l) (p := p) (o := o) hl
  rw [ho]
  exact (BareMove.of_eq (by simp [keysOf])).bare hs

theorem ceremonyOpen_counted : ceremonyOpen (countSecond s) = ceremonyOpen s := by
  have hrun : (countSecond s).ceremony.run = s.ceremony.run.counted := rfl
  rw [ceremonyOpen, ceremonyOpen, hrun]
  cases s.ceremony.run <;> rfl

theorem stays_level {change : State → State} (h : LevelChange change) : StaysBare s (change s) := by
  cases h with
  | consoleArrives l => exact .of_eq rfl
  | consoleLeaves l =>
    unfold consoleLeaves
    simp only
    split
    · exact .of_eq rfl
    · split
      · exact .of_eq rfl
      · exact ((bareMove_endLogon l).after (by rfl)).stays
  | terminalArrives p =>
    unfold terminalArrives
    simp only
    (repeat' split) <;> exact .of_eq rfl
  | terminalLeaves p =>
    unfold terminalLeaves contextDetached
    simp only
    split
    · exact .of_eq rfl
    · split
      · exact .of_eq rfl
      · split
        case h_4 => exact ((bareMove_endSession .detached p).after (by rfl)).stays
        all_goals exact .of_eq rfl
  | coverOpens =>
    unfold coverOpens
    split
    · exact .of_eq rfl
    · simp only
      split
      · exact .of_held (bare_zeroisePart _).nothingHeld
      · exact stays_setLatch.after rfl
  | coverCloses => exact .of_eq rfl
  | powerArrives =>
    unfold powerArrives
    split
    · exact .of_eq rfl
    · simp only
      split
      · exact .of_eq rfl
      · exact .of_held (nothingHeld_resetPart _)
  | powerLeaves =>
    unfold powerLeaves
    split
    · exact .of_eq rfl
    · simp only
      split
      · exact .of_eq rfl
      · exact stays_loseStore.after rfl
  | batteryLeaves =>
    unfold batteryLeaves
    simp only
    split
    · exact .of_eq rfl
    · exact stays_loseStore.after rfl
  | pinAsserted => exact .of_eq rfl
  | pinReleased =>
    unfold pinReleased
    split
    · exact .of_eq rfl
    · simp only
      split
      · exact .of_eq rfl
      · exact .of_held (nothingHeld_resetPart _)

/-- What one command does to a ZEROISED part. -/
theorem stays_happens (h : Happens s t) : StaysBare s t := by
  cases h with
  | nothing => exact .of_eq rfl
  | frameError | overrun => exact .of_eq rfl
  | fetch clocks =>
    refine .of_eq ?_
    unfold responseFetch readyFollowsQueue
    simp only
    (repeat' split) <;> rfl
  | request => exact (stays_requestHandler _).after rfl
  | unreadable => exact .of_eq rfl
  | receiver k r => cases k <;> exact .of_eq rfl
  | busy | notLoggedOn => exact .of_eq rfl
  | @console c l kind hc hn =>
    exact StaysBare.of_eq (congrArg keysOf (consoleHandler_frame hc hn (heard l s)) :)
  | person hc hn => exact (stays_personHandler hc hn _).after rfl
  | unknownOpen => exact (stays_openCeremony ..).after rfl
  | bench => exact (stays_benchHandler _).after rfl
  | sent k =>
    refine .of_eq ?_
    cases k <;> (unfold transmitDone; simp only; split <;> rfl)
  | level hl => exact stays_level hl
  | expiry he => exact (bareMove_expiry he).stays
  | @completion fits handle j hc =>
    have hstay : StaysBare s (handle j (jobTaken s)) := (stays_completion hc j).after (by rfl)
    exact hstay.keep (by simp [keysOf])

theorem stays_step (h : step s = .next t) : StaysBare s t := by
  rcases happens_of_step h with rfl | ⟨c, rest, -, hc⟩
  · unfold tick
    split
    · exact .of_eq rfl
    · have hcount : StaysBare s (countSecond s) :=
        .of_line id fun _ hs => ⟨hs.slots, ceremonyOpen_counted.trans hs.closed, hs.stream, hs.work⟩
      exact hcount.keep (by rfl)
  · exact (stays_happens hc).after rfl

end

end Sys2Proof.Machine

open Sys2Proof Sys2Proof.Machine Sys2Proof.Safety

/-- Settles O56: a part becomes ZEROISED only by a zeroise, which leaves nothing held, and without a key nothing can take one. -/
theorem stepKeepsNothingHeld : Obligations.StepKeepsNothingHeld := fun _ _ hs h => (stays_step h).kept hs

end

section
/-! The control port under every event: which requests are owed an answer, and what answers them (R195-R197). -/

namespace Sys2Proof.Machine
open Sys2Proof.Safety

/-! ### The records of the outstanding requests (R195) -/

/-- The tags of the requests whose response is in the queue. -/
def queuedTags (l : List Outstanding) : List Byte := (l.filter fun o => o.queued).map Outstanding.tag

/-- The tags of the requests whose answer is withheld. -/
def owedTags (l : List Outstanding) : List Byte := (l.filter fun o => !o.queued).map Outstanding.tag

/-- A request becomes QUEUED (R197). -/
def Outstanding.answered (tag : Byte) (o : Outstanding) : Outstanding := if o.tag = tag then { o with queued := true } else o

theorem tag_answered (tag : Byte) (o : Outstanding) : (o.answered tag).tag = o.tag := by
  unfold Outstanding.answered
  split <;> rfl

theorem tags_answered (tag : Byte) (l : List Outstanding) : (l.map (Outstanding.answered tag)).map Outstanding.tag = l.map Outstanding.tag := by
  rw [List.map_map]
  exact List.map_congr_left fun o _ => tag_answered tag o

theorem answered_of_absent {tag : Byte} {l : List Outstanding} (h : tag ∉ l.map Outstanding.tag) : l.map (Outstanding.answered tag) = l := by
  have hsame : ∀ o ∈ l, o.answered tag = id o := fun o ho => if_neg fun h' => h (List.mem_map.2 ⟨o, ho, h'⟩)
  rw [List.map_congr_left hsame, List.map_id]

theorem owedTags_subset {l : List Outstanding} : owedTags l ⊆ l.map Outstanding.tag := fun x hx => by
  obtain ⟨o, ho, rfl⟩ := List.mem_map.1 hx
  exact List.mem_map.2 ⟨o, (List.mem_filter.1 ho).1, rfl⟩

theorem queuedTags_subset {l : List Outstanding} : queuedTags l ⊆ l.map Outstanding.tag := fun x hx => by
  obtain ⟨o, ho, rfl⟩ := List.mem_map.1 hx
  exact List.mem_map.2 ⟨o, (List.mem_filter.1 ho).1, rfl⟩

theorem tags_cons (o : Outstanding) (l : List Outstanding) :
    queuedTags (o :: l) = (if o.queued then [o.tag] else []) ++ queuedTags l
      ∧ owedTags (o :: l) = (if o.queued then [] else [o.tag]) ++ owedTags l := by
  cases h : o.queued <;> simp [queuedTags, owedTags, h]

/-- The answer to a request whose answer was withheld moves its tag from one list to the other. -/
theorem answered_perm {tag : Byte} {l : List Outstanding} (hn : (l.map Outstanding.tag).Nodup) (h : tag ∈ owedTags l) :
    (queuedTags (l.map (Outstanding.answered tag))).Perm (tag :: queuedTags l)
      ∧ (tag :: owedTags (l.map (Outstanding.answered tag))).Perm (owedTags l) := by
  induction l with
  | nil => cases h
  | cons o rest ih =>
    rw [List.map_cons, List.nodup_cons] at hn
    obtain ⟨hnot, hn⟩ := hn
    rw [List.map_cons, (tags_cons _ _).1, (tags_cons _ _).2, (tags_cons o rest).1, (tags_cons o rest).2]
    by_cases ho : o.tag = tag
    · subst ho
      have hout : o.queued = false := by
        by_contra hq
        rw [(tags_cons o rest).2, if_pos (by simpa using hq)] at h
        exact hnot (owedTags_subset h)
      rw [answered_of_absent hnot]
      simp [Outstanding.answered, hout]
    · have hrest : tag ∈ owedTags rest := by
        rw [(tags_cons o rest).2] at h
        rcases List.mem_append.1 h with h | h
        · split at h
          · cases h
          · exact absurd (List.mem_singleton.1 h).symm ho
        · exact h
      obtain ⟨hq, hw⟩ := ih hn hrest
      have hsame : o.answered tag = o := if_neg ho
      rw [hsame]
      cases o.queued with
      | true => exact ⟨(hq.cons o.tag).trans (.swap ..), hw⟩
      | false => exact ⟨hq, ((List.Perm.swap ..).trans (hw.cons o.tag))⟩

/-- The port's records with these answers withheld (R195). -/
structure Owed (ts : List Byte) (s : State) : Prop where
  bound : s.outstanding.length ≤ 8
  tags : (s.outstanding.map Outstanding.tag).Nodup
  queued : (queuedTags s.outstanding).Perm (s.responses.map Response.tag)
  withheld : (owedTags s.outstanding).Perm ts

theorem portBooked_iff {s : State} : PortBooked s ↔ Owed (withheldTags s) s ∧ OpenLineNeedsSetup s :=
  ⟨fun h => ⟨⟨h.bound, h.tags, h.queued, h.withheld⟩, h.openLine⟩, fun ⟨h, ho⟩ => ⟨h.bound, h.tags, h.queued, h.withheld, ho⟩⟩

theorem Owed.perm {ts us : List Byte} {s : State} (h : Owed ts s) (hp : ts.Perm us) : Owed us s :=
  ⟨h.bound, h.tags, h.queued, h.withheld.trans hp⟩

/-- The control port and the error counts, RESPONSE_READY among the flags. -/
def portOf (s : State) : List Outstanding × List Response × Bool × Nat × Nat :=
  (s.outstanding, s.responses, s.flags.getLsbD 0, s.frameErrors, s.overruns)

/-- What answers these requests, in this order, keeps of the port. -/
structure PortMove (tags : List Byte) (s t : State) : Prop where
  owed : ∀ ts, Owed (tags ++ ts) s → Owed ts t
  ready : ReadyFollowsQueue s → ReadyFollowsQueue t

theorem PortMove.of_eq {s t : State} (h : portOf t = portOf s) : PortMove [] s t := by
  simp only [portOf, Prod.mk.injEq] at h
  obtain ⟨ho, hr, hb, hf, hv⟩ := h
  refine ⟨fun ts hs => ⟨?_, ?_, ?_, ?_⟩, fun hs => ?_⟩
  · rw [ho]; exact hs.bound
  · rw [ho]; exact hs.tags
  · rw [ho, hr]; exact hs.queued
  · rw [ho]; exact hs.withheld
  · rw [ReadyFollowsQueue, hr, hb, hf, hv]; exact hs

theorem PortMove.trans {a b : List Byte} {s t u : State} (h : PortMove a s t) (g : PortMove b t u) : PortMove (a ++ b) s u :=
  ⟨fun ts hs => g.owed ts (h.owed _ (List.append_assoc a b ts ▸ hs)), fun hs => g.ready (h.ready hs)⟩

theorem PortMove.keep {a : List Byte} {s t u : State} (h : PortMove a s t) (g : portOf u = portOf t) : PortMove a s u :=
  List.append_nil a ▸ h.trans (.of_eq g)

theorem PortMove.after {a : List Byte} {s t u : State} (h : PortMove a t u) (g : portOf t = portOf s) : PortMove a s u :=
  (PortMove.of_eq g).trans h

section
variable {s t : State}

/-- RESPONSE_READY set, and the other flags. -/
theorem getLsbD_setFlag (e : Event) (s : State) : (s.setFlag e).flags.getLsbD 0 = (s.flags.getLsbD 0 || decide (e = .responseReady)) := by
  rw [show (s.setFlag e).flags = s.flags ||| e.only from rfl, BitVec.getLsbD_or]
  cases e <;> rfl

/-- A response answers its request (R197). -/
theorem portMove_respond (tag kind : Byte) (st : Status) (changed : Bool) (body : ResponseBody) :
    PortMove [tag] s (respond tag kind st changed body s) where
  owed ts hs := by
    have hmem : tag ∈ owedTags s.outstanding := hs.withheld.mem_iff.2 (List.mem_cons_self ..)
    obtain ⟨hq, hw⟩ := answered_perm hs.tags hmem
    have hout : (respond tag kind st changed body s).outstanding = s.outstanding.map (Outstanding.answered tag) := rfl
    refine ⟨?_, ?_, ?_, ?_⟩
    · rw [hout, List.length_map]; exact hs.bound
    · rw [hout, tags_answered]; exact hs.tags
    · rw [hout]
      refine (hq.trans (hs.queued.cons tag)).trans ?_
      rw [show (respond tag kind st changed body s).responses
        = s.responses ++ [{ tag := tag, kind := kind, status := st, changed := changed, body := body }] from rfl]
      simpa using (List.perm_append_comm (l₁ := [tag]) (l₂ := s.responses.map Response.tag))
    · rw [hout]
      exact (hw.trans hs.withheld).cons_inv
  ready hs := by
    refine ⟨?_, hs.2⟩
    rw [respond, getLsbD_setFlag]
    simp [State.setFlag]

theorem portMove_refuse (tag kind : Byte) (st : Status) : PortMove [tag] s (refuse tag kind st s) := portMove_respond ..

/-- A request answered in its own event (R197). -/
theorem PortMove.answered {u : State} {tag kind : Byte} {st : Status} {changed : Bool} {body : ResponseBody} (h : portOf u = portOf s) :
    PortMove [tag] s (respond tag kind st changed body u) := (portMove_respond ..).after h

/-! ### What leaves the port alone -/

theorem portOf_setFlag {e : Event} (h : e ≠ .responseReady) : portOf (s.setFlag e) = portOf s := by
  simp only [portOf, getLsbD_setFlag, h, decide_false, Bool.or_false]
  rfl

theorem portOf_setFlagIf {b : Bool} {e : Event} (h : e ≠ .responseReady) : portOf (s.setFlagIf b e) = portOf s := by
  unfold State.setFlagIf
  split
  · exact portOf_setFlag h
  · rfl

theorem portOf_setLine (l : LineState) : portOf (setLine l s) = portOf s := by
  unfold setLine
  split
  · rfl
  · exact portOf_setFlag (by decide)

theorem portOf_counterEvents (n : Nat) : portOf (counterEvents n s) = portOf s := by
  unfold counterEvents
  simp only
  rw [portOf_setFlagIf (by decide), portOf_setFlagIf (by decide)]

theorem portOf_reserved (h : ResHolder) : portOf (reserved h s) = portOf s := (portOf_setFlagIf (by decide)).trans rfl

theorem portOf_of_fields (ho : t.outstanding = s.outstanding) (hr : t.responses = s.responses) (hf : t.flags = s.flags)
    (hframe : t.frameErrors = s.frameErrors) (hover : t.overruns = s.overruns) : portOf t = portOf s := by
  simp only [portOf, ho, hr, hf, hframe, hover]

theorem portOf_noticeAll (n : Notice) : portOf (noticeAll n s) = portOf s := portOf_of_fields (by simp) (by simp) (by simp) (by simp) (by simp)

theorem portOf_finishCeremony (w : CeremonyWork) (result : CeremonyResult) (run : CeremonyRun) :
    portOf (finishCeremony w result run s) = portOf s :=
  (portOf_setFlag (by decide)).trans ((portOf_noticeAll _).trans rfl)

theorem portOf_completeErasure (i : SlotIx) : portOf (completeErasure i s) = portOf s := by
  unfold completeErasure
  simp only
  split
  · split
    · exact (portOf_finishCeremony ..).trans rfl
    · rfl
  · rfl

theorem portOf_lowerInUse (i : SlotIx) : portOf (lowerInUse i s) = portOf s := by
  unfold lowerInUse
  simp only
  split
  · split
    · exact (portOf_completeErasure i).trans rfl
    · rfl
  · rfl

theorem portOf_endStep (p : Port) (ps : PendingStep) (body : RecordBody) : portOf (endStep p ps body s) = portOf s :=
  (portOf_lowerInUse _).trans ((portOf_lowerInUse _).trans rfl)

theorem portOf_voidStep (p : Port) (kcv : PendingStep → Option Kcv) (reason : VoidReason) : portOf (voidStep p kcv reason s) = portOf s := by
  unfold voidStep
  split
  · rfl
  · exact portOf_endStep ..

theorem portOf_withdrawJob (r : Fin 10) : portOf (withdrawJob r s) = portOf s :=
  portOf_of_fields (by simp) (by simp) (by simp) (by simp) (by simp)

theorem portOf_requestJob (r : Fin 10) (inputs : JobInputs) : portOf (requestJob r inputs s) = portOf s :=
  portOf_of_fields (by simp) (by simp) (by simp) (by simp) (by simp)

theorem portOf_pushBench (p : Port) (m : BenchOut) : portOf (pushBench p m s) = portOf s :=
  portOf_of_fields (by simp) (by simp) (by simp) (by simp) (by simp)

theorem portOf_answer (l : ConsoleLink) (kind : Byte) (st : Status) (body : AnswerBody) : portOf (answer l kind st body s) = portOf s :=
  portOf_of_fields (by simp) (by simp) (by simp) (by simp) (by simp)

theorem portOf_finishSession (p : Port) (ss : Session) (reason : VoidReason) (next : PortContext) :
    portOf (finishSession p ss reason next s) = portOf s := by
  unfold finishSession
  refine (portOf_setFlagIf (by decide)).trans ?_
  split
  · exact (portOf_pushBench ..).trans rfl
  · rfl

theorem portOf_endSession (reason : VoidReason) (p : Port) : portOf (endSession reason p s) = portOf s := by
  unfold endSession
  split
  · exact portOf_finishSession ..
  · exact (portOf_finishSession ..).trans (portOf_voidStep ..)
  · simp only
    split
    · exact (portOf_finishSession ..).trans (portOf_withdrawJob _)
    · exact (portOf_finishSession ..).trans ((portOf_voidStep ..).trans (portOf_withdrawJob _))
  · rfl

theorem portOf_endAllSessions (reason : VoidReason) : portOf (endAllSessions reason s) = portOf s := by
  unfold endAllSessions
  induction allPorts generalizing s with
  | nil => rfl
  | cons p l ih => exact ih.trans (portOf_endSession reason p)

theorem portOf_abortCeremony (reason : AbortReason) (leaver : Option Cust) (w : CeremonyWork) :
    portOf (abortCeremony reason leaver w s) = portOf s := by
  rw [abortCeremony_eq]
  refine (portOf_finishCeremony ..).trans ((portOf_withdrawJob _).trans ?_)
  unfold abortClaims answerUnderCheck abandonTarget
  refine portOf_of_fields ?_ ?_ ?_ ?_ ?_ <;> (repeat' split) <;> simp

theorem portOf_custodianLeft (c : Cust) : portOf (custodianLeft c s) = portOf s := by
  unfold custodianLeft
  (repeat' split) <;> [exact portOf_abortCeremony ..; rfl; rfl]

theorem portOf_endLogon (l : ConsoleLink) : portOf (endLogon l s) = portOf s := by
  unfold endLogon
  split
  · rfl
  · exact (portOf_custodianLeft _).trans rfl

end

end Sys2Proof.Machine
end

section
/-! The control port's book-keeping: the handlers and the events (R195). -/

namespace Sys2Proof.Machine
open Sys2Proof.Safety

section
variable {s t : State}

/-! ### What an event does for the port -/

/-- The answer that a line state withholds. -/
def closeTags : LineState → List Byte
  | .closing tag => [tag]
  | _ => []

/-- The answer that an import withholds. -/
def importTags : Option ImportWork → List Byte
  | some w => [w.tag]
  | none => []

theorem withheldTags_eq : withheldTags s = importTags s.importWork ++ closeTags s.line := by
  unfold withheldTags
  cases s.importWork <;> cases s.line <;> rfl

theorem importTags_map {x : Option ImportWork} {f : ImportWork → ImportWork} (h : ∀ w, (f w).tag = w.tag) :
    importTags (x.map f) = importTags x := by
  cases x with
  | none => rfl
  | some w => simp [importTags, h]

/-- From `s` to `t` the port keeps its records, and its book-keeping is about what it was about. -/
structure PortKept (s t : State) : Prop where
  port : portOf t = portOf s
  withheld : OpenLineNeedsSetup s → withheldTags t = withheldTags s
  openLine : OpenLineNeedsSetup s → OpenLineNeedsSetup t

/-- What every event keeps (R195, R196, R203). -/
structure PortStep (s t : State) : Prop where
  booked : PortBooked s → PortBooked t
  ready : ReadyFollowsQueue s → ReadyFollowsQueue t

theorem PortKept.step (h : PortKept s t) : PortStep s t where
  booked hs := by
    obtain ⟨ho, hl⟩ := portBooked_iff.1 hs
    exact portBooked_iff.2 ⟨h.withheld hl ▸ (PortMove.of_eq h.port).owed _ ho, h.openLine hl⟩
  ready := (PortMove.of_eq h.port).ready

theorem PortKept.trans {u : State} (h : PortKept s t) (g : PortKept t u) : PortKept s u :=
  ⟨g.port.trans h.port, fun hs => (g.withheld (h.openLine hs)).trans (h.withheld hs), fun hs => g.openLine (h.openLine hs)⟩

theorem PortStep.trans {u : State} (h : PortStep s t) (g : PortStep t u) : PortStep s u :=
  ⟨fun hs => g.booked (h.booked hs), fun hs => g.ready (h.ready hs)⟩

/-- The part of the state that the port's book-keeping is about. -/
def bookOf (s : State) : (List Outstanding × List Response × Bool × Nat × Nat) × LineState × CeremonyRun × Option ImportWork :=
  (portOf s, s.line, s.ceremony.run, s.importWork)

theorem PortKept.of_eq (h : bookOf t = bookOf s) : PortKept s t := by
  simp only [bookOf, Prod.mk.injEq] at h
  obtain ⟨hport, hline, hrun, hwork⟩ := h
  refine ⟨hport, fun _ => by rw [withheldTags_eq, withheldTags_eq, hline, hwork], fun hs w hw hp => ?_⟩
  rw [hline]
  exact hs w (hrun ▸ hw) hp

theorem PortKept.refl (s : State) : PortKept s s := .of_eq rfl

theorem PortKept.keep {u : State} (h : PortKept s u) (g : bookOf t = bookOf u) : PortKept s t := h.trans (.of_eq g)

theorem PortKept.after {u : State} (h : PortKept u t) (g : bookOf u = bookOf s) : PortKept s t := (PortKept.of_eq g).trans h

theorem PortStep.of_eq (h : bookOf t = bookOf s) : PortStep s t := (PortKept.of_eq h).step

theorem PortStep.after {u : State} (h : PortStep u t) (g : bookOf u = bookOf s) : PortStep s t := (PortStep.of_eq g).trans h

theorem PortStep.keep {u : State} (h : PortStep s u) (g : bookOf t = bookOf u) : PortStep s t := h.trans (.of_eq g)

theorem BareMove.portKept (h : BareMove s t) (hp : portOf t = portOf s) : PortKept s t :=
  ⟨hp, fun _ => by rw [withheldTags_eq, withheldTags_eq, h.line, h.work], fun hs w hw hl => h.line ▸ hs w (h.runs w hw) hl⟩

theorem portKept_endSession (reason : VoidReason) (p : Port) : PortKept s (endSession reason p s) :=
  (bareMove_endSession ..).portKept (portOf_endSession ..)

theorem portKept_endAllSessions (reason : VoidReason) : PortKept s (endAllSessions reason s) :=
  (bareMove_endAllSessions ..).portKept (portOf_endAllSessions ..)

theorem portKept_endStep (p : Port) (ps : PendingStep) (body : RecordBody) : PortKept s (endStep p ps body s) :=
  (bareMove_endStep ..).portKept (portOf_endStep ..)

theorem portKept_voidStep (p : Port) (kcv : PendingStep → Option Kcv) (reason : VoidReason) : PortKept s (voidStep p kcv reason s) :=
  (bareMove_voidStep ..).portKept (portOf_voidStep ..)

theorem portKept_abortCeremony (reason : AbortReason) (leaver : Option Cust) (w : CeremonyWork) :
    PortKept s (abortCeremony reason leaver w s) := (bareMove_abortCeremony ..).portKept (portOf_abortCeremony ..)

theorem portKept_endLogon (l : ConsoleLink) : PortKept s (endLogon l s) := (bareMove_endLogon l).portKept (portOf_endLogon l)

/-- The context of a ceremony changes, not its parameters. -/
theorem PortKept.of_run {w w' : CeremonyWork} (hw : s.ceremony.run = .work w) (ht : t.ceremony.run = .work w')
    (hp : w'.params = w.params) (hport : portOf t = portOf s) (hline : t.line = s.line) (hwork : t.importWork = s.importWork) :
    PortKept s t :=
  ⟨hport, fun _ => by rw [withheldTags_eq, withheldTags_eq, hline, hwork], fun hs x hx hl => by
    cases ht.symm.trans hx
    rw [hline]
    exact hs w hw (hp.symm.trans hl)⟩

/-- No ceremony is open afterwards. -/
theorem PortKept.of_closed (ht : ∀ w, t.ceremony.run ≠ .work w) (hport : portOf t = portOf s)
    (htags : OpenLineNeedsSetup s → withheldTags t = withheldTags s) : PortKept s t := ⟨hport, htags, fun _ w hw => absurd hw (ht w)⟩

theorem portKept_noticeAll (n : Notice) : PortKept s (noticeAll n s) := .of_eq (by simp [bookOf, portOf_noticeAll])

theorem portKept_answer (l : ConsoleLink) (kind : Byte) (st : Status) (body : AnswerBody) : PortKept s (answer l kind st body s) :=
  .of_eq (by simp [bookOf, portOf_answer])

/-! ### Requests that are answered in their own event (R197) -/

theorem portOf_clearReported (clearSet : BitVec 12) : portOf (clearReported clearSet s) = portOf s := by
  have hbit : (clearReported clearSet s).flags.getLsbD 0 = s.flags.getLsbD 0 := by
    simp [clearReported, Event.only, Event.index]
  simp only [portOf, hbit]
  rfl

theorem portMove_clearCountsIf (b : Bool) : PortMove [] s (clearCountsIf b s) := by
  unfold clearCountsIf
  split
  · exact ⟨fun ts hs => ⟨hs.bound, hs.tags, hs.queued, hs.withheld⟩, fun hs => ⟨hs.1, Nat.zero_le _, Nat.zero_le _⟩⟩
  · exact .of_eq rfl

/-- A request that reaches no block whose work goes on is answered in its own event. -/
theorem portMove_lightRequest {c : Instr} {r : Request} (hr : request? c = some r) (h : lightRequest c = true) :
    PortMove [r.tag] s (requestHandler c s) := by
  cases c <;> simp only [lightRequest, Bool.false_eq_true] at h <;> simp only [request?, reduceCtorEq, Option.some.injEq] at hr <;>
    subst hr <;> simp only [requestHandler]
  case profileBegin => unfold profileBegin; split <;> exact .answered rfl
  case profileBlock => unfold profileBlock spoil; (repeat' split) <;> exact .answered rfl
  case profileAbandon => exact .answered rfl
  case linePause => unfold linePause; split <;> [exact .answered (portOf_setLine _); exact .answered rfl]
  case lineResume => unfold lineResume; split <;> [exact .answered (portOf_setLine _); exact .answered rfl]
  case slotQuery => unfold slotQuery; split <;> exact .answered rfl
  case regAdd => unfold regAdd regAddChecked; (repeat' split) <;> exact .answered rfl
  case regQuery => unfold regQuery; (repeat' split) <;> exact .answered rfl
  case regSetState => unfold regSetState setEntryState; (repeat' split) <;> exact .answered rfl
  case regRemove => unfold regRemove removeEntry; (repeat' split) <;> exact .answered rfl
  case regScan => unfold regScan; split <;> exact .answered rfl
  case counterRead => unfold counterRead; (repeat' split) <;> exact .answered rfl
  case journalRead => unfold journalRead; split <;> exact .answered rfl
  case journalRelease => unfold journalRelease; simp only; (repeat' split) <;> exact .answered rfl
  case status tag clearSet clearCounts =>
    exact ((portMove_clearCountsIf clearCounts).after (portOf_clearReported clearSet)).trans (portMove_respond ..)
  case setMask => exact .answered rfl

theorem line_of_lightRequest {c : Instr} (h : lightRequest c = true) :
    closeTags (requestHandler c s).line = closeTags s.line ∧ (s.line = .setup → (requestHandler c s).line = .setup) := by
  have hkeep : ∀ {t : State}, t.line = s.line → closeTags t.line = closeTags s.line ∧ (s.line = .setup → t.line = .setup) :=
    fun ht => ⟨by rw [ht], fun hs => ht.trans hs⟩
  cases c <;> simp only [lightRequest, Bool.false_eq_true] at h <;> simp only [requestHandler]
  case linePause =>
    unfold linePause
    split
    next hl => exact ⟨by simp [line_setLine, hl, closeTags], fun hs => absurd (hl.symm.trans hs) nofun⟩
    next => exact hkeep rfl
  case lineResume =>
    unfold lineResume
    split
    next hl => exact ⟨by simp [line_setLine, hl, closeTags], fun hs => absurd (hl.symm.trans hs) nofun⟩
    next => exact hkeep rfl
  case profileBegin => unfold profileBegin; split <;> exact hkeep rfl
  case profileBlock => unfold profileBlock spoil; (repeat' split) <;> exact hkeep rfl
  case slotQuery => unfold slotQuery; split <;> exact hkeep rfl
  case regAdd => unfold regAdd regAddChecked; (repeat' split) <;> exact hkeep rfl
  case regQuery => unfold regQuery; (repeat' split) <;> exact hkeep rfl
  case regSetState => unfold regSetState setEntryState; (repeat' split) <;> exact hkeep rfl
  case regRemove => unfold regRemove removeEntry; (repeat' split) <;> exact hkeep rfl
  case regScan => unfold regScan; split <;> exact hkeep rfl
  case counterRead => unfold counterRead; (repeat' split) <;> exact hkeep rfl
  case journalRead => unfold journalRead; split <;> exact hkeep rfl
  case journalRelease => unfold journalRelease; simp only; (repeat' split) <;> exact hkeep rfl
  case status => unfold statusRequest clearCountsIf; split <;> exact hkeep rfl
  all_goals exact hkeep rfl

/-- An accepted request joins the records (R196). -/
theorem Owed.withRequest {ts : List Byte} {tag kind : Byte} {n : Nat} (h : Owed ts s) (ha : Accepts tag s) :
    Owed (tag :: ts) (s.withRequest tag kind n) := by
  obtain ⟨-, hlen, hfree⟩ := ha
  have hout : (s.withRequest tag kind n).outstanding = s.outstanding ++ [{ tag := tag, kind := kind, queued := false }] := rfl
  have hnot : tag ∉ s.outstanding.map Outstanding.tag := fun hm => by
    obtain ⟨o, ho, ht⟩ := List.mem_map.1 hm
    exact hfree o ho ht
  refine ⟨?_, ?_, ?_, ?_⟩
  · rw [hout, List.length_append]; exact hlen
  · rw [hout, List.map_append, List.nodup_append]
    exact ⟨h.tags, List.nodup_singleton _, fun a ha b hb => by
      rw [List.map_singleton, List.mem_singleton] at hb
      exact fun he => hnot ((he.trans (show b = tag from hb)) ▸ ha)⟩
  · rw [hout]
    simpa [queuedTags] using h.queued
  · rw [hout]
    have hw : owedTags (s.outstanding ++ [{ tag := tag, kind := kind, queued := false }]) = owedTags s.outstanding ++ [tag] := by
      simp [owedTags]
    rw [hw]
    exact List.perm_append_comm.trans (h.withheld.cons tag)

/-- A request that its block answers in its own event, or keeps the answer of. -/
theorem portStep_request {tags : List Byte} {r : Request} {u : State} (ha : Accepts r.tag s)
    (hm : PortMove tags (s.withRequest r.tag r.kind r.length) u) (htags : (r.tag :: withheldTags s).Perm (tags ++ withheldTags u))
    (ho : OpenLineNeedsSetup s → OpenLineNeedsSetup u) : PortStep s u where
  booked hs := by
    obtain ⟨howed, hl⟩ := portBooked_iff.1 hs
    exact portBooked_iff.2 ⟨hm.owed _ ((howed.withRequest ha).perm htags), ho hl⟩
  ready hs := hm.ready hs

end

end Sys2Proof.Machine
end

section
/-! The control port's book-keeping: the blocks that withhold an answer, and every event (R195). -/

namespace Sys2Proof.Machine
open Sys2Proof.Safety

section
variable {s t : State}

/-! ### Requests -/

theorem portStep_lightRequest {c : Instr} {r : Request} (hr : request? c = some r) (h : lightRequest c = true) (ha : Accepts r.tag s) :
    PortStep s (requestHandler c (s.withRequest r.tag r.kind r.length)) := by
  have hframe := lightRequest_frame h (s.withRequest r.tag r.kind r.length)
  obtain ⟨hclose, hsetup⟩ := line_of_lightRequest (s := s.withRequest r.tag r.kind r.length) h
  refine portStep_request ha (portMove_lightRequest hr h) ?_ fun hs w hw hl => hsetup (hs w ?_ hl)
  · have hwork := congrArg State.importWork hframe
    rw [withheldTags_eq, withheldTags_eq, hclose]
    exact List.Perm.of_eq (congrArg (fun x => r.tag :: (importTags x ++ closeTags s.line)) hwork.symm)
  · exact (congrArg (fun x => x.ceremony.run) hframe).symm.trans hw

theorem portOf_profileCommit {tag : Byte} {check : Check32} : PortMove [tag] s (profileCommit tag check s) := by
  have hports : ∀ ports u, portOf (applyPortTable ports u) = portOf u := fun ports u =>
    (congrArg portOf (applyPortTable_spec ports u).1 :)
  unfold profileCommit
  split
  · exact .answered rfl
  · simp only
    (repeat' split) <;> try exact .answered rfl
    have hregistry : ∀ (u : State) r, portOf (u.setRegistry r) = portOf u := fun _ _ => rfl
    unfold commitProfile
    refine .answered ?_
    rw [portOf_setFlagIf (by decide), hregistry, hports]
    rfl

theorem portStep_profileCommit {tag : Byte} {check : Check32} {n : Nat} {kind : Byte} (ha : Accepts tag s) :
    PortStep s (profileCommit tag check (s.withRequest tag kind n)) := by
  have hframe := profileCommit_frame (s := s.withRequest tag kind n) tag check
  refine portStep_request (r := ⟨tag, kind, n⟩) ha portOf_profileCommit ?_ fun hs w hw hl => ?_
  · exact List.Perm.of_eq (congrArg (fun x => tag :: withheldTags x) hframe).symm
  · have hline : (profileCommit tag check (s.withRequest tag kind n)).line = s.line := (congrArg State.line hframe :)
    rw [hline]
    exact hs w ((congrArg (fun x => x.ceremony.run) hframe).symm.trans hw) hl

theorem portMove_counterAdvance {tag : Byte} {n value : Nat} : PortMove [tag] s (counterAdvance tag n value s) := by
  unfold counterAdvance
  (repeat' split) <;> try exact .answered rfl
  unfold counterRaise
  split
  · exact .answered rfl
  · rcases Nat.lt_or_ge s.journal.occupancy 511 with hf | hf
    · rw [requestReservation_granted hf]
      exact .answered ((portOf_counterEvents _).trans ((portOf_reserved _).trans rfl))
    · rw [requestReservation_refused hf]
      exact .answered (portOf_setFlag (by decide))

theorem counterAdvance_keeps (tag : Byte) (n value : Nat) :
    (counterAdvance tag n value s).importWork = s.importWork ∧ (counterAdvance tag n value s).ceremony = s.ceremony := by
  unfold counterAdvance
  (repeat' split) <;> try simp
  unfold counterRaise
  split
  · simp
  · rcases Nat.lt_or_ge s.journal.occupancy 511 with hf | hf
    · rw [requestReservation_granted hf]
      simp
    · rw [requestReservation_refused hf]
      simp

theorem portStep_counterAdvance {tag kind : Byte} {m n value : Nat} (ha : Accepts tag s) :
    PortStep s (counterAdvance tag n value (s.withRequest tag kind m)) := by
  have hframe := counterAdvance_frame (s := s.withRequest tag kind m) tag n value
  have hline : (counterAdvance tag n value (s.withRequest tag kind m)).line = s.line := (congrArg State.line hframe :)
  have hmore := counterAdvance_keeps (s := s.withRequest tag kind m) tag n value
  refine portStep_request (r := ⟨tag, kind, m⟩) ha portMove_counterAdvance ?_ fun hs w hw hl => ?_
  · rw [withheldTags_eq, withheldTags_eq, hline, hmore.1]; exact .refl _
  · rw [hline]
    exact hs w ((congrArg Ceremony.run hmore.2).symm.trans hw) hl

theorem portStep_importKey {tag kind : Byte} {m : Nat} {body : List Byte} (ha : Accepts tag s) :
    PortStep s (importKey tag body (s.withRequest tag kind m)) := by
  have hanswer : ∀ st u, portOf u = portOf (s.withRequest tag kind m) → u.line = s.line → u.ceremony = s.ceremony →
      u.importWork = s.importWork → PortStep s (refuse tag 0x20 st u) := fun st u hp hl hc hw =>
    portStep_request (r := ⟨tag, kind, m⟩) ha (.answered hp)
      (by simp [withheldTags_eq, hl, hw]) (fun hs w hrun hpar => by
        simp only [refuse_keeps, hl]
        exact hs w (by simpa [hc] using hrun) hpar)
  unfold importKey
  split
  · exact hanswer _ _ rfl rfl rfl rfl
  next hnone =>
    (repeat' split) <;> try exact hanswer _ _ rfl rfl rfl rfl
    unfold importChecked
    split
    · exact hanswer _ _ rfl rfl rfl rfl
    · split
      · exact hanswer _ _ rfl rfl rfl rfl
      · rcases Nat.lt_or_ge (s.withRequest tag kind m).journal.occupancy 511 with hf | hf
        · rw [requestReservation_granted hf]
          have hwork : s.importWork = none := by simpa using hnone
          refine portStep_request (r := ⟨tag, kind, m⟩) (tags := []) ha
            (.of_eq ((portOf_requestJob ..).trans ((portOf_reserved .importUnit).trans rfl))) ?_ fun hs w hrun hpar => ?_
          · simp [withheldTags_eq, startImport, hwork, importTags]
          · simp only [startImport, requestJob_keeps] at hrun ⊢
            simpa using hs w (by simpa using hrun) hpar
        · rw [requestReservation_refused hf]
          exact hanswer _ _ (portOf_setFlag (by decide)) rfl rfl rfl

theorem portStep_closeFinish : PortStep s (closeFinish s) := by
  unfold closeFinish
  split
  next tag hl =>
    split
    · exact .of_eq rfl
    · have hline : (respond tag 0x12 .ok false .nothing (setLine .setup s)).line = .setup := line_setLine _
      have hmove : PortMove [tag] s (respond tag 0x12 .ok false .nothing (setLine .setup s)) := .answered (portOf_setLine _)
      refine ⟨fun hs => ?_, hmove.ready⟩
      obtain ⟨howed, ho⟩ := portBooked_iff.1 hs
      refine portBooked_iff.2 ⟨hmove.owed _ (howed.perm ?_), fun _ _ _ => hline⟩
      rw [withheldTags_eq, withheldTags_eq, hline, hl]
      have hwork : (respond tag 0x12 .ok false .nothing (setLine .setup s)).importWork = s.importWork := by simp
      rw [hwork]
      simp [closeTags]
  next => exact .of_eq rfl

theorem portStep_beginClose {tag kind : Byte} {m : Nat} (ha : Accepts tag s) (hl : s.line = .live ∨ s.line = .paused) :
    PortStep s (beginClose tag (s.withRequest tag kind m)) := by
  have hclose : PortStep s (setLine (.closing tag) (s.withRequest tag kind m)) := by
    refine portStep_request (r := ⟨tag, kind, m⟩) (tags := []) ha (.of_eq (portOf_setLine _)) ?_ fun hs w hw hp => ?_
    · have htags : closeTags s.line = [] := by rcases hl with hl | hl <;> rw [hl] <;> rfl
      rw [withheldTags_eq, withheldTags_eq, htags, line_setLine]
      simpa [closeTags] using (List.perm_append_comm (l₁ := [tag]) (l₂ := importTags s.importWork))
    · have hsetup := hs w (by simpa using hw) hp
      rcases hl with hl | hl <;> exact absurd (hl.symm.trans hsetup) nofun
  exact (hclose.trans (portKept_endAllSessions .lineClosed).step).trans portStep_closeFinish

theorem portStep_lineClose {tag kind : Byte} {m : Nat} (ha : Accepts tag s) :
    PortStep s (lineClose tag (s.withRequest tag kind m)) := by
  have hanswer : ∀ st, PortStep s (respond tag 0x12 st false .nothing (s.withRequest tag kind m)) := fun st =>
    portStep_request (r := ⟨tag, kind, m⟩) ha (portMove_respond ..) (.refl _) id
  unfold lineClose
  split
  next => exact hanswer _
  next hl => exact portStep_beginClose ha (.inl hl)
  next hl => exact portStep_beginClose ha (.inr hl)
  next => exact hanswer _
  next => exact hanswer _

/-! ### Zeroise and reset -/

theorem portMove_zeroiseClose : PortMove (closeTags s.line) s (zeroiseClose s.line (setLine .zeroised s)) := by
  unfold zeroiseClose
  split
  next tag htag => rw [htag]; exact PortMove.answered (portOf_setLine _)
  next h =>
    have htags : closeTags s.line = [] := by
      unfold closeTags
      split
      next tag htag => exact absurd htag (h tag)
      next => rfl
    rw [htags]
    exact .of_eq (portOf_setLine _)

theorem portOf_zeroisePart (cause : TamperCause) :
    portOf (zeroisePart cause s) = portOf (zeroiseClose s.line (setLine .zeroised s)) := by
  have hend : ∀ u, portOf ((tamperJournal cause u).setFlag .tamper) = portOf u := fun u => portOf_setFlag (by decide)
  have hwork : ∀ u, portOf (zeroiseWork u) = portOf u := fun u => by
    have hceremony : portOf (zeroiseCeremony u) = portOf u := by
      unfold zeroiseCeremony
      split
      · exact portOf_abortCeremony ..
      · rfl
    exact hceremony
  rw [zeroisePart_eq, hend, portOf_endAllSessions, hwork]
  rfl

/-- A zeroise leaves the line ZEROISED, and the import what it was but reached (R74, R103). -/
theorem zeroisePart_line_work (cause : TamperCause) :
    (zeroisePart cause s).line = .zeroised ∧ importTags (zeroisePart cause s).importWork = importTags s.importWork := by
  have hend : BareMove (zeroiseWork (zeroiseStart s)) (zeroisePart cause s) := by
    rw [zeroisePart_eq]
    exact (bareMove_endAllSessions .zeroised).keep (by simp [keysOf, tamperJournal])
  have hclose : (zeroiseStart s).line = .zeroised ∧ (zeroiseStart s).importWork = s.importWork := by
    have h : (zeroiseClose s.line (setLine .zeroised s)).line = .zeroised
        ∧ (zeroiseClose s.line (setLine .zeroised s)).importWork = s.importWork := by
      unfold zeroiseClose
      split <;> simp [line_setLine]
    exact h
  have hceremony : ∀ u, (zeroiseCeremony u).line = u.line ∧ (zeroiseCeremony u).importWork = u.importWork := fun u => by
    unfold zeroiseCeremony
    split <;> simp
  have hwork : ∀ u, (zeroiseWork u).line = (zeroiseCeremony u).line
      ∧ importTags (zeroiseWork u).importWork = importTags (zeroiseCeremony u).importWork := fun u =>
    ⟨rfl, importTags_map (x := (zeroiseCeremony u).importWork) fun _ => rfl⟩
  rw [hend.line, hend.work, (hwork _).1, (hwork _).2, (hceremony _).1, (hceremony _).2, hclose.1, hclose.2]
  exact ⟨rfl, rfl⟩

/-- A zeroise answers the close that is withheld (R103). -/
theorem portStep_zeroisePart (cause : TamperCause) : PortStep s (zeroisePart cause s) := by
  have hmove : PortMove (closeTags s.line) s (zeroisePart cause s) := portMove_zeroiseClose.keep (portOf_zeroisePart cause)
  obtain ⟨hline, hwork⟩ := zeroisePart_line_work (s := s) cause
  refine ⟨fun hs => ?_, hmove.ready⟩
  obtain ⟨howed, -⟩ := portBooked_iff.1 hs
  refine portBooked_iff.2 ⟨hmove.owed _ (howed.perm ?_), fun w hw => absurd hw (run_of_closed (bare_zeroisePart cause).closed w)⟩
  rw [withheldTags_eq, withheldTags_eq, hline, hwork]
  simpa [closeTags] using List.perm_append_comm

theorem portStep_resetPart (cause : ResetCause) : PortStep s (resetPart cause t) := by
  rw [resetPart_eq]
  generalize foundStore t = u
  have hblocks : PortStep s (resetBlocks cause u) := by
    obtain ⟨hline, -, -, hceremony, hwork, -, hout, hresp, hflags, -, hframe, hover, -⟩ := resetBlocks_fixed cause u
    refine ⟨fun _ => portBooked_iff.2 ⟨⟨?_, ?_, ?_, ?_⟩, fun w hw => ?_⟩, fun _ => ⟨?_, ?_, ?_⟩⟩
    · rw [hout]; exact Nat.zero_le _
    · rw [hout]; exact List.nodup_nil
    · rw [hout, hresp]; exact .refl _
    · rw [hout, withheldTags_eq, hline, hwork]; exact .refl _
    · rw [hceremony] at hw; cases hw
    · rw [hflags, hresp]; rfl
    · rw [hframe]; exact Nat.zero_le _
    · rw [hover]; exact Nat.zero_le _
  have hafter : ∀ v : State, PortStep v (zeroiseAfterReset v) := fun v => by
    unfold zeroiseAfterReset
    split
    · exact (portStep_zeroisePart _).after rfl
    · split
      · exact portStep_zeroisePart _
      · exact .of_eq rfl
  exact hblocks.trans (hafter _)

theorem portStep_requestHandler {c : Instr} {r : Request} (hr : request? c = some r) (ha : Accepts r.tag s) :
    PortStep s (requestHandler c (s.withRequest r.tag r.kind r.length)) := by
  cases hl : lightRequest c with
  | true => exact portStep_lightRequest hr hl ha
  | false =>
    cases c <;> simp only [lightRequest, Bool.true_eq_false] at hl <;> simp only [request?, Option.some.injEq] at hr <;> subst hr
    case profileCommit tag check => exact portStep_profileCommit ha
    case lineClose tag => exact portStep_lineClose ha
    case lineReset => exact portStep_resetPart .lineReset
    case importKey tag body => exact portStep_importKey ha
    case counterAdvance tag n value => exact portStep_counterAdvance ha

end

end Sys2Proof.Machine
end

section
/-! The control port's book-keeping: messages, completions, expiries and levels (R195). -/

namespace Sys2Proof.Machine
open Sys2Proof.Safety

section
variable {s t : State}

/-! ### Console messages -/

theorem portKept_startCeremony {l : ConsoleLink} {p : Person} {params : CeremonyParams}
    (h : params = .openLine → s.line = .setup) : PortKept s (startCeremony l p params s) := by
  have hopened : ∀ u : State, bookOf u = bookOf s → ∀ c : Ceremony, c.run = .work (openedWork p params (windowLength s)) →
      PortKept s { u with ceremony := c } := fun u hu c hc => by
    have hline : u.line = s.line := congrArg (fun x => x.2.1) hu
    have hwork : u.importWork = s.importWork := congrArg (fun x => x.2.2.2) hu
    refine ⟨(congrArg Prod.fst hu :), fun _ => by rw [withheldTags_eq, withheldTags_eq, hline, hwork], fun _ w hw hl => ?_⟩
    cases hc.symm.trans hw
    exact hline.trans (h hl)
  unfold startCeremony
  simp only
  refine ((hopened _ ?_ _ rfl).trans (portKept_answer ..)).trans (portKept_noticeAll _)
  split <;> rfl

theorem portKept_openCeremony {l : ConsoleLink} {p : Person} {o : Opening} (h : o = .granted .openLine → s.line = .setup) :
    PortKept s (openCeremony l p o s) := by
  rcases openCeremony_cases l p o s with ⟨st, he⟩ | he | ⟨params, ho, -, -, -, he⟩ <;> rw [he]
  · exact portKept_answer ..
  · have hset : PortKept s (s.setFlag .journalHigh) := .of_eq (by simp only [bookOf, portOf_setFlag (e := .journalHigh) (by decide)]; rfl)
    exact hset.trans (portKept_answer ..)
  · have hres : PortKept s (reserved .ceremony s) := .of_eq (by simp [bookOf, portOf_reserved])
    exact hres.trans (portKept_startCeremony fun hp => by simpa using h (hp ▸ ho))

/-- Only an OPEN_LINE opens an OPEN_LINE ceremony, in SETUP (R45). -/
theorem line_of_openingOf {c : Instr} {p : Person} (h : openingOf c p s = .granted .openLine) : s.line = .setup := by
  cases c <;> simp only [openingOf, reduceCtorEq] at h
  case openOpenLine =>
    unfold openLineOpening at h
    split at h
    next hl => exact hl.1
    next => cases h
  case openAssemble =>
    unfold assembleOpening at h
    (repeat' split at h) <;> cases h
  case openErase =>
    unfold eraseOpening at h
    (repeat' split at h) <;> cases h
  case openEnrol =>
    unfold enrolOpening at h
    (repeat' split at h) <;> cases h
  case openRevoke =>
    unfold revokeOpening at h
    (repeat' split at h) <;> cases h
  case openUnlock =>
    unfold unlockOpening at h
    (repeat' split at h) <;> cases h

theorem portKept_badEntry {w w₀ : CeremonyWork} (hw : s.ceremony.run = .work w₀) (hp : w.params = w₀.params) :
    PortKept s (badEntry w s) := by
  have hset : PortKept s (s.setCeremony (.work { w with underCheck := none, badEntries := w.badEntries + 1 })) :=
    .of_run hw rfl hp rfl rfl rfl
  unfold badEntry
  simp only
  split
  · exact hset.trans (portKept_noticeAll _)
  · exact hset.trans (portKept_abortCeremony ..)

theorem portKept_requestJob (r : Fin 10) (inputs : JobInputs) : PortKept s (requestJob r inputs s) :=
  .of_eq (by simp [bookOf, portOf_requestJob])

theorem portKept_giveComponent (l : ConsoleLink) (p : Person) (value : KeyBytes) (check : Kcv) :
    PortKept s (giveComponent l p value check s) := by
  unfold giveComponent
  split
  next w hw =>
    split
    · unfold componentChecked
      (repeat' split) <;> try exact portKept_answer ..
      · exact (portKept_answer ..).trans (portKept_badEntry (w₀ := w) (by simpa using hw) rfl)
      · unfold takeComponent
        refine PortKept.trans ?_ (portKept_requestJob ..)
        exact .of_run hw rfl rfl rfl rfl rfl
    · exact portKept_answer ..
  · exact portKept_answer ..

theorem portKept_endLogonsOf (c : Cust) : PortKept s (endLogonsOf c s) := by
  have hstep : ∀ l u, PortKept u (endLogonIf c l u) := fun l u => by
    unfold endLogonIf
    split
    · exact portKept_endLogon l
    · exact .refl u
  rw [endLogonsOf_eq]
  exact (hstep 0 s).trans (hstep 1 _)

theorem portKept_finishIdle (w : CeremonyWork) (result : CeremonyResult) : PortKept s (finishCeremony w result .idle s) :=
  .of_closed (fun x => by rw [run_finishCeremony]; nofun) (portOf_finishCeremony ..) fun _ => by simp [withheldTags_eq]

theorem portKept_completeErasure (i : SlotIx) : PortKept s (completeErasure i s) :=
  (bareMove_completeErasure i).portKept (portOf_completeErasure i)

theorem portKept_approveErase {w w₀ : CeremonyWork} (i : SlotIx) (hw : s.ceremony.run = .work w₀) (hp : w.params = w₀.params) :
    PortKept s (approveErase i w s) := by
  unfold approveErase
  simp only
  split
  · have hset : PortKept s (s.setCeremony (.work w)) := .of_run hw rfl hp rfl rfl rfl
    exact hset.trans (portKept_completeErasure i)
  · refine PortKept.trans ?_ (portKept_noticeAll _)
    split <;> exact .of_run hw rfl hp rfl rfl rfl

theorem portKept_installAssembled (slot : SlotIx) (cls : KeyClass) (length : Nat) (keySet : Option Nat) (pair : Pair) (w : CeremonyWork) :
    PortKept s (installAssembled slot cls length keySet pair w s) := by
  unfold installAssembled
  split
  · exact .of_eq (by simp [bookOf, portOf])
  · exact .refl s

theorem portKept_changeCustodian (action : CustodianAction) (who : Cust) (pair : Pair) (x : Option CustEntry) :
    PortKept s (changeCustodian action who pair x s) := .of_eq rfl

/-- An OPEN_LINE completes in SETUP, where no close is withheld (R45, R53, R97). -/
theorem portKept_openLine {w w₀ : CeremonyWork} {pair : Pair} (hw : s.ceremony.run = .work w₀) (hp : w₀.params = .openLine) :
    PortKept s (finishCeremony w .completed .idle
      { setLine .live (writeRecord .ceremony (.lineOpened pair) s) with stream := none }) := by
  refine .of_closed (fun x => by rw [run_finishCeremony]; nofun) ?_ fun ho => ?_
  · exact (portOf_finishCeremony ..).trans (portOf_setLine (s := writeRecord .ceremony (.lineOpened pair) s) .live)
  · have hsetup := ho w₀ hw hp
    simp [withheldTags_eq, line_setLine, hsetup, closeTags]

theorem portKept_completeCeremony {w w₀ : CeremonyWork} (pair : Pair) (hw : s.ceremony.run = .work w₀) (hp : w.params = w₀.params) :
    PortKept s (completeCeremony w pair s) := by
  unfold completeCeremony
  split
  next slot cls length count keySet _ => exact (portKept_installAssembled slot cls length keySet pair w).trans (portKept_finishIdle ..)
  next => exact portKept_approveErase _ hw hp
  next hpar => exact portKept_openLine hw (hp.symm.trans hpar)
  next => exact (portKept_changeCustodian ..).trans (portKept_finishIdle ..)
  next => exact ((portKept_changeCustodian ..).trans (portKept_finishIdle ..)).trans (portKept_endLogonsOf _)
  next => exact (portKept_changeCustodian ..).trans (portKept_finishIdle ..)

theorem params_withAcceptance (p : Person) (w : CeremonyWork) : (w.withAcceptance p).params = w.params := by
  unfold CeremonyWork.withAcceptance
  split <;> rfl

theorem portKept_acceptCeremony (l : ConsoleLink) (p : Person) : PortKept s (acceptCeremony l p s) := by
  unfold acceptCeremony
  split
  next w hw =>
    split
    · exact portKept_answer ..
    · simp only
      split
      · exact (portKept_answer ..).trans (portKept_completeCeremony _ (by simpa using hw) (params_withAcceptance p w))
      · have hset : PortKept (answer l 0x06 .ok .nothing s)
            ((answer l 0x06 .ok .nothing s).setCeremony (.work (w.withAcceptance p))) :=
          .of_run (by simpa using hw) rfl (params_withAcceptance p w) rfl rfl rfl
        exact ((portKept_answer ..).trans hset).trans (portKept_noticeAll _)
  · exact portKept_answer ..

theorem portStep_personHandler {c : Instr} {l : ConsoleLink} {kind : Byte} (h : consoleMessage? c = some (l, kind))
    (hn : needsLogon c = true) (p : Person) : PortStep s (personHandler c p s) := by
  cases ho : opens c with
  | true =>
    obtain ⟨-, -, hopen⟩ := personHandler_of_opens h ho p s
    rw [hopen]
    exact (portKept_openCeremony line_of_openingOf).step
  | false =>
    cases c <;> simp only [consoleMessage?, needsLogon, opens, reduceCtorEq, Bool.false_eq_true, Bool.true_eq_false,
      Option.some.injEq, Prod.mk.injEq] at h hn ho <;> obtain ⟨rfl, rfl⟩ := h <;> simp only [personHandler]
    case accept => exact (portKept_acceptCeremony ..).step
    case zeroise => exact (portKept_answer ..).step.trans (portStep_zeroisePart _)
    case logoff => exact ((portKept_answer ..).trans (portKept_endLogon _)).step
    case component => exact (portKept_giveComponent ..).step
    case reject =>
      unfold rejectCeremony
      (repeat' split) <;> try exact (portKept_answer ..).step
      exact ((portKept_answer ..).trans (portKept_abortCeremony ..)).step
    case cancel =>
      unfold cancelCeremony
      (repeat' split) <;> try exact (portKept_answer ..).step
      exact ((portKept_answer ..).trans (portKept_abortCeremony ..)).step

/-! ### Bench messages -/

theorem portOf_requestReservation (h : ResHolder) : portOf (requestReservation h s).2 = portOf s := by
  rcases Nat.lt_or_ge s.journal.occupancy 511 with hf | hf
  · rw [requestReservation_granted hf]; exact portOf_reserved h
  · rw [requestReservation_refused hf]; exact portOf_setFlag (by decide)

/-- A bench message reaches neither the line, nor an import, nor a ceremony but by ending one. -/
theorem portKept_of_withBench (h : withBench s t = s) (hport : portOf t = portOf s)
    (hrun : ∀ w, t.ceremony.run = .work w → s.ceremony.run = .work w) : PortKept s t := by
  have hline : t.line = s.line := (congrArg State.line h :)
  have hwork : t.importWork = s.importWork := (congrArg State.importWork h :)
  exact ⟨hport, fun _ => by rw [withheldTags_eq, withheldTags_eq, hline, hwork], fun hs w hw hl => hline ▸ hs w (hrun w hw) hl⟩

theorem portKept_setFlag {e : Event} (h : e ≠ .responseReady) : PortKept s (s.setFlag e) :=
  .of_eq (by simp only [bookOf, portOf_setFlag h]; rfl)

theorem portKept_pushBench (p : Port) (m : BenchOut) : PortKept s (pushBench p m s) := .of_eq (by simp [bookOf, portOf_pushBench])

theorem portKept_setRegistry (r : Registry) : PortKept s (s.setRegistry r) := .of_eq rfl
theorem portKept_setStep (p : Port) (x : Option PendingStep) : PortKept s (s.setStep p x) := .of_eq rfl
theorem portKept_setCtx (p : Port) (c : PortContext) : PortKept s (s.setCtx p c) := .of_eq rfl

theorem portOf_verdict (p : Port) (st : Status) : portOf (verdict p st s) = portOf s := portOf_pushBench ..

theorem portOf_helloRefused (p : Port) (st : Status) : portOf (helloRefused p st s) = portOf s := portOf_verdict p st

theorem portOf_bindSession (p : Port) (e : Entry) (r : Recipe) : portOf (bindSession p e r s) = portOf s := by
  unfold bindSession
  simp only
  split
  · exact portOf_helloRefused ..
  · exact portOf_pushBench ..

theorem portOf_helloFound (p : Port) (serial : Serial) (model : ModelCode) : portOf (helloFound p serial model s) = portOf s := by
  have hfind : portOf (findForHello serial model s).2 = portOf s := by
    unfold findForHello
    simp only
    (repeat' split) <;> rfl
  unfold helloFound
  split
  all_goals
    rename_i hr
    rw [hr] at hfind
  case h_1 => exact ((portOf_helloRefused ..).trans (portOf_setFlag (by decide))).trans hfind
  case h_7 =>
    split
    · exact (portOf_helloRefused ..).trans hfind
    · exact (portOf_bindSession ..).trans hfind
  all_goals exact (portOf_helloRefused ..).trans hfind

theorem portKept_hello (p : Port) (serial : Serial) (model : ModelCode) : PortKept s (hello p serial model s) := by
  have hframe := hello_frame (s := s) p serial model
  refine portKept_of_withBench (withBench_of_withHello hframe) ?_ fun w hw =>
    (congrArg (fun x : State => x.ceremony.run) hframe).symm.trans hw
  unfold hello
  split
  · unfold helloTaken
    split
    · split
      · exact portOf_helloFound ..
      · exact portOf_helloRefused ..
    · exact portOf_verdict ..
    · exact portOf_verdict ..
  · exact portOf_verdict ..

theorem admitStep_book {p : Port} {kind : StepType} {source cover : SlotIx} {a : Admission}
    (h : admitStep p kind source cover s = .admitted a t) : bookOf t = bookOf s := by
  have hcover : ∀ {k : HeldKey} {d : Option (Nat × Nat)}, admitCover p source cover k d s = .admitted a t → bookOf t = bookOf s := by
    intro k d h
    unfold admitCover at h
    (repeat' split at h) <;> cases h
    · rfl
    · simp only [allocateCounter, bookOf, portOf_counterEvents]
      simp only [counterEvents_keeps]
      rfl
  unfold admitStep at h
  (repeat' split at h) <;> try cases h
  all_goals exact hcover h

theorem portKept_verdict (p : Port) (st : Status) : PortKept s (verdict p st s) := .of_eq (by simp [bookOf, portOf_verdict])

theorem portKept_startStep (p : Port) (ss : Session) (index : Nat) (st : RecipeStep) (a : Admission) :
    PortKept s (startStep p ss index st a s) := by
  unfold startStep
  exact ((portKept_setStep ..).trans (portKept_setCtx ..)).trans (portKept_requestJob ..)

theorem portKept_fetchStep (p : Port) (index : Nat) : PortKept s (fetchStep p index s) := by
  unfold fetchStep
  split
  · unfold fetchTaken
    (repeat' split) <;> try exact portKept_verdict ..
    unfold admitFetch
    rcases Nat.lt_or_ge s.journal.occupancy 511 with hf | hf
    · rw [requestReservation_granted hf]
      have hres : PortKept s (reserved (.bench p) s) := .of_eq (by simp [bookOf, portOf_reserved])
      simp only
      split
      · have hback : PortKept s (returnReservation (.bench p) (reserved (.bench p) s)) := hres.keep rfl
        exact hback.trans (portKept_verdict ..)
      next ha => exact (hres.keep (admitStep_book ha)).trans (portKept_startStep ..)
    · rw [requestReservation_refused hf]
      exact (portKept_setFlag (by decide)).trans (portKept_verdict ..)
  · exact portKept_verdict ..

theorem portKept_confirm (p : Port) (index : Nat) (kcv : Kcv) : PortKept s (confirm p index kcv s) := by
  unfold confirm
  split
  · split
    · exact portKept_verdict ..
    · split
      · unfold confirmMatch
        simp only
        split
        · exact ((((portKept_setRegistry _).trans (portKept_endStep ..)).trans (portKept_setCtx ..)).trans
            (portKept_setFlag (by decide))).trans (portKept_pushBench ..)
        · exact (((portKept_setRegistry _).trans (portKept_endStep ..)).trans (portKept_setCtx ..)).trans (portKept_pushBench ..)
      · unfold confirmMismatch
        simp only
        split
        · exact ((((portKept_endStep ..).trans (portKept_setRegistry _)).trans (portKept_setCtx ..)).trans
            (portKept_setFlag (by decide))).trans (portKept_pushBench ..)
        · exact (((portKept_endStep ..).trans (portKept_setRegistry _)).trans (portKept_setCtx ..)).trans (portKept_pushBench ..)
  · exact portKept_verdict ..

theorem portKept_bye (p : Port) : PortKept s (bye p s) := by
  unfold bye
  split
  case h_4 => exact portKept_verdict ..
  all_goals exact (portKept_endSession .abandoned p).trans (portKept_verdict ..)

theorem portKept_benchHandler (c : Instr) : PortKept s (benchHandler c s) := by
  cases c
  case hello p serial model => exact portKept_hello p serial model
  case fetch p index => exact portKept_fetchStep p index
  case confirm p index kcv => exact portKept_confirm p index kcv
  case bye p => exact portKept_bye p
  case benchBadMessage p => exact portKept_verdict p .sequence
  all_goals exact .refl s

/-! ### Completions -/

theorem portStep_prepareHandled (j : Job) : PortStep s (prepareHandled j s) := by
  unfold prepareHandled
  split
  · exact .of_eq rfl
  next p _ =>
    split
    · unfold drainComplete
      split
      next reason mark _ =>
        exact ((portKept_voidStep p (fun _ => none) reason).trans (portKept_setCtx ..)).step.trans portStep_closeFinish
      next => exact .of_eq rfl
    · split
      · split
        · exact .of_eq rfl
        · unfold offerStep
          split
          · exact .of_eq rfl
          · exact (((portKept_setStep ..).trans (portKept_setCtx ..)).trans (portKept_pushBench ..)).step
      · exact .of_eq rfl

theorem portKept_settleCeremony : PortKept s (settleCeremony s) :=
  bareMove_settleCeremony.portKept (portOf_of_fields (by simp) (by simp) (by simp) (by simp) (by simp))

theorem portKept_answerWithheld (l : ConsoleLink) (st : Status) (body : AnswerBody) : PortKept s (answerWithheld l st body s) :=
  .of_eq (by simp [bookOf, portOf])

theorem portKept_componentPassed {u : UnderCheck} {count : Nat} {w : CeremonyWork} (hw : s.ceremony.run = .work w) :
    PortKept s (componentPassed u count w s) := by
  have hset : ∀ v w', v.ceremony.run = .work w → w'.params = w.params → PortKept v (v.setCeremony (.work w')) :=
    fun v w' hv hp => .of_run hv rfl hp rfl rfl rfl
  unfold componentPassed
  simp only
  split
  · exact ((portKept_answerWithheld ..).trans (hset _ _ (by simpa using hw) (by rfl))).trans (portKept_noticeAll _)
  · have hjoin : ∀ v r inputs, PortKept v (joinPending r inputs v) := fun _ _ _ => .of_eq rfl
    exact (((portKept_answerWithheld ..).trans (hset _ _ (by simpa using hw) (by rfl))).trans (hjoin ..)).trans (portKept_noticeAll _)

theorem portKept_checkComponentHandled (j : Job) : PortKept s (checkComponentHandled j s) := by
  unfold checkComponentHandled
  split
  · exact portKept_settleCeremony
  · split
    next w hw =>
      (repeat' split) <;> try exact .refl s
      · exact portKept_componentPassed hw
      · exact (portKept_answerWithheld ..).trans (portKept_badEntry (w₀ := w) (by simpa using hw) rfl)
    next => exact .refl s

theorem portKept_combineHandled (j : Job) : PortKept s (combineHandled j s) := by
  unfold combineHandled
  split
  · exact portKept_settleCeremony
  · split
    next w hw =>
      (repeat' split) <;> try exact .refl s
      refine PortKept.trans ?_ (portKept_noticeAll _)
      exact .of_run hw rfl rfl rfl rfl rfl
    next => exact .refl s

/-- The import that ends is answered (R70-R72). -/
theorem portStep_endImport {w : ImportWork} {kind : Byte} {st : Status} {body : ResponseBody} {u : State}
    (hw : s.importWork = some w) (hu : bookOf u = bookOf s) :
    PortStep s (respond w.tag kind st false body (endImport w u)) := by
  have hlower : PortKept s (lowerInUse w.transport u) :=
    ((bareMove_lowerInUse w.transport).portKept (portOf_lowerInUse _)).after hu
  have hmove : PortMove [w.tag] s (respond w.tag kind st false body (endImport w u)) := .answered hlower.port
  refine ⟨fun hs => ?_, hmove.ready⟩
  obtain ⟨howed, ho⟩ := portBooked_iff.1 hs
  have hline : (lowerInUse w.transport u).line = s.line := (bareMove_lowerInUse w.transport).line.trans (congrArg (fun x => x.2.1) hu)
  refine portBooked_iff.2 ⟨hmove.owed _ (howed.perm ?_), hlower.openLine ho⟩
  rw [withheldTags_eq, withheldTags_eq, hw]
  exact List.Perm.of_eq (congrArg (fun l => w.tag :: closeTags l) hline.symm)

theorem portStep_unwrapHandled (j : Job) : PortStep s (unwrapHandled j s) := by
  unfold unwrapHandled
  split
  · exact .of_eq rfl
  next w hw =>
    split
    · exact portStep_endImport hw (by simp [bookOf, portOf])
    · exact portStep_endImport hw (by simp [bookOf, portOf])

theorem portStep_completion {fits : JobInputs → Bool} {handle : Job → State → State} (h : Completes fits handle) (j : Job) :
    PortStep s (handle j s) := by
  cases h with
  | prepareShared | prepareDerived => exact portStep_prepareHandled j
  | checkComponent => exact (portKept_checkComponentHandled j).step
  | combine => exact (portKept_combineHandled j).step
  | unwrap => exact portStep_unwrapHandled j

/-! ### Expiries, levels, steps -/

theorem portKept_expiry {expire : State → State} (h : Expiry expire) : PortKept s (expire s) := by
  cases h with
  | custodianIdle l =>
    unfold custodianIdleExpired
    split
    · exact portKept_endLogon l
    · exact .refl s
  | window =>
    unfold windowExpired
    split
    · split
      · exact portKept_abortCeremony ..
      · exact .refl s
    · exact .refl s
  | sessionIdle p =>
    unfold sessionIdleExpired
    split
    · exact portKept_endSession ..
    · exact .refl s
  | entryAged i =>
    unfold entryAged
    split <;> exact .of_eq rfl

theorem portStep_level {change : State → State} (h : LevelChange change) : PortStep s (change s) := by
  cases h with
  | consoleArrives l => exact .of_eq rfl
  | consoleLeaves l =>
    unfold consoleLeaves
    simp only
    split
    · exact .of_eq rfl
    · split
      · exact .of_eq rfl
      · exact ((portKept_endLogon l).after (by rfl)).step
  | terminalArrives p =>
    unfold terminalArrives
    simp only
    (repeat' split) <;> exact .of_eq rfl
  | terminalLeaves p =>
    unfold terminalLeaves contextDetached
    simp only
    split
    · exact .of_eq rfl
    · split
      · exact .of_eq rfl
      · split
        case h_4 => exact ((portKept_endSession .detached p).after (by rfl)).step
        all_goals exact .of_eq rfl
  | coverOpens =>
    unfold coverOpens
    split
    · exact .of_eq rfl
    · simp only
      split
      · exact (portStep_zeroisePart _).after rfl
      · refine .of_eq ?_
        unfold setLatch
        split <;> rfl
  | coverCloses => exact .of_eq rfl
  | powerArrives =>
    unfold powerArrives
    split
    · exact .of_eq rfl
    · simp only
      split
      · exact .of_eq rfl
      · exact portStep_resetPart _
  | powerLeaves =>
    unfold powerLeaves
    split
    · exact .of_eq rfl
    · simp only
      split <;> exact .of_eq rfl
  | batteryLeaves =>
    unfold batteryLeaves
    simp only
    split <;> exact .of_eq rfl
  | pinAsserted => exact .of_eq rfl
  | pinReleased =>
    unfold pinReleased
    split
    · exact .of_eq rfl
    · simp only
      split
      · exact .of_eq rfl
      · exact portStep_resetPart _

/-- An error count stops at 255 (R196). -/
theorem saturating255_le {n : Nat} (h : n ≤ 255) : saturating255 n ≤ 255 := by
  unfold saturating255
  split <;> omega

theorem portStep_frameError : PortStep s (frameErrorEvent s) where
  booked hs := ⟨hs.bound, hs.tags, hs.queued, hs.withheld, hs.openLine⟩
  ready hs := by
    obtain ⟨hr, hf, hv⟩ := hs
    refine ⟨?_, saturating255_le hf, hv⟩
    rw [frameErrorEvent, getLsbD_setFlag]
    simpa [State.setFlag] using hr

theorem portStep_overrun : PortStep s (overrunEvent s) where
  booked hs := ⟨hs.bound, hs.tags, hs.queued, hs.withheld, hs.openLine⟩
  ready hs := by
    obtain ⟨hr, hf, hv⟩ := hs
    refine ⟨?_, hf, saturating255_le hv⟩
    rw [overrunEvent, getLsbD_setFlag]
    simpa [State.setFlag] using hr

theorem queuedTags_filter (tag : Byte) (l : List Outstanding) :
    queuedTags (l.filter fun o => o.tag != tag) = (queuedTags l).filter fun x => x != tag := by
  simp [queuedTags, List.filter_filter, List.filter_map, Function.comp_def, Bool.and_comm]

theorem owedTags_filter (tag : Byte) (l : List Outstanding) :
    owedTags (l.filter fun o => o.tag != tag) = (owedTags l).filter fun x => x != tag := by
  simp [owedTags, List.filter_filter, List.filter_map, Function.comp_def, Bool.and_comm]

theorem queuedTags_nodup {l : List Outstanding} (h : (l.map Outstanding.tag).Nodup) : (queuedTags l).Nodup :=
  h.sublist (List.filter_sublist.map _)

/-- A tag is not queued and withheld at once. -/
theorem not_owed_of_queued {l : List Outstanding} {tag : Byte} (h : (l.map Outstanding.tag).Nodup) (hq : tag ∈ queuedTags l) :
    tag ∉ owedTags l := fun hw => by
  obtain ⟨o, ho, rfl⟩ := List.mem_map.1 hq
  obtain ⟨o', ho', he⟩ := List.mem_map.1 hw
  obtain ⟨hmem, hqueued⟩ := List.mem_filter.1 ho
  obtain ⟨hmem', hout⟩ := List.mem_filter.1 ho'
  cases List.inj_on_of_nodup_map h hmem' hmem he
  simp [hqueued] at hout

theorem filter_ne_of_notMem {tag : Byte} {l : List Byte} (h : tag ∉ l) : l.filter (fun x => x != tag) = l :=
  List.filter_eq_self.2 fun _ hx => bne_iff_ne.2 fun he => h (he ▸ hx)

/-- The response fetched whole takes its request's record along (R198). -/
theorem Owed.fetched {ts : List Byte} {r : Response} {rest : List Response} (h : Owed ts s) (hr : s.responses = r :: rest)
    (hout : t.outstanding = s.outstanding.filter fun o => o.tag != r.tag) (hresp : t.responses = rest) : Owed ts t := by
  have hqueued : (queuedTags s.outstanding).Perm (r.tag :: rest.map Response.tag) := by simpa [hr] using h.queued
  have hmem : r.tag ∈ queuedTags s.outstanding := hqueued.mem_iff.2 (List.mem_cons_self ..)
  have hfresh : r.tag ∉ rest.map Response.tag := (List.nodup_cons.1 (hqueued.nodup_iff.1 (queuedTags_nodup h.tags))).1
  refine ⟨?_, ?_, ?_, ?_⟩
  · rw [hout]; exact (List.length_filter_le ..).trans h.bound
  · rw [hout]; exact h.tags.sublist (List.filter_sublist.map _)
  · rw [hout, hresp, queuedTags_filter]
    refine (hqueued.filter _).trans ?_
    rw [List.filter_cons_of_neg (by simp), filter_ne_of_notMem hfresh]
  · rw [hout, owedTags_filter, filter_ne_of_notMem (not_owed_of_queued h.tags hmem)]
    exact h.withheld

theorem readyFollowsQueue_eq (s : State) :
    (readyFollowsQueue s).outstanding = s.outstanding ∧ (readyFollowsQueue s).responses = s.responses
      ∧ (readyFollowsQueue s).frameErrors = s.frameErrors ∧ (readyFollowsQueue s).overruns = s.overruns
      ∧ (readyFollowsQueue s).line = s.line ∧ (readyFollowsQueue s).ceremony = s.ceremony
      ∧ (readyFollowsQueue s).importWork = s.importWork := by
  unfold readyFollowsQueue
  split <;> exact ⟨rfl, rfl, rfl, rfl, rfl, rfl, rfl⟩

/-- RESPONSE_READY is cleared when the queue has become empty (R198). -/
theorem ready_readyFollowsQueue (h : s.flags.getLsbD 0 = true) : (readyFollowsQueue s).flags.getLsbD 0 = !s.responses.isEmpty := by
  unfold readyFollowsQueue
  split
  next he => simp [he, State.clearFlag, Event.only, Event.index]
  next he => simp [he, h]

theorem portStep_fetch (clocks : Nat) : PortStep s (responseFetch clocks s) := by
  unfold responseFetch
  split
  · exact .of_eq rfl
  · split
    · exact .of_eq rfl
    next r rest hr =>
      simp only
      split
      · exact .of_eq rfl
      · obtain ⟨hout, hresp, hframe, hover, hline, hceremony, hwork⟩ := readyFollowsQueue_eq
          { s with shiftedOut := shiftOut clocks r.frame, responses := rest, outstanding := s.outstanding.filter fun o => o.tag != r.tag }
        refine ⟨fun hs => ?_, fun hs => ?_⟩
        · obtain ⟨howed, ho⟩ := portBooked_iff.1 hs
          refine portBooked_iff.2 ⟨?_, fun w hw hl => ?_⟩
          · rw [withheldTags_eq, hline, hwork, ← withheldTags_eq]
            exact howed.fetched hr hout hresp
          · rw [hline]
            exact ho w (by simpa [hceremony] using hw) hl
        · obtain ⟨hready, hf, hv⟩ := hs
          refine ⟨?_, by rw [hframe]; exact hf, by rw [hover]; exact hv⟩
          rw [hresp]
          exact ready_readyFollowsQueue (hready.trans (by rw [hr]; rfl))

/-- What one command does to the control port. -/
theorem portStep_happens (h : Happens s t) : PortStep s t := by
  cases h with
  | nothing => exact .of_eq rfl
  | frameError => exact portStep_frameError.after rfl
  | overrun => exact portStep_overrun.after rfl
  | fetch clocks => exact portStep_fetch clocks
  | request hr ha => exact portStep_requestHandler hr ha
  | unreadable tag kind n ha => exact portStep_request (r := ⟨tag, kind, n⟩) ha (portMove_refuse ..) (.refl _) id
  | receiver k r => cases k <;> exact .of_eq rfl
  | busy | notLoggedOn => exact .of_eq rfl
  | @console c l kind hc hn => exact .of_eq (congrArg bookOf (consoleHandler_frame hc hn (heard l s)) :)
  | person hc hn => exact (portStep_personHandler hc hn _).after rfl
  | @unknownOpen l who =>
    have hopen : PortKept (heard l s) (openCeremony l (personOf who s) (.refused .wrongState) (heard l s)) := portKept_openCeremony nofun
    exact hopen.step.after rfl
  | bench => exact (portKept_benchHandler _).step.after rfl
  | sent k =>
    refine .of_eq ?_
    cases k <;> (unfold transmitDone; simp only; split <;> rfl)
  | level hl => exact portStep_level hl
  | expiry he => exact (portKept_expiry he).step
  | @completion fits handle j hc =>
    have hstep : PortStep s (handle j (jobTaken s)) := (portStep_completion hc j).after (by rfl)
    exact hstep.keep (by simp [bookOf, portOf])

theorem portStep_tick : PortStep s (tick s) := by
  unfold tick
  split
  · exact .of_eq rfl
  · refine ⟨fun hs => ⟨hs.bound, hs.tags, hs.queued, hs.withheld, fun w hw hl => ?_⟩, fun hs => hs⟩
    have hrun : s.ceremony.run.counted = .work w := hw
    cases hc : s.ceremony.run with
    | work x =>
      rw [hc] at hrun
      cases hrun
      exact hs.openLine x hc hl
    | idle => rw [hc] at hrun; cases hrun
    | settling k o => rw [hc] at hrun; cases hrun

theorem portStep_step (h : step s = .next t) : PortStep s t := by
  rcases happens_of_step h with rfl | ⟨c, rest, -, hc⟩
  · exact portStep_tick
  · exact (portStep_happens hc).after rfl

end

end Sys2Proof.Machine

open Sys2Proof Sys2Proof.Machine Sys2Proof.Safety

/-- Settles O53: an accepted request is owed an answer, and each event pays what it stops owing. -/
theorem stepKeepsPortBooked : Obligations.StepKeepsPortBooked := fun _ _ hs h =>
  ⟨(portStep_step h).booked hs, (portStep_step h).ready⟩

end

section
/-! The journal's reservations and the work they are held for (R181), as books: what the journal, the steps in flight, the ceremony,
the import and the slots' contents say to each other, and how the transactions of the part keep them in order. -/

namespace Sys2Proof.Machine
open Sys2Proof.Safety

/-! ### The journal -/

/-- A record written against a reservation (R183). -/
def Journal.wrote (h : ResHolder) (body : RecordBody) (j : Journal) : Journal :=
  ({ j with reservations := j.reservations.erase h }).append body

/-- A reservation returned unused (R184). -/
def Journal.returned (h : ResHolder) (j : Journal) : Journal := { j with reservations := j.reservations.erase h }

/-- A reservation granted (R182). -/
def Journal.granted (h : ResHolder) (j : Journal) : Journal := { j with reservations := j.reservations ++ [h] }

/-- The journal is in order, and these hold its reservations. -/
structure Journal.Sound (holds : ResHolder → Prop) (j : Journal) : Prop where
  nodup : j.reservations.Nodup
  held : ∀ h, h ∈ j.reservations ↔ holds h
  bound : j.occupancy ≤ 511
  tamper : (j.records.filter Record.isTamper).length ≤ 1

theorem occupancy_append {j : Journal} {body : RecordBody} (hb : body.isTamper = false) :
    (j.append body).occupancy = j.occupancy + 1 := by
  simp [Journal.occupancy, Journal.plainRecords, Journal.append, Record.isTamper, hb]
  omega

section
variable {j : Journal} {P Q : ResHolder → Prop} {h : ResHolder} {body : RecordBody}

theorem Journal.Sound.congr (hj : j.Sound P) (hpq : ∀ k, P k ↔ Q k) : j.Sound Q :=
  ⟨hj.nodup, fun k => (hj.held k).trans (hpq k), hj.bound, hj.tamper⟩

theorem Journal.Sound.returned (hj : j.Sound P) (hq : ∀ k, Q k ↔ P k ∧ k ≠ h) : (j.returned h).Sound Q where
  nodup := hj.nodup.erase h
  held k := by
    rw [hq, ← hj.held, Journal.returned, hj.nodup.mem_erase_iff]
    exact And.comm
  bound := by
    have hlen : (j.reservations.erase h).length ≤ j.reservations.length := List.length_erase_le
    have hb := hj.bound
    simp only [Journal.occupancy, Journal.returned, Journal.plainRecords] at hb ⊢
    omega
  tamper := hj.tamper

theorem occupancy_returned (hm : h ∈ j.reservations) : (j.returned h).occupancy + 1 = j.occupancy := by
  have hlen := List.length_erase_of_mem hm
  have hpos := List.length_pos_of_mem hm
  simp only [Journal.occupancy, Journal.returned, Journal.plainRecords, hlen]
  omega

theorem Journal.Sound.wrote (hj : j.Sound P) (hp : P h) (hb : body.isTamper = false) (hq : ∀ k, Q k ↔ P k ∧ k ≠ h) :
    (j.wrote h body).Sound Q := by
  have hret := hj.returned hq
  refine ⟨hret.nodup, hret.held, ?_, ?_⟩
  · have hocc := occupancy_returned ((hj.held h).2 hp)
    have happ : (j.wrote h body).occupancy = (j.returned h).occupancy + 1 := occupancy_append hb
    have := hj.bound
    omega
  · have hsame : (j.wrote h body).records.filter Record.isTamper = j.records.filter Record.isTamper := by
      simp [Journal.wrote, Journal.append, Record.isTamper, hb]
    rw [hsame]
    exact hj.tamper

theorem Journal.Sound.granted (hj : j.Sound P) (hp : ¬P h) (hfree : j.occupancy < 511) (hq : ∀ k, Q k ↔ P k ∨ k = h) :
    (j.granted h).Sound Q where
  nodup := List.nodup_append.2 ⟨hj.nodup, List.nodup_singleton h, fun a ha b hb he =>
    hp ((hj.held h).1 (List.mem_singleton.1 hb ▸ he ▸ ha))⟩
  held k := by simp [Journal.granted, hq, hj.held]
  bound := by
    simp only [Journal.occupancy, Journal.granted, Journal.plainRecords, List.length_append, List.length_singleton] at hfree ⊢
    omega
  tamper := hj.tamper

/-- Records released (R180). -/
theorem Journal.Sound.released (hj : j.Sound P) (n : Nat) : ({ j with records := j.records.drop n } : Journal).Sound P where
  nodup := hj.nodup
  held := hj.held
  bound := by
    have hlen : ((j.records.drop n).filter fun r => !r.isTamper).length ≤ (j.records.filter fun r => !r.isTamper).length :=
      ((List.drop_sublist n j.records).filter _).length_le
    have hb := hj.bound
    simp only [Journal.occupancy, Journal.plainRecords] at hb ⊢
    omega
  tamper := ((List.drop_sublist n j.records).filter _).length_le.trans hj.tamper

theorem isTamper_countTamper (r : Record) : r.countTamper.isTamper = r.isTamper := by
  unfold Record.countTamper
  split
  next hr => simp [Record.isTamper, hr, RecordBody.isTamper]
  next => rfl

/-- A zeroise reaches the journal (R186). -/
theorem Journal.Sound.tampered (hj : j.Sound P) (cause : TamperCause) : (j.tamper cause).Sound P := by
  have hcount : ∀ p : Record → Bool, (∀ r : Record, p r.countTamper = p r) →
      ((j.records.map Record.countTamper).filter p).length = (j.records.filter p).length := fun p hp => by
    rw [List.filter_map, List.length_map]
    exact congrArg (fun q => (j.records.filter q).length) (funext hp)
  unfold Journal.tamper
  split
  · refine ⟨hj.nodup, hj.held, ?_, ?_⟩
    · have := hj.bound
      simp only [Journal.occupancy, Journal.plainRecords] at this ⊢
      rwa [hcount _ fun r => by rw [isTamper_countTamper]]
    · exact (hcount _ isTamper_countTamper).trans_le hj.tamper
  next hnone =>
    have hempty : j.records.filter Record.isTamper = [] := by
      rw [List.filter_eq_nil_iff]
      simpa using hnone
    refine ⟨hj.nodup, hj.held, ?_, ?_⟩
    · have := hj.bound
      simpa [Journal.occupancy, Journal.plainRecords, Journal.append, Record.isTamper, RecordBody.isTamper] using this
    · simp [Journal.append, hempty]
      exact (List.length_filter_le ..)

end

/-! ### The books -/

/-- What the reservations are held for, and what that work rests on. -/
structure Books where
  journal : Journal
  steps : Port → Bool
  run : CeremonyRun
  work : Option ImportWork
  content : SlotIx → SlotContent

/-- The books of a state. -/
def booksOf (s : State) : Books where
  journal := s.journal
  steps p := (s.step p).isSome
  run := s.ceremony.run
  work := s.importWork
  content i := (s.slot i).content

/-- The work a reservation is held for is in flight (R181). -/
def Books.Holds (b : Books) : ResHolder → Prop
  | .bench p => b.steps p = true
  | .ceremony => ∃ w, b.run = .work w
  | .importUnit => b.work.isSome = true
  | .counterAdvance => False

/-- The books are in order. -/
structure Books.Sound (b : Books) : Prop where
  journal : b.journal.Sound b.Holds
  assemble : ∀ w slot cls length count keySet, b.run = .work w → w.params = .assemble slot cls length count keySet →
    b.content slot = .assembling .ceremony ∧ (newKeyUse cls keySet).isSome = true ∧ (w.phase = .verifying → w.combined.isSome = true)
  erase : ∀ w slot, b.run = .work w → w.params = .erase slot → (b.content slot).key?.isSome = true
  drained : ∀ w, b.run = .work w → w.phase = .draining → w.approvers.isSome = true ∧ w.window = none
  erasing : ∀ i k, b.content i = .erasing k → ∃ w, b.run = .work w ∧ w.params = .erase i ∧ w.phase = .draining
  target : ∀ w, b.work = some w → w.zeroised = false → b.content w.target = .assembling .importUnit

namespace Books

variable {b : Books}

/-- With the books in order no ceremony is open, or the one open is not DRAINING: then no slot is ERASING. -/
theorem Sound.not_erasing (h : b.Sound) (hd : ∀ w, b.run = .work w → w.phase ≠ .draining) (i : SlotIx) (k : HeldKey) :
    b.content i ≠ .erasing k := fun hk => by
  obtain ⟨w, hw, -, hph⟩ := h.erasing i k hk
  exact hd w hw hph

/-- A step in flight ends with its record (R162). -/
theorem Sound.endStep (h : b.Sound) {p : Port} {body : RecordBody} (hp : b.steps p = true) (hb : body.isTamper = false) :
    Sound { b with journal := b.journal.wrote (.bench p) body, steps := Function.update b.steps p false } where
  journal := by
    refine h.journal.wrote hp hb fun k => ?_
    cases k with
    | bench q =>
      by_cases hq : q = p
      · simp [Holds, hq]
      · simp [Holds, hq]
    | ceremony | importUnit | counterAdvance => simp [Holds]
  assemble := h.assemble
  erase := h.erase
  drained := h.drained
  erasing := h.erasing
  target := h.target

/-- A ceremony ends with its record, and nothing rests on it any more (R53). -/
theorem Sound.complete (h : b.Sound) {w : CeremonyWork} {body : RecordBody} (hw : b.run = .work w) (hb : body.isTamper = false)
    (hd : ∀ i k, b.content i ≠ .erasing k) : Sound { b with journal := b.journal.wrote .ceremony body, run := .idle } where
  journal := by
    refine h.journal.wrote (show b.Holds .ceremony from ⟨w, hw⟩) hb fun k => ?_
    cases k <;> simp [Holds]
  assemble _ _ _ _ _ _ := nofun
  erase _ _ := nofun
  drained _ := nofun
  erasing i k hk := absurd hk (hd i k)
  target := h.target

/-- A ceremony ends without a record (R58). -/
theorem Sound.abort (h : b.Sound) {run : CeremonyRun} (hr : ∀ w, run ≠ .work w) (hd : ∀ i k, b.content i ≠ .erasing k) :
    Sound { b with journal := b.journal.returned .ceremony, run := run } where
  journal := by
    refine h.journal.returned fun k => ?_
    cases k <;> simp [Holds, hr]
  assemble w _ _ _ _ _ hw := absurd hw (hr w)
  erase w _ hw := absurd hw (hr w)
  drained w hw := absurd hw (hr w)
  erasing i k hk := absurd hk (hd i k)
  target := h.target

/-- A slot that a ceremony has named is emptied, with the ceremony's end: the key erased, or the target given back or filled. -/
theorem Sound.setContent (h : b.Sound) {i : SlotIx} {c : SlotContent} (hc : ∀ k, c ≠ .erasing k)
    (hrun : ∀ w, b.run ≠ .work w) (hi : b.content i ≠ .assembling .importUnit) :
    Sound { b with content := Function.update b.content i c } where
  journal := h.journal
  assemble w _ _ _ _ _ hw := absurd hw (hrun w)
  erase w _ hw := absurd hw (hrun w)
  drained := h.drained
  erasing j k hk := by
    dsimp only at hk
    by_cases hj : j = i
    · subst hj
      rw [Function.update_self] at hk
      exact absurd hk (hc k)
    · rw [Function.update_of_ne hj] at hk
      exact h.erasing j k hk
  target w hw hz := by
    have ht := h.target w hw hz
    by_cases hj : w.target = i
    · exact absurd (hj ▸ ht) hi
    · simp only
      rwa [Function.update_of_ne hj]

/-- An erasure completes, and with it the ceremony that names the slot (R17, R54). -/
theorem Sound.erased (h : b.Sound) {w : CeremonyWork} {i : SlotIx} {body : RecordBody} (hw : b.run = .work w) (hp : w.params = .erase i)
    (hb : body.isTamper = false) :
    Sound { b with journal := b.journal.wrote .ceremony body, run := .idle, content := Function.update b.content i .empty } where
  journal := by
    refine h.journal.wrote (show b.Holds .ceremony from ⟨w, hw⟩) hb fun k => ?_
    cases k <;> simp [Holds]
  assemble _ _ _ _ _ _ := nofun
  erase _ _ := nofun
  drained _ := nofun
  erasing j k hk := by
    dsimp only at hk
    by_cases hj : j = i
    · rw [hj, Function.update_self] at hk
      cases hk
    · rw [Function.update_of_ne hj] at hk
      obtain ⟨x, hx, hpx, -⟩ := h.erasing j k hk
      cases hw.symm.trans hx
      exact absurd (CeremonyParams.erase.inj (hpx.symm.trans hp)) hj
  target x hx hz := by
    have ht := h.target x hx hz
    have hne : x.target ≠ i := fun hi => by
      have hkey := h.erase w i hw hp
      rw [← hi, ht] at hkey
      cases hkey
    simp only
    rwa [Function.update_of_ne hne]

/-- A key changes in a slot that keeps one (R10, R20). -/
theorem Sound.rekey (h : b.Sound) {i : SlotIx} {c : SlotContent} (hc : ∀ k, c ≠ .erasing k) (hkey : c.key?.isSome = true)
    (hi : (b.content i).key?.isSome = true) (hd : ∀ k, b.content i ≠ .erasing k) :
    Sound { b with content := Function.update b.content i c } where
  journal := h.journal
  assemble w slot cls length count keySet hw hp := by
    obtain ⟨ha, hu, hv⟩ := h.assemble w slot cls length count keySet hw hp
    by_cases hj : slot = i
    · rw [← hj, ha] at hi
      cases hi
    · exact ⟨by simp only; rwa [Function.update_of_ne hj], hu, hv⟩
  erase w slot hw hp := by
    by_cases hj : slot = i
    · simp only
      rwa [hj, Function.update_self]
    · simp only
      rw [Function.update_of_ne hj]
      exact h.erase w slot hw hp
  drained := h.drained
  erasing j k hk := by
    dsimp only at hk
    by_cases hj : j = i
    · subst hj
      rw [Function.update_self] at hk
      exact absurd hk (hc k)
    · rw [Function.update_of_ne hj] at hk
      exact h.erasing j k hk
  target w hw hz := by
    have ht := h.target w hw hz
    by_cases hj : w.target = i
    · rw [← hj, ht] at hi
      cases hi
    · simp only
      rwa [Function.update_of_ne hj]

/-- A ceremony opens that names no slot but a target just reserved or a key held (R42). -/
theorem Sound.opened (h : b.Sound) {w : CeremonyWork} (hr : ∀ x, b.run ≠ .work x) (hf : b.journal.occupancy < 511)
    (hph : w.phase = .gathering)
    (ha : ∀ slot cls length count keySet, w.params = .assemble slot cls length count keySet →
      b.content slot = .assembling .ceremony ∧ (newKeyUse cls keySet).isSome = true)
    (he : ∀ slot, w.params = .erase slot → (b.content slot).key?.isSome = true) :
    Sound { b with journal := b.journal.granted .ceremony, run := .work w } where
  journal := by
    refine h.journal.granted (fun ⟨x, hx⟩ => hr x hx) hf fun k => ?_
    cases k <;> simp [Holds, hr]
  assemble x slot cls length count keySet hx hp := by
    cases hx
    obtain ⟨hc, hu⟩ := ha slot cls length count keySet hp
    exact ⟨hc, hu, fun hv => absurd (hph.symm.trans hv) nofun⟩
  erase x slot hx hp := by
    cases hx
    exact he slot hp
  drained x hx hd := by
    cases hx
    exact absurd (hph.symm.trans hd) nofun
  erasing i k hk := by
    obtain ⟨x, hx, -⟩ := h.erasing i k hk
    exact absurd hx (hr x)
  target := h.target

/-- With the params of a ceremony that erases nothing, no slot is ERASING. -/
theorem Sound.not_erasing_of_params (h : b.Sound) {w : CeremonyWork} (hw : b.run = .work w) (hp : ∀ i, w.params ≠ .erase i) (i : SlotIx)
    (k : HeldKey) : b.content i ≠ .erasing k := fun hk => by
  obtain ⟨x, hx, hpx, -⟩ := h.erasing i k hk
  cases hw.symm.trans hx
  exact hp i hpx

/-- The context of an open ceremony changes, its parameters do not. -/
theorem Sound.proceed (h : b.Sound) {w w' : CeremonyWork} (hw : b.run = .work w) (hp : w'.params = w.params)
    (hd : (w.phase = .draining → w'.phase = .draining) ∨ ∀ i, w.params ≠ .erase i)
    (hd' : w'.phase = .draining → w.phase = .draining ∧ w'.approvers = w.approvers ∧ (w.window = none → w'.window = none))
    (hv : w'.phase = .verifying → w'.combined.isSome = true ∨ w.phase = .verifying ∧ w'.combined = w.combined) :
    Sound { b with run := .work w' } where
  journal := h.journal.congr fun k => by cases k <;> simp [Holds, hw]
  assemble x slot cls length count keySet hx hpx := by
    cases hx
    obtain ⟨ha, hu, hver⟩ := h.assemble w slot cls length count keySet hw (hp.symm.trans hpx)
    refine ⟨ha, hu, fun hph => ?_⟩
    rcases hv hph with hc | ⟨hph', hc⟩
    · exact hc
    · rw [hc]; exact hver hph'
  erase x slot hx hpx := by
    cases hx
    exact h.erase w slot hw (hp.symm.trans hpx)
  drained x hx hdx := by
    cases hx
    obtain ⟨hph, happ, hwin⟩ := hd' hdx
    obtain ⟨ha, hn⟩ := h.drained w hw hph
    exact ⟨by rw [happ]; exact ha, hwin hn⟩
  erasing i k hk := by
    rcases hd with hd | hd
    · obtain ⟨x, hx, hpx, hph⟩ := h.erasing i k hk
      cases hw.symm.trans hx
      exact ⟨w', rfl, hp.trans hpx, hd hph⟩
    · exact absurd hk (h.not_erasing_of_params hw hd i k)
  target := h.target

/-- An ERASE is approved while the slot is in use: the slot is ERASING and the ceremony DRAINING (R16, R54). -/
theorem Sound.drain (h : b.Sound) {w w' : CeremonyWork} {i : SlotIx} {key : HeldKey} (hw : b.run = .work w) (hd : w.phase ≠ .draining)
    (hp : w.params = .erase i) (hp' : w'.params = .erase i) (hph : w'.phase = .draining) (ha : w'.approvers.isSome = true)
    (hwin : w'.window = none) : Sound { b with run := .work w', content := Function.update b.content i (.erasing key) } where
  journal := h.journal.congr fun k => by cases k <;> simp [Holds, hw]
  assemble x slot cls length count keySet hx hpx := by
    cases hx
    exact absurd (hp'.symm.trans hpx) nofun
  erase x slot hx hpx := by
    cases hx
    obtain rfl : i = slot := CeremonyParams.erase.inj (hp'.symm.trans hpx)
    simp only [Function.update_self]
    rfl
  drained x hx _ := by
    cases hx
    exact ⟨ha, hwin⟩
  erasing j k hk := by
    dsimp only at hk
    by_cases hj : j = i
    · exact ⟨w', rfl, hj ▸ hp', hph⟩
    · rw [Function.update_of_ne hj] at hk
      exact absurd hk (h.not_erasing (fun x hx => by cases hw.symm.trans hx; exact hd) j k)
  target x hx hz := by
    have ht := h.target x hx hz
    have hne : x.target ≠ i := fun hi => by
      have hkey := h.erase w i hw hp
      rw [← hi, ht] at hkey
      cases hkey
    simp only
    rwa [Function.update_of_ne hne]

/-- A step is admitted (R159, R160). -/
theorem Sound.beginStep (h : b.Sound) {p : Port} (hp : b.steps p = false) (hf : b.journal.occupancy < 511) :
    Sound { b with journal := b.journal.granted (.bench p), steps := Function.update b.steps p true } where
  journal := by
    refine h.journal.granted (show ¬b.Holds (.bench p) by simp [Holds, hp]) hf fun k => ?_
    cases k with
    | bench q =>
      by_cases hq : q = p
      · simp [Holds, hq]
      · simp [Holds, hq]
    | ceremony | importUnit | counterAdvance => simp [Holds]
  assemble := h.assemble
  erase := h.erase
  drained := h.drained
  erasing := h.erasing
  target := h.target

/-- An import begins with its target reserved (R67). -/
theorem Sound.beginImport (h : b.Sound) {w : ImportWork} (hn : b.work = none) (hf : b.journal.occupancy < 511)
    (hc : b.content w.target = .empty) :
    Sound { b with journal := b.journal.granted .importUnit, work := some w, content := Function.update b.content w.target (.assembling .importUnit) } where
  journal := by
    refine h.journal.granted (show ¬b.Holds .importUnit by simp [Holds, hn]) hf fun k => ?_
    cases k <;> simp [Holds, hn]
  assemble x slot cls length count keySet hx hp := by
    obtain ⟨ha, hu⟩ := h.assemble x slot cls length count keySet hx hp
    have hne : slot ≠ w.target := fun he => by rw [he, hc] at ha; cases ha
    exact ⟨by simp only; rwa [Function.update_of_ne hne], hu⟩
  erase x slot hx hp := by
    have hk := h.erase x slot hx hp
    have hne : slot ≠ w.target := fun he => by rw [he, hc] at hk; cases hk
    simp only
    rwa [Function.update_of_ne hne]
  drained := h.drained
  erasing j k hk := by
    dsimp only at hk
    by_cases hj : j = w.target
    · rw [hj, Function.update_self] at hk
      cases hk
    · rw [Function.update_of_ne hj] at hk
      exact h.erasing j k hk
  target x hx _ := by
    cases hx
    exact Function.update_self ..

/-- An import ends with its target given back or filled, its reservation returned or used (R70, R71). -/
theorem Sound.endImport (h : b.Sound) {j : Journal} {c : SlotIx → SlotContent} (hj : j.Sound { b with work := none }.Holds)
    (hc : ∀ i, c i = b.content i ∨ b.content i = .assembling .importUnit ∧ ∀ k, c i ≠ .erasing k) :
    Sound { b with journal := j, work := none, content := c } where
  journal := hj
  assemble x slot cls length count keySet hx hp := by
    obtain ⟨ha, hu⟩ := h.assemble x slot cls length count keySet hx hp
    rcases hc slot with hs | ⟨hs, -⟩
    · exact ⟨hs.trans ha, hu⟩
    · exact absurd (ha.symm.trans hs) (by simp)
  erase x slot hx hp := by
    have hk := h.erase x slot hx hp
    rcases hc slot with hs | ⟨hs, -⟩
    · simp only
      rw [hs]
      exact hk
    · rw [hs] at hk
      cases hk
  drained := h.drained
  erasing i k hk := by
    rcases hc i with hs | ⟨-, hs⟩
    · exact h.erasing i k (hs.symm.trans hk)
    · exact absurd hk (hs k)
  target _ := nofun

/-- With no ceremony open, no key held and no import that goes on, only the journal is left to keep (R103). -/
theorem Sound.of_bare (hj : b.journal.Sound b.Holds) (hr : ∀ w, b.run ≠ .work w) (hc : ∀ i, b.content i = .empty)
    (hw : ∀ w, b.work = some w → w.zeroised = true) : b.Sound where
  journal := hj
  assemble w _ _ _ _ _ h := absurd h (hr w)
  erase w _ h := absurd h (hr w)
  drained w h := absurd h (hr w)
  erasing i _ h := absurd ((hc i).symm.trans h) nofun
  target w h hz := absurd ((hw w h).symm.trans hz) nofun

end Books

end Sys2Proof.Machine
end

section
/-! The books under the shared operations: what each writes into them, and that they stay in order. -/

namespace Sys2Proof.Machine
open Sys2Proof.Safety

section
variable {s t : State}

/-! ### What each operation writes -/

theorem books_eq (hj : t.journal = s.journal) (hs : ∀ p, (t.step p).isSome = (s.step p).isSome) (hr : t.ceremony.run = s.ceremony.run)
    (hw : t.importWork = s.importWork) (hc : ∀ i, (t.slot i).content = (s.slot i).content) : booksOf t = booksOf s := by
  simp only [booksOf, hj, hs, hr, hw, hc]

theorem books_writeRecord (h : ResHolder) (body : RecordBody) :
    booksOf (writeRecord h body s) = { booksOf s with journal := (booksOf s).journal.wrote h body } := rfl

theorem books_returnReservation (h : ResHolder) :
    booksOf (returnReservation h s) = { booksOf s with journal := (booksOf s).journal.returned h } := rfl

theorem books_reserved (h : ResHolder) : booksOf (reserved h s) = { booksOf s with journal := (booksOf s).journal.granted h } := by
  have hset : booksOf (s.setJournal (s.journal.granted h)) = { booksOf s with journal := (booksOf s).journal.granted h } := rfl
  rw [← hset]
  exact books_eq (by simp [Journal.granted]) (fun _ => by simp) (by simp) (by simp) fun _ => by simp

theorem books_setSlot (i : SlotIx) (x : Slot) :
    booksOf (s.setSlot i x) = { booksOf s with content := Function.update (booksOf s).content i x.content } := by
  have hc : (fun j => ((s.setSlot i x).slot j).content) = Function.update (fun j => (s.slot j).content) i x.content := by
    funext j
    rw [slot_setSlot, Function.update_apply]
    by_cases hij : i = j
    · simp [hij]
    · simp [hij, Ne.symm hij]
  exact congrArg (fun c => { booksOf s with content := c }) hc

/-- A slot's count changes, not its content. -/
theorem books_setSlot_same {i : SlotIx} {x : Slot} (h : x.content = (s.slot i).content) : booksOf (s.setSlot i x) = booksOf s := by
  rw [books_setSlot, h]
  exact congrArg (fun c => { booksOf s with content := c }) (Function.update_eq_self i (booksOf s).content)

theorem books_setStep (p : Port) (x : Option PendingStep) :
    booksOf (s.setStep p x) = { booksOf s with steps := Function.update (booksOf s).steps p x.isSome } := by
  have hs : (fun q => ((s.setStep p x).step q).isSome) = Function.update (fun q => (s.step q).isSome) p x.isSome := by
    funext q
    rw [State.step, show (s.setStep p x).store.steps = s.store.steps.set p x from rfl, Tab.get_set, Function.update_apply]
    by_cases hpq : p = q
    · simp [hpq]
    · simp [hpq, Ne.symm hpq, State.step]
  exact congrArg (fun c => { booksOf s with steps := c }) hs

theorem books_setCeremony (run : CeremonyRun) : booksOf (s.setCeremony run) = { booksOf s with run := run } := rfl

theorem books_noticeAll (n : Notice) : booksOf (noticeAll n s) = booksOf s := by simp [booksOf]

theorem books_finishCeremony (w : CeremonyWork) (result : CeremonyResult) (run : CeremonyRun) :
    booksOf (finishCeremony w result run s) = { booksOf s with run := run } := by
  simp [booksOf, run_finishCeremony]

theorem books_withdrawJob (r : Fin 10) : booksOf (withdrawJob r s) = booksOf s := by simp [booksOf]

theorem books_requestJob (r : Fin 10) (inputs : JobInputs) : booksOf (requestJob r inputs s) = booksOf s := by simp [booksOf]

theorem books_answer (l : ConsoleLink) (kind : Byte) (st : Status) (body : AnswerBody) : booksOf (answer l kind st body s) = booksOf s := by
  simp [booksOf]

theorem books_answerWithheld (l : ConsoleLink) (st : Status) (body : AnswerBody) : booksOf (answerWithheld l st body s) = booksOf s := by
  simp [booksOf]

theorem books_pushBench (p : Port) (m : BenchOut) : booksOf (pushBench p m s) = booksOf s := by simp [booksOf]

theorem books_respond (tag kind : Byte) (st : Status) (changed : Bool) (body : ResponseBody) :
    booksOf (respond tag kind st changed body s) = booksOf s := rfl

theorem books_completeErasure {i : SlotIx} {w : CeremonyWork} {pair : Pair} (hw : s.ceremony.run = .work w) (ha : w.approvers = some pair) :
    booksOf (completeErasure i s) = { booksOf s with
      journal := (booksOf s).journal.wrote .ceremony (.keyErased i (s.slot i).generation pair)
      run := .idle, content := Function.update (booksOf s).content i .empty } := by
  unfold completeErasure
  simp only [hw, ha]
  rw [books_finishCeremony, books_writeRecord, books_setSlot]

/-! ### Steps in flight (R11, R162) -/

theorem sound_lowerInUse (h : (booksOf s).Sound) (i : SlotIx) : (booksOf (lowerInUse i s)).Sound := by
  have hcount : booksOf (s.setSlot i { s.slot i with inUse := (s.slot i).inUse - 1 }) = booksOf s := books_setSlot_same rfl
  unfold lowerInUse
  simp only
  split
  next k hk =>
    split
    · obtain ⟨w, hw, hp, hd⟩ := h.erasing i k hk
      obtain ⟨pair, ha⟩ := Option.isSome_iff_exists.1 (h.drained w hw hd).1
      rw [books_completeErasure (s := s.setSlot i { s.slot i with inUse := (s.slot i).inUse - 1 }) hw ha, hcount]
      exact h.erased hw hp rfl
    · rw [hcount]; exact h
  next => rw [hcount]; exact h

theorem sound_endStep (h : (booksOf s).Sound) {p : Port} {ps : PendingStep} {body : RecordBody} (hp : s.step p = some ps)
    (hb : body.isTamper = false) : (booksOf (endStep p ps body s)).Sound := by
  have hend : (booksOf ((writeRecord (.bench p) body s).setStep p none)).Sound := by
    rw [books_setStep, books_writeRecord]
    exact h.endStep (show ((s.step p).isSome) = true by rw [hp]; rfl) hb
  exact sound_lowerInUse (sound_lowerInUse hend _) _

theorem sound_voidStep (h : (booksOf s).Sound) (p : Port) (kcv : PendingStep → Option Kcv) (reason : VoidReason) :
    (booksOf (voidStep p kcv reason s)).Sound := by
  unfold voidStep
  split
  · exact h
  next ps hps => exact sound_endStep h hps rfl

theorem books_finishSession (p : Port) (ss : Session) (reason : VoidReason) (next : PortContext) :
    booksOf (finishSession p ss reason next s) = booksOf s := by
  simp [booksOf]

theorem sound_endSession (h : (booksOf s).Sound) (reason : VoidReason) (p : Port) : (booksOf (endSession reason p s)).Sound := by
  unfold endSession
  split
  · rw [books_finishSession]; exact h
  · rw [books_finishSession]; exact sound_voidStep h ..
  · simp only
    split
    · rw [books_finishSession, books_withdrawJob]; exact h
    · rw [books_finishSession]
      exact sound_voidStep (by rw [books_withdrawJob]; exact h) ..
  · exact h

theorem sound_endAllSessions (h : (booksOf s).Sound) (reason : VoidReason) : (booksOf (endAllSessions reason s)).Sound := by
  unfold endAllSessions
  induction allPorts generalizing s with
  | nil => exact h
  | cons p l ih => exact ih (sound_endSession h reason p)

/-! ### The end of a ceremony (R53, R58) -/

theorem books_abandonTarget (w : CeremonyWork) : ∃ c, booksOf (abandonTarget w s) = { booksOf s with content := c }
    ∧ ∀ i, c i = (booksOf s).content i ∨ (booksOf s).content i = .assembling .ceremony ∧ c i = .empty := by
  unfold abandonTarget
  split
  next slot cls length count keySet _ =>
    unfold abandonSlot
    split
    next hc =>
      refine ⟨_, books_setSlot .., fun i => ?_⟩
      by_cases hi : i = slot
      · subst hi
        exact .inr ⟨hc, Function.update_self ..⟩
      · exact .inl (Function.update_of_ne hi ..)
    next => exact ⟨_, rfl, fun _ => .inl rfl⟩
  next => exact ⟨_, rfl, fun _ => .inl rfl⟩

/-- What an abort writes: the target given back, the reservation returned, the ceremony ended (R58). -/
theorem books_abortCeremony (reason : AbortReason) (leaver : Option Cust) (w : CeremonyWork) :
    ∃ c run, (∀ x, run ≠ .work x)
      ∧ booksOf (abortCeremony reason leaver w s)
        = { booksOf s with journal := (booksOf s).journal.returned .ceremony, run := run, content := c }
      ∧ ∀ i, c i = (booksOf s).content i ∨ (booksOf s).content i = .assembling .ceremony ∧ c i = .empty := by
  obtain ⟨c, hb, hc⟩ := books_abandonTarget (s := s) w
  have hanswer : ∀ u, booksOf (answerUnderCheck reason leaver w u) = booksOf u := fun u => by
    unfold answerUnderCheck
    split
    · exact books_answerWithheld ..
    · rfl
  refine ⟨c, runAfterAbort w (abortClaims reason leaver w s), runAfterAbort_closed w, ?_, hc⟩
  rw [abortCeremony_eq, books_finishCeremony, books_withdrawJob]
  unfold abortClaims
  rw [hanswer, books_returnReservation, hb]

theorem sound_abortCeremony (h : (booksOf s).Sound) (reason : AbortReason) (leaver : Option Cust) (w : CeremonyWork)
    (hd : ∀ i k, (s.slot i).content ≠ .erasing k) : (booksOf (abortCeremony reason leaver w s)).Sound := by
  obtain ⟨c, run, hrun, hb, hc⟩ := books_abortCeremony (s := s) reason leaver w
  rw [hb]
  have habort := h.abort hrun hd
  refine ⟨habort.journal, fun x _ _ _ _ _ hx => absurd hx (hrun x), fun x _ hx => absurd hx (hrun x), habort.drained, fun i k hk => ?_,
    fun x hx hz => ?_⟩
  · rcases hc i with hs | ⟨-, hs⟩
    · exact absurd (hs.symm.trans hk) (hd i k)
    · exact absurd (hs.symm.trans hk) nofun
  · have ht := h.target x hx hz
    rcases hc x.target with hs | ⟨hs, -⟩
    · exact hs.trans ht
    · exact absurd (hs.symm.trans ht) (by simp)

theorem isBound_not_draining {w : CeremonyWork} {c : Cust} (h : w.isBound c = true) : w.phase ≠ .draining := fun hd => by
  rw [CeremonyWork.isBound, hd] at h
  cases h

theorem sound_custodianLeft (h : (booksOf s).Sound) (c : Cust) : (booksOf (custodianLeft c s)).Sound := by
  unfold custodianLeft
  split
  next w hw =>
    split
    next hb => exact sound_abortCeremony h _ _ _ (h.not_erasing fun x hx => by cases hw.symm.trans hx; exact isBound_not_draining hb)
    next => exact h
  next => exact h

theorem sound_endLogon (h : (booksOf s).Sound) (l : ConsoleLink) : (booksOf (endLogon l s)).Sound := by
  unfold endLogon
  split
  · exact h
  · exact sound_custodianLeft (s := s.setConsole l { s.console l with logon := none }) h _

theorem sound_endLogonsOf (h : (booksOf s).Sound) (c : Cust) : (booksOf (endLogonsOf c s)).Sound := by
  have hstep : ∀ l u, (booksOf u).Sound → (booksOf (endLogonIf c l u)).Sound := fun l u hu => by
    unfold endLogonIf
    split
    · exact sound_endLogon hu l
    · exact hu
  rw [endLogonsOf_eq]
  exact hstep 1 _ (hstep 0 s h)

/-! ### Zeroise (R103) -/

theorem books_setLine (l : LineState) : booksOf (setLine l s) = booksOf s := by simp [booksOf]

theorem books_zeroiseStart : booksOf (zeroiseStart s) = { booksOf s with content := fun _ => .empty } := by
  have hclose : booksOf (zeroiseClose s.line (setLine .zeroised s)) = booksOf s := by
    unfold zeroiseClose
    split
    · exact (books_respond ..).trans (books_setLine _)
    · exact books_setLine _
  have hslots : ∀ u, booksOf (zeroiseSlots u) = { booksOf u with content := fun _ => .empty } := fun u => by
    have hc : (fun i => ((zeroiseSlots u).slot i).content) = fun _ => .empty := by
      funext i
      rw [zeroiseSlots, State.slot, Tab.get_map]
      rfl
    exact congrArg (fun c => { booksOf u with content := c }) hc
  exact (hslots _).trans (by rw [hclose])

/-- A zeroise keeps the books in order, whatever it finds at work (R61, R74, R103, R186). -/
theorem sound_zeroisePart (h : (booksOf s).Sound) (cause : TamperCause) : (booksOf (zeroisePart cause s)).Sound := by
  have hwork : (booksOf (zeroiseWork (zeroiseStart s))).Sound := by
    have hceremony : ∃ j run, (∀ x, run ≠ .work x) ∧ j.Sound { booksOf s with run := run }.Holds
        ∧ booksOf (zeroiseCeremony (zeroiseStart s)) = { booksOf s with journal := j, run := run, content := fun _ => .empty } := by
      unfold zeroiseCeremony
      split
      next w hw =>
        obtain ⟨c, run, hrun, hb, hc⟩ := books_abortCeremony (s := zeroiseStart s) .zeroised none w
        have hempty : c = fun _ => .empty := funext fun i => by
          rcases hc i with hs | ⟨-, hs⟩
          · rw [hs, books_zeroiseStart]
          · exact hs
        refine ⟨_, run, hrun, ?_, by rw [hb, books_zeroiseStart, hempty]⟩
        refine h.journal.returned (h := .ceremony) fun k => ?_
        cases k <;> simp [Books.Holds, hrun]
      next hnone =>
        have hrun : (zeroiseStart s).ceremony.run = s.ceremony.run := congrArg Books.run (books_zeroiseStart (s := s))
        exact ⟨_, (booksOf s).run, fun w hw => hnone w (hrun.trans hw), h.journal, books_zeroiseStart⟩
    obtain ⟨j, run, hrun, hj, hb⟩ := hceremony
    have himport : booksOf (zeroiseWork (zeroiseStart s))
        = { booksOf (zeroiseCeremony (zeroiseStart s)) with
            work := (booksOf (zeroiseCeremony (zeroiseStart s))).work.map fun w => { w with zeroised := true } } := rfl
    rw [himport, hb]
    refine .of_bare (hj.congr fun k => ?_) hrun (fun _ => rfl) fun w hw => ?_
    · cases k <;> simp [Books.Holds]
    · obtain ⟨w', -, rfl⟩ := Option.map_eq_some_iff.1 hw
      rfl
  have hend := sound_endAllSessions hwork .zeroised
  rw [zeroisePart_eq]
  generalize endAllSessions .zeroised (zeroiseWork (zeroiseStart s)) = u at hend
  have htamper : booksOf ((tamperJournal cause u).setFlag .tamper) = { booksOf u with journal := (booksOf u).journal.tamper cause } := rfl
  rw [htamper]
  exact ⟨(hend.journal.tampered cause).congr fun k => by cases k <;> rfl, hend.assemble, hend.erase, hend.drained, hend.erasing, hend.target⟩

end

end Sys2Proof.Machine
end

section
/-! The books under the handlers and the completions. -/

namespace Sys2Proof.Machine
open Sys2Proof.Safety

section
variable {s t : State}

/-! ### Console messages -/

/-- A key of a class with the fields R43 asks for can be made (R13, R43). -/
theorem newKeyUse_of_fits {c : KeyClass} {keySet : Option Nat} (h : keySetFits c keySet = true) : (newKeyUse c keySet).isSome = true := by
  revert h
  cases c <;> cases keySet <;> simp [keySetFits, newKeyUse]

theorem reserveCheck_granted {n : Nat} {cls : Option KeyClass} {i : SlotIx} (h : reserveCheck n cls s = .granted i) :
    (s.slot i).content = .empty := by
  unfold reserveCheck at h
  split at h
  · cases h
  · split at h
    · cases h
    next hc =>
      (repeat' split at h) <;> cases h
      simpa using hc

/-- What an OPEN that is granted names: an empty slot for a key of a class it can have, or a slot that holds a key (R43, R44). -/
def NamesFit (params : CeremonyParams) (s : State) : Prop :=
  (∀ slot cls length count keySet, params = .assemble slot cls length count keySet →
    (s.slot slot).content = .empty ∧ (newKeyUse cls keySet).isSome = true)
  ∧ ∀ slot, params = .erase slot → (s.slot slot).content.key?.isSome = true

theorem namesFit_openingOf {c : Instr} {p : Person} {params : CeremonyParams} (h : openingOf c p s = .granted params) :
    NamesFit params s := by
  cases c <;> simp only [openingOf, reduceCtorEq] at h
  case openAssemble =>
    unfold assembleOpening at h
    split at h
    · cases h
    · split at h
      · cases h
      next hfits =>
        split at h
        · cases h
        · split at h
          · cases h
          next hres =>
            cases h
            refine ⟨fun slot cls length count keySet he => ?_, nofun⟩
            cases he
            exact ⟨reserveCheck_granted hres, newKeyUse_of_fits (by simp_all)⟩
  case openErase =>
    unfold eraseOpening at h
    (repeat' split at h) <;> cases h
    next hc => exact ⟨nofun, fun slot he => by cases he; rw [hc]; rfl⟩
    next hc => exact ⟨nofun, fun slot he => by cases he; rw [hc]; rfl⟩
  case openOpenLine =>
    unfold openLineOpening at h
    split at h <;> cases h
    exact ⟨nofun, nofun⟩
  case openEnrol =>
    unfold enrolOpening at h
    (repeat' split at h) <;> cases h
    exact ⟨nofun, nofun⟩
  case openRevoke =>
    unfold revokeOpening at h
    (repeat' split at h) <;> cases h
    exact ⟨nofun, nofun⟩
  case openUnlock =>
    unfold unlockOpening at h
    (repeat' split at h) <;> cases h
    exact ⟨nofun, nofun⟩

theorem books_startCeremony (l : ConsoleLink) (p : Person) (params : CeremonyParams) :
    ∃ c, booksOf (startCeremony l p params s) = { booksOf s with run := .work (openedWork p params (windowLength s)), content := c }
      ∧ ((∃ slot cls length count keySet, params = .assemble slot cls length count keySet
          ∧ c = Function.update (booksOf s).content slot (.assembling .ceremony)) ∨ (∀ slot cls length count keySet,
            params ≠ .assemble slot cls length count keySet) ∧ c = (booksOf s).content) := by
  have htold : ∀ (n : Notice) (u : State), booksOf (noticeAll n (answer l 0x04 .ok .nothing u)) = booksOf u := fun n u => by
    rw [books_noticeAll, books_answer]
  have hset : ∀ (u : State) (c : Ceremony), booksOf { u with ceremony := c } = { booksOf u with run := c.run } := fun _ _ => rfl
  unfold startCeremony
  simp only
  rw [htold]
  split
  next slot cls length count keySet =>
    refine ⟨_, ?_, .inl ⟨slot, cls, length, count, keySet, rfl, rfl⟩⟩
    rw [hset, reserveSlot, books_setSlot]
  next hne => exact ⟨_, rfl, .inr ⟨hne, rfl⟩⟩

theorem sound_openCeremony (h : (booksOf s).Sound) {l : ConsoleLink} {p : Person} {o : Opening}
    (ho : ∀ params, o = .granted params → NamesFit params s) : (booksOf (openCeremony l p o s)).Sound := by
  rcases openCeremony_cases l p o s with ⟨st, he⟩ | he | ⟨params, hgr, hidle, -, hfree, he⟩ <;> rw [he]
  · rw [books_answer]; exact h
  · rw [books_answer]; exact h
  · obtain ⟨hassemble, herase⟩ := ho params hgr
    obtain ⟨c, hb, hc⟩ := books_startCeremony (s := reserved .ceremony s) l p params
    rw [hb, books_reserved]
    rw [books_reserved] at hc
    have hclosed : ∀ x, (booksOf s).run ≠ .work x := fun x hx => absurd (hidle.symm.trans hx) nofun
    rcases hc with ⟨slot, cls, length, count, keySet, rfl, rfl⟩ | ⟨hne, rfl⟩
    · obtain ⟨hempty, huse⟩ := hassemble slot cls length count keySet rfl
      have hres := h.setContent (i := slot) (c := .assembling .ceremony) nofun hclosed (fun hi => absurd (hempty.symm.trans hi) nofun)
      exact hres.opened (w := openedWork p (.assemble slot cls length count keySet) (windowLength (reserved .ceremony s))) hclosed hfree rfl
        (fun slot' cls' length' count' keySet' hp => by cases hp; exact ⟨Function.update_self .., huse⟩) nofun
    · exact h.opened (w := openedWork p params (windowLength (reserved .ceremony s))) hclosed hfree rfl
        (fun slot cls length count keySet hp => (hne _ _ _ _ _ hp).elim) herase

theorem sound_badEntry (h : (booksOf s).Sound) {w w₀ : CeremonyWork} (hw : s.ceremony.run = .work w₀) (hp : w.params = w₀.params)
    (hph : w.phase = w₀.phase) (hcomb : w.combined = w₀.combined) (happ : w.approvers = w₀.approvers) (hwin : w.window = w₀.window)
    (hd : ∀ i k, (s.slot i).content ≠ .erasing k) : (booksOf (badEntry w s)).Sound := by
  have hset : (booksOf (s.setCeremony (.work { w with underCheck := none, badEntries := w.badEntries + 1 }))).Sound := by
    rw [books_setCeremony]
    exact h.proceed hw hp (.inl fun hx => hph.trans hx) (fun hx => ⟨hph.symm.trans hx, happ, fun hn => hwin.trans hn⟩)
      fun hx => .inr ⟨hph.symm.trans hx, hcomb⟩
  unfold badEntry
  simp only
  split
  · rw [books_noticeAll]; exact hset
  · exact sound_abortCeremony hset _ _ _ hd

theorem sound_giveComponent (h : (booksOf s).Sound) (l : ConsoleLink) (p : Person) (value : KeyBytes) (check : Kcv) :
    (booksOf (giveComponent l p value check s)).Sound := by
  have hanswer : ∀ st, (booksOf (answer l 0x05 st .nothing s)).Sound := fun st => by rw [books_answer]; exact h
  unfold giveComponent
  split
  next w hw =>
    split
    next hph hpar =>
      have hd : ∀ i k, (s.slot i).content ≠ .erasing k := h.not_erasing_of_params hw (by rw [hpar]; nofun)
      unfold componentChecked
      (repeat' split) <;> try exact hanswer _
      · exact sound_badEntry (hanswer _) (w₀ := w) (by simpa using hw) rfl rfl rfl rfl rfl (by simpa using hd)
      · unfold takeComponent
        rw [books_requestJob]
        exact h.proceed hw rfl (.inl id) (fun hx => ⟨hx, rfl, id⟩) fun hx => .inr ⟨hx, rfl⟩
    next => exact hanswer _
  next => exact hanswer _

/-! ### ACCEPT (R52-R54) -/

theorem takesAcceptance_phase {w : CeremonyWork} (h : w.takesAcceptance = true) :
    w.phase ≠ .draining ∧ (w.params.kind = .assemble → w.phase = .verifying) := by
  unfold CeremonyWork.takesAcceptance at h
  split at h
  next hph => exact ⟨by rw [hph]; nofun, fun _ => hph⟩
  next hph =>
    refine ⟨by rw [hph]; nofun, fun hk => ?_⟩
    rw [hk] at h
    cases h
  next => cases h

/-- An ASSEMBLE completes: its key is in the slot, its record stands (R13, R53). -/
theorem books_installAssembled {slot : SlotIx} {cls : KeyClass} {length : Nat} {keySet : Option Nat} {pair : Pair} {w : CeremonyWork}
    (hc : (s.slot slot).content = .assembling .ceremony) (hu : (newKeyUse cls keySet).isSome = true) (hk : w.combined.isSome = true) :
    ∃ key body, body.isTamper = false ∧ booksOf (installAssembled slot cls length keySet pair w s)
      = { booksOf s with journal := (booksOf s).journal.wrote .ceremony body, content := Function.update (booksOf s).content slot (.active key) } := by
  obtain ⟨use, huse⟩ := Option.isSome_iff_exists.1 hu
  obtain ⟨c, hcomb⟩ := Option.isSome_iff_exists.1 hk
  refine ⟨{ use := use, length := length, material := c.key, kcv := c.kcv },
    .keyInstalled slot ((s.slot slot).generation + 1) use.cls c.kcv (.ceremony pair), rfl, ?_⟩
  simp only [installAssembled, huse, hcomb, installKey, hc, if_true]
  rw [books_writeRecord, books_setSlot]

theorem sound_approveErase (h : (booksOf s).Sound) {w w₀ : CeremonyWork} {i : SlotIx} {pair : Pair} (hw : s.ceremony.run = .work w₀)
    (hp : w.params = w₀.params) (hph : w.phase = w₀.phase) (hcomb : w.combined = w₀.combined)
    (hd : w₀.phase ≠ .draining) (hi : w.params = .erase i) (ha : w.approvers = some pair) : (booksOf (approveErase i w s)).Sound := by
  have hset : (booksOf (s.setCeremony (.work w))).Sound := by
    rw [books_setCeremony]
    exact h.proceed hw hp (.inl fun hx => absurd hx hd) (fun hx => absurd (hph.symm.trans hx) hd) fun hx => .inr ⟨hph.symm.trans hx, hcomb⟩
  unfold approveErase
  simp only
  split
  · rw [books_completeErasure (s := s.setCeremony (.work w)) rfl ha]
    exact hset.erased rfl hi rfl
  · rw [books_noticeAll, books_setCeremony]
    split
    next key hkey =>
      rw [books_setSlot]
      exact h.drain hw hd (hp.symm.trans hi) hi rfl (by exact Option.isSome_iff_exists.2 ⟨pair, ha⟩) rfl
    next hkey =>
      have hk := h.erase w₀ i hw (hp.symm.trans hi)
      rw [show ((booksOf s).content i).key? = none from hkey] at hk
      cases hk

theorem sound_changeCustodian (h : (booksOf s).Sound) {w : CeremonyWork} (hw : s.ceremony.run = .work w)
    (hd : ∀ i k, (s.slot i).content ≠ .erasing k) (action : CustodianAction) (who : Cust) (pair : Pair) (x : Option CustEntry)
    (w' : CeremonyWork) (result : CeremonyResult) :
    (booksOf (finishCeremony w' result .idle (changeCustodian action who pair x s))).Sound := by
  rw [books_finishCeremony]
  exact h.complete hw (body := .custodianChanged action who pair) rfl hd

theorem sound_completeCeremony (h : (booksOf s).Sound) {w w₀ : CeremonyWork} {pair : Pair} (hw : s.ceremony.run = .work w₀)
    (hp : w.params = w₀.params) (hph : w.phase = w₀.phase) (hcomb : w.combined = w₀.combined)
    (ht : w₀.takesAcceptance = true) (ha : w.approvers = some pair) : (booksOf (completeCeremony w pair s)).Sound := by
  obtain ⟨hnd, hver⟩ := takesAcceptance_phase ht
  have hd : ∀ i k, (s.slot i).content ≠ .erasing k := h.not_erasing fun x hx => by cases hw.symm.trans hx; exact hnd
  unfold completeCeremony
  split
  next slot cls length count keySet hpar =>
    obtain ⟨hc, hu, hk⟩ := h.assemble w₀ slot cls length count keySet hw (hp.symm.trans hpar)
    have hphase := hver (by rw [← hp, hpar]; rfl)
    obtain ⟨key, body, hbody, hb⟩ := books_installAssembled (length := length) (pair := pair) (w := w) hc hu (by rw [hcomb]; exact hk hphase)
    rw [books_finishCeremony, hb]
    exact (h.complete hw hbody hd).setContent (i := slot) nofun nofun fun hi => absurd (hc.symm.trans hi) (by simp)
  next i hpar => exact sound_approveErase h hw hp hph hcomb hnd hpar ha
  next =>
    rw [books_finishCeremony]
    have hline : booksOf { setLine .live (writeRecord .ceremony (.lineOpened pair) s) with stream := none }
        = booksOf (writeRecord .ceremony (.lineOpened pair) s) := books_setLine .live
    rw [hline]
    exact h.complete hw (body := .lineOpened pair) rfl hd
  next => exact sound_changeCustodian h hw hd ..
  next => exact sound_endLogonsOf (sound_changeCustodian h hw hd ..) _
  next => exact sound_changeCustodian h hw hd ..

theorem withAcceptance_keeps (p : Person) (w : CeremonyWork) :
    (w.withAcceptance p).phase = w.phase ∧ (w.withAcceptance p).combined = w.combined := by
  unfold CeremonyWork.withAcceptance
  split <;> exact ⟨rfl, rfl⟩

theorem takesAcceptance_of_taken {p : Person} {w : CeremonyWork} (h : acceptRefusal p w s = none) : w.takesAcceptance = true := by
  unfold acceptRefusal at h
  split at h
  · cases h
  next ht => simpa using ht

theorem sound_acceptCeremony (h : (booksOf s).Sound) (l : ConsoleLink) (p : Person) : (booksOf (acceptCeremony l p s)).Sound := by
  have hanswer : ∀ st, (booksOf (answer l 0x06 st .nothing s)).Sound := fun st => by rw [books_answer]; exact h
  unfold acceptCeremony
  split
  next w hw =>
    split
    · exact hanswer _
    next hnone =>
      have ht := takesAcceptance_of_taken hnone
      obtain ⟨hph, hcomb⟩ := withAcceptance_keeps p w
      have hw' : (answer l 0x06 .ok .nothing s).ceremony.run = .work w := by simpa using hw
      simp only
      split
      next pair ha => exact sound_completeCeremony (hanswer _) hw' (params_withAcceptance p w) hph hcomb ht ha
      next =>
        rw [books_noticeAll, books_setCeremony]
        exact (hanswer .ok).proceed hw' (params_withAcceptance p w) (.inl fun hx => absurd hx (takesAcceptance_phase ht).1)
          (fun hx => absurd (hph.symm.trans hx) (takesAcceptance_phase ht).1) fun hx => .inr ⟨hph.symm.trans hx, hcomb⟩
  next => exact hanswer _

theorem sound_personHandler (h : (booksOf s).Sound) {c : Instr} {l : ConsoleLink} {kind : Byte} (hc : consoleMessage? c = some (l, kind))
    (hn : needsLogon c = true) (p : Person) : (booksOf (personHandler c p s)).Sound := by
  have hanswer : ∀ k st, (booksOf (answer l k st .nothing s)).Sound := fun k st => by rw [books_answer]; exact h
  cases ho : opens c with
  | true =>
    obtain ⟨-, -, hopen⟩ := personHandler_of_opens hc ho p s
    rw [hopen]
    exact sound_openCeremony h fun params hg => namesFit_openingOf hg
  | false =>
    cases c <;> simp only [consoleMessage?, needsLogon, opens, reduceCtorEq, Bool.false_eq_true, Bool.true_eq_false,
      Option.some.injEq, Prod.mk.injEq] at hc hn ho <;> obtain ⟨rfl, rfl⟩ := hc <;> simp only [personHandler]
    case accept => exact sound_acceptCeremony h ..
    case zeroise => exact sound_zeroisePart (hanswer ..) _
    case logoff => exact sound_endLogon (hanswer ..) _
    case component => exact sound_giveComponent h ..
    case reject =>
      unfold rejectCeremony
      split
      next w hw =>
        split
        next ht =>
          refine sound_abortCeremony (hanswer ..) _ _ _ ((hanswer 0x07 .ok).not_erasing fun x hx => ?_)
          cases hw.symm.trans (show s.ceremony.run = .work x by simpa [booksOf] using hx)
          exact (takesAcceptance_phase ht).1
        next => exact hanswer ..
      next => exact hanswer ..
    case cancel =>
      unfold cancelCeremony
      split
      next w hw =>
        split
        next ht =>
          refine sound_abortCeremony (hanswer ..) _ _ _ ((hanswer 0x08 .ok).not_erasing fun x hx => ?_)
          cases hw.symm.trans (show s.ceremony.run = .work x by simpa [booksOf] using hx)
          exact ht.2
        next => exact hanswer ..
      next => exact hanswer ..

end

end Sys2Proof.Machine
end

section
/-! The ports' contexts against the line, the profile stream and the pending-step records (R96, R147, R158), and how the
transactions of the part keep them fitting. -/

namespace Sys2Proof.Machine
open Sys2Proof.Safety

section
variable {s t u : State}

/-- A port's context and its pending-step record fit each other and the line: a step in flight needs a line that has left
SETUP. -/
structure PortFits (line : LineState) (c : PortContext) (step : Bool) : Prop where
  step : hasStep c = step
  setup : line = .setup → hasStep c = false

/-- Every port is seated: its context fits, no session is open on a line that does not serve it, no profile is RECEIVING
outside SETUP. -/
structure Seated (s : State) : Prop where
  ports : ∀ p, PortFits s.line (s.ctx p) (s.step p).isSome
  sessions : SessionsNeedLine s
  stream : StreamNeedsSetup s

theorem PortFits.empty {line : LineState} {c : PortContext} (h : hasStep c = false) : PortFits line c false := ⟨h, fun _ => h⟩

theorem Seated.of_eq (h : Seated s) (hl : t.line = s.line) (hst : t.stream = s.stream) (hc : ∀ p, t.ctx p = s.ctx p)
    (hs : ∀ p, t.step p = s.step p) : Seated t where
  ports p := by rw [hl, hc, hs]; exact h.ports p
  sessions p hp := by rw [hl]; exact h.sessions p (by rwa [hc] at hp)
  stream := by rw [StreamNeedsSetup, hl, hst]; exact h.stream

/-- One port changes, and the line serves it. -/
theorem Seated.at (h : Seated s) (p : Port) (hl : t.line = s.line) (hst : t.stream = s.stream) (hc : ∀ q, q ≠ p → t.ctx q = s.ctx q)
    (hs : ∀ q, q ≠ p → t.step q = s.step q) (hp : PortFits s.line (t.ctx p) (t.step p).isSome)
    (hin : inSession (t.ctx p) = true → s.line = .live ∨ s.line = .paused) : Seated t where
  ports q := by
    rw [hl]
    by_cases hq : q = p
    · rw [hq]; exact hp
    · rw [hc q hq, hs q hq]; exact h.ports q
  sessions q hi := by
    rw [hl]
    by_cases hq : q = p
    · exact hin (hq ▸ hi)
    · exact h.sessions q (by rwa [hc q hq] at hi)
  stream := by rw [StreamNeedsSetup, hl, hst]; exact h.stream

/-! ### What the ends of steps and sessions write -/

@[simp] theorem ctx_pushBench (p q : Port) (m : BenchOut) : (pushBench p m s).ctx q = s.ctx q := by
  unfold pushBench
  simp only
  split
  · rw [State.ctx, State.bench_setBench]
    split
    next h => rw [← h]; rfl
    next => rfl
  · rfl

theorem ctx_finishSession (p : Port) (ss : Session) (reason : VoidReason) (next : PortContext) (q : Port) :
    (finishSession p ss reason next s).ctx q = if p = q then next else s.ctx q := by
  unfold finishSession
  simp only
  split <;> simp [State.ctx_setCtx]

theorem step_finishSession (p : Port) (ss : Session) (reason : VoidReason) (next : PortContext) (q : Port) :
    (finishSession p ss reason next s).step q = s.step q := by
  unfold finishSession
  simp only
  split <;> simp

theorem step_endStep (p : Port) (ps : PendingStep) (body : RecordBody) (q : Port) :
    (endStep p ps body s).step q = if p = q then none else s.step q := by
  simp [endStep, State.step_setStep]

theorem step_voidStep (p : Port) (kcv : PendingStep → Option Kcv) (reason : VoidReason) (q : Port) :
    (voidStep p kcv reason s).step q = if p = q then none else s.step q := by
  unfold voidStep
  split
  next h => split <;> simp_all
  next => rw [step_endStep]

/-! ### The end of sessions (R166, R167) -/

/-- What the end of sessions does to the ports. -/
structure SessionsEnd (s t : State) : Prop where
  line : t.line = s.line
  stream : t.stream = s.stream
  ports : ∀ q, PortFits s.line (s.ctx q) (s.step q).isSome → PortFits s.line (t.ctx q) (t.step q).isSome
  sessions : ∀ q, inSession (t.ctx q) = true → inSession (s.ctx q) = true

theorem SessionsEnd.refl (s : State) : SessionsEnd s s := ⟨rfl, rfl, fun _ => id, fun _ => id⟩

theorem SessionsEnd.trans (h : SessionsEnd s u) (g : SessionsEnd u t) : SessionsEnd s t where
  line := g.line.trans h.line
  stream := g.stream.trans h.stream
  ports q hq := h.line ▸ g.ports q (h.line ▸ h.ports q hq)
  sessions q hq := h.sessions q (g.sessions q hq)

/-- The session end at a port, once the step is dealt with. -/
theorem sessionsEnd_finishSession {p : Port} {ss : Session} {reason : VoidReason} {next : PortContext} (hl : u.line = s.line)
    (hst : u.stream = s.stream) (hc : ∀ q, u.ctx q = s.ctx q) (hs : ∀ q, q ≠ p → u.step q = s.step q) (hnext : inSession next = false)
    (hfits : PortFits s.line (s.ctx p) (s.step p).isSome → PortFits s.line next (u.step p).isSome) :
    SessionsEnd s (finishSession p ss reason next u) where
  line := by simpa using hl
  stream := by simpa using hst
  ports q hq := by
    rw [ctx_finishSession, step_finishSession]
    split
    next hp => exact hp ▸ hfits (hp.symm ▸ hq)
    next hp => rwa [hc, hs q (Ne.symm hp)]
  sessions q hq := by
    rw [ctx_finishSession] at hq
    split at hq
    · rw [hnext] at hq; cases hq
    · rwa [hc] at hq

theorem endedContext_quiet (reason : VoidReason) : inSession (endedContext reason) = false ∧ hasStep (endedContext reason) = false := by
  unfold endedContext
  split <;> exact ⟨rfl, rfl⟩

theorem sessionsEnd_endSession (reason : VoidReason) (p : Port) : SessionsEnd s (endSession reason p s) := by
  obtain ⟨hin, hstep⟩ := endedContext_quiet reason
  unfold endSession
  split
  next ss idle hctx =>
    refine sessionsEnd_finishSession rfl rfl (fun _ => rfl) (fun _ _ => rfl) hin fun hf => ?_
    have hnone : (s.step p).isSome = false := hf.step.symm.trans (by rw [hctx]; rfl)
    rw [hnone]
    exact .empty hstep
  next ss idle hctx =>
    refine sessionsEnd_finishSession (by simp) (by simp) (fun _ => by simp) (fun q hq => ?_) hin fun _ => ?_
    · rw [step_voidStep, if_neg (Ne.symm hq)]
    · rw [step_voidStep, if_pos rfl]
      exact .empty hstep
  next ss hctx =>
    simp only
    split
    · refine sessionsEnd_finishSession (by simp) (by simp) (fun _ => by simp) (fun _ _ => by simp) rfl fun hf => ?_
      rw [hctx] at hf
      exact ⟨hf.step.trans (by simp), hf.setup⟩
    · refine sessionsEnd_finishSession (by simp) (by simp) (fun _ => by simp) (fun q hq => ?_) hin fun _ => ?_
      · rw [step_voidStep, if_neg (Ne.symm hq)]; simp
      · rw [step_voidStep, if_pos rfl]
        exact .empty hstep
  · exact .refl s

theorem inSession_endSession (reason : VoidReason) (p : Port) : inSession ((endSession reason p s).ctx p) = false := by
  obtain ⟨hin, -⟩ := endedContext_quiet reason
  unfold endSession
  split
  · rw [ctx_finishSession, if_pos rfl]; exact hin
  · rw [ctx_finishSession, if_pos rfl]; exact hin
  · simp only
    split
    · rw [ctx_finishSession, if_pos rfl]; rfl
    · rw [ctx_finishSession, if_pos rfl]; exact hin
  next hi ho hp =>
    cases hc : s.ctx p with
    | identified ss idle => exact absurd hc (hi ss idle)
    | offered ss idle => exact absurd hc (ho ss idle)
    | preparing ss => exact absurd hc (hp ss)
    | off | vacant | attached | finished | draining => rfl

theorem sessionsEnd_foldl (reason : VoidReason) (l : List Port) :
    SessionsEnd s (l.foldl (fun s p => endSession reason p s) s)
      ∧ ∀ p ∈ l, inSession ((l.foldl (fun s p => endSession reason p s) s).ctx p) = false := by
  induction l generalizing s with
  | nil => exact ⟨.refl s, nofun⟩
  | cons a l ih =>
    obtain ⟨hends, hnone⟩ := ih (s := endSession reason a s)
    refine ⟨(sessionsEnd_endSession reason a).trans hends, fun p hp => ?_⟩
    rcases List.mem_cons.1 hp with rfl | hp
    · have hsession := hends.sessions p
      rw [inSession_endSession reason p] at hsession
      exact Bool.eq_false_iff.2 fun hi => nomatch hsession hi
    · exact hnone p hp

/-- After every session has ended none is open. -/
theorem sessionsEnd_endAllSessions (reason : VoidReason) :
    SessionsEnd s (endAllSessions reason s) ∧ ∀ p, inSession ((endAllSessions reason s).ctx p) = false := by
  obtain ⟨hends, hnone⟩ := sessionsEnd_foldl (s := s) reason allPorts
  exact ⟨hends, fun p => hnone p (mem_allPorts p)⟩

theorem Seated.ended (h : Seated s) (he : SessionsEnd s t) : Seated t where
  ports q := he.line ▸ he.ports q (h.ports q)
  sessions q hq := he.line ▸ h.sessions q (he.sessions q hq)
  stream := by rw [StreamNeedsSetup, he.line, he.stream]; exact h.stream

theorem seated_endSession (h : Seated s) (reason : VoidReason) (p : Port) : Seated (endSession reason p s) :=
  h.ended (sessionsEnd_endSession reason p)

/-- A line that opens no session takes the place of one on which every session has ended. -/
theorem Seated.line_ended (h : ∀ p, PortFits s.line (s.ctx p) (s.step p).isSome) (hn : s.line ≠ .setup → t.line = .setup → ∀ p, hasStep (t.ctx p) = false)
    (hc : ∀ p, t.ctx p = s.ctx p) (hs : ∀ p, t.step p = s.step p) (hnone : ∀ p, inSession (s.ctx p) = false)
    (hst : t.stream ≠ none → t.line = .setup) : Seated t where
  ports p := by
    have hf := h p
    rw [hc, hs]
    refine ⟨hf.step, fun hl => ?_⟩
    by_cases hset : s.line = .setup
    · exact hf.setup hset
    · exact hc p ▸ hn hset hl p
  sessions p hp := by rw [hc, hnone] at hp; cases hp
  stream := hst

/-! ### The close (R100, R101) and the zeroise (R103) -/

theorem anyDraining_eq_false (h : anyDraining s = false) (p : Port) : (s.ctx p).isDraining = false := by
  rw [anyDraining, List.any_eq_false] at h
  exact Bool.eq_false_iff.2 (h p (mem_allPorts p))

theorem hasStep_of_quiet {c : PortContext} (hi : inSession c = false) (hd : c.isDraining = false) : hasStep c = false := by
  cases c with
  | off | vacant | attached | finished => rfl
  | identified | preparing | offered => cases hi
  | draining => exact nomatch (hd : true = false)

/-- The line changes while no session is open; a line that goes to SETUP leaves no step in flight. -/
theorem setLine_ports {l : LineState} (hl : l ≠ .setup) (h : ∀ p, PortFits s.line (s.ctx p) (s.step p).isSome) (p : Port) :
    PortFits (setLine l s).line ((setLine l s).ctx p) ((setLine l s).step p).isSome := by
  rw [line_setLine, show (setLine l s).ctx p = s.ctx p by simp, show (setLine l s).step p = s.step p by simp]
  exact ⟨(h p).step, fun hx => absurd hx hl⟩

/-- Sessions end on a line that is not SETUP: only the line's own state is left to fit. -/
theorem Seated.of_ended (h : ∀ p, PortFits s.line (s.ctx p) (s.step p).isSome) (he : SessionsEnd s t)
    (hnone : ∀ p, inSession (t.ctx p) = false) (hst : s.stream = none) : Seated t where
  ports p := he.line ▸ he.ports p (h p)
  sessions p hp := by rw [hnone] at hp; cases hp
  stream hs := absurd (he.stream.trans hst) hs

/-- With every session ended, a close that finishes leaves the ports seated. -/
theorem seated_closeFinish (h : Seated s) : Seated (closeFinish s) := by
  unfold closeFinish
  split
  next tag hl =>
    have hnone : ∀ p, inSession (s.ctx p) = false := fun p => Bool.eq_false_iff.2 fun hi => by
      rcases h.sessions p hi with hx | hx <;> rw [hl] at hx <;> cases hx
    split
    · exact h
    next hd =>
      refine Seated.line_ended (s := s) h.ports (fun _ _ p => ?_) (fun _ => by simp) (fun _ => by simp) hnone fun _ => ?_
      · simpa using hasStep_of_quiet (hnone p) (anyDraining_eq_false (Bool.eq_false_iff.2 hd) p)
      · simp [line_setLine]
  · exact h

theorem seated_lineClose (h : Seated s) (tag : Byte) : Seated (lineClose tag s) := by
  have hkeep : ∀ (k : Byte) st c b, Seated (respond tag k st c b s) := fun _ _ _ _ =>
    h.of_eq (by simp) (by simp) (by simp) (by simp)
  have hclose : (s.line = .live ∨ s.line = .paused) → Seated (beginClose tag s) := fun hl => by
    obtain ⟨hends, hnone⟩ := sessionsEnd_endAllSessions (s := setLine (.closing tag) s) .lineClosed
    refine seated_closeFinish (.of_ended (setLine_ports (l := .closing tag) (by simp) h.ports) hends hnone ?_)
    have hstream : (setLine (.closing tag) s).stream = s.stream := by simp
    rw [hstream]
    by_contra hst
    have hset := h.stream hst
    rw [hset] at hl
    simp at hl
  unfold lineClose
  split
  · exact hkeep ..
  next hl => exact hclose (.inl hl)
  next hl => exact hclose (.inr hl)
  · exact hkeep ..
  · exact hkeep ..

end

end Sys2Proof.Machine
end

section
/-! Each transaction of the part keeps the ports seated. -/

namespace Sys2Proof.Machine
open Sys2Proof.Safety

section
variable {s t u : State}

/-! ### Zeroise (R103) -/

theorem ctx_zeroiseStart (p : Port) : (zeroiseStart s).ctx p = s.ctx p := by
  have h : (zeroiseClose s.line (setLine .zeroised s)).ctx p = s.ctx p := by
    unfold zeroiseClose
    split <;> simp
  exact h

theorem step_zeroiseStart (p : Port) : (zeroiseStart s).step p = s.step p := by
  have h : (zeroiseClose s.line (setLine .zeroised s)).step p = s.step p := by
    unfold zeroiseClose
    split <;> simp
  exact h

theorem line_zeroiseStart : (zeroiseStart s).line = .zeroised := by
  have h : (zeroiseClose s.line (setLine .zeroised s)).line = .zeroised := by
    unfold zeroiseClose
    split <;> simp [line_setLine]
  exact h

theorem zeroiseCeremony_seats :
    (zeroiseCeremony s).line = s.line ∧ (∀ p, (zeroiseCeremony s).ctx p = s.ctx p) ∧ ∀ p, (zeroiseCeremony s).step p = s.step p := by
  unfold zeroiseCeremony
  split
  · exact ⟨by simp, by simp, by simp⟩
  · exact ⟨rfl, fun _ => rfl, fun _ => rfl⟩

theorem seated_zeroisePart (h : ∀ p, hasStep (s.ctx p) = (s.step p).isSome) (cause : TamperCause) : Seated (zeroisePart cause s) := by
  obtain ⟨hline, hctx, hstep⟩ := zeroiseCeremony_seats (s := zeroiseStart s)
  have hfits : ∀ p, PortFits (zeroiseWork (zeroiseStart s)).line ((zeroiseWork (zeroiseStart s)).ctx p)
      ((zeroiseWork (zeroiseStart s)).step p).isSome := fun p => by
    have hl : (zeroiseWork (zeroiseStart s)).line = .zeroised := hline.trans line_zeroiseStart
    have hc : (zeroiseWork (zeroiseStart s)).ctx p = s.ctx p := (hctx p).trans (ctx_zeroiseStart p)
    have hs : (zeroiseWork (zeroiseStart s)).step p = s.step p := (hstep p).trans (step_zeroiseStart p)
    rw [hl, hc, hs]
    exact ⟨h p, nofun⟩
  obtain ⟨hends, hnone⟩ := sessionsEnd_endAllSessions (s := zeroiseWork (zeroiseStart s)) .zeroised
  have hseated : Seated (endAllSessions .zeroised (zeroiseWork (zeroiseStart s))) := .of_ended hfits hends hnone rfl
  rw [zeroisePart_eq]
  exact hseated.of_eq (by simp [tamperJournal]) (by simp [tamperJournal]) (fun _ => by simp [tamperJournal])
    fun _ => by simp [tamperJournal]

/-! ### Requests -/

/-- A change of the line between LIVE and PAUSED, or of the stream, with the ports left alone. -/
theorem Seated.supervised (h : Seated s) (hl : t.line = s.line ∨ (s.line = .live ∨ s.line = .paused) ∧ (t.line = .live ∨ t.line = .paused))
    (hst : s.line ≠ .setup → s.stream = none → t.stream = none)
    (hc : ∀ p, t.ctx p = s.ctx p) (hs : ∀ p, t.step p = s.step p) : Seated t where
  ports p := by
    have hp := h.ports p
    rw [hc, hs]
    rcases hl with hl | ⟨-, hl⟩
    · rw [hl]; exact hp
    · exact ⟨hp.step, fun hx => by rw [hx] at hl; simp at hl⟩
  sessions p hp := by
    rw [hc] at hp
    rcases hl with hl | ⟨-, hl⟩
    · rw [hl]; exact h.sessions p hp
    · exact hl
  stream ht := by
    have hset : s.line = .setup := by
      by_contra hne
      exact ht (hst hne (by_contra fun hsome => hne (h.stream hsome)))
    rcases hl with hl | ⟨hl, -⟩
    · exact hl.trans hset
    · rw [hset] at hl; simp at hl

/-- Only LINE_PAUSE and LINE_RESUME move the line (R98, R99). -/
theorem line_lightRequest_moves {c : Instr} (h : lightRequest c = true) :
    (requestHandler c s).line = s.line
      ∨ (s.line = .live ∨ s.line = .paused) ∧ ((requestHandler c s).line = .live ∨ (requestHandler c s).line = .paused) := by
  cases c <;> simp only [lightRequest, Bool.false_eq_true] at h <;> simp only [requestHandler]
  case linePause =>
    unfold linePause
    split
    next hl => exact .inr ⟨.inl hl, .inr (by simp [line_setLine])⟩
    next => exact .inl rfl
  case lineResume =>
    unfold lineResume
    split
    next hl => exact .inr ⟨.inr hl, .inl (by simp [line_setLine])⟩
    next => exact .inl rfl
  case profileBegin => unfold profileBegin; split <;> exact .inl rfl
  case profileBlock => unfold profileBlock spoil; (repeat' split) <;> exact .inl rfl
  case slotQuery => unfold slotQuery; split <;> exact .inl rfl
  case regAdd => unfold regAdd regAddChecked; (repeat' split) <;> exact .inl rfl
  case regQuery => unfold regQuery; (repeat' split) <;> exact .inl rfl
  case regSetState => unfold regSetState setEntryState; (repeat' split) <;> exact .inl rfl
  case regRemove => unfold regRemove removeEntry; (repeat' split) <;> exact .inl rfl
  case regScan => unfold regScan; split <;> exact .inl rfl
  case counterRead => unfold counterRead; (repeat' split) <;> exact .inl rfl
  case journalRead => unfold journalRead; split <;> exact .inl rfl
  case journalRelease => unfold journalRelease; simp only; (repeat' split) <;> exact .inl rfl
  case status => unfold statusRequest clearCountsIf; split <;> exact .inl rfl
  all_goals exact .inl rfl

theorem seated_lightRequest (h : Seated s) {c : Instr} (hc : lightRequest c = true) : Seated (requestHandler c s) := by
  have hframe := lightRequest_frame hc s
  have hctx := fun p => congrArg (fun x : State => x.ctx p) hframe
  have hstep := fun p => congrArg (fun x : State => x.step p) hframe
  exact h.supervised (line_lightRequest_moves hc) (stream_lightRequest hc) hctx hstep

/-- A handler that leaves line, stream and ports alone. -/
theorem Seated.of_withImport (h : Seated s) (ht : withImport s t = s) : Seated t := by
  have hctx := fun p => congrArg (fun x : State => x.ctx p) ht
  have hstep := fun p => congrArg (fun x : State => x.step p) ht
  exact h.of_eq (congrArg State.line ht :) (congrArg State.stream ht :) hctx hstep

theorem Seated.of_withCeremony (h : Seated s) (ht : withCeremony s t = s) : Seated t := by
  have hctx := fun p => congrArg (fun x : State => x.ctx p) ht
  have hstep := fun p => congrArg (fun x : State => x.step p) ht
  exact h.of_eq (congrArg State.line ht :) (congrArg State.stream ht :) hctx hstep

/-! ### PROFILE_COMMIT (R81, R85) -/

theorem contextUnder_quiet {e : PortEntry} {b : Bench} (hi : inSession b.ctx = false) (hs : hasStep b.ctx = false) :
    inSession (contextUnder e b) = false ∧ hasStep (contextUnder e b) = false := by
  unfold contextUnder
  split
  · exact ⟨rfl, rfl⟩
  · split
    · split <;> exact ⟨rfl, rfl⟩
    · exact ⟨hi, hs⟩

theorem ctx_commitProfile (tag : Byte) (check : Check32) (staged : Staged) (a : Applied) (p : Port) :
    (commitProfile tag check staged a s).ctx p = contextUnder (staged.profile.ports.get p) (s.bench p) := by
  obtain ⟨-, hbench⟩ := applyPortTable_spec staged.profile.ports
    { s with store := { s.store with profile := some staged.profile, registry := a.registry } }
  have hkeep : ∀ b u, (respond tag 0x03 .ok false b u).ctx p = u.ctx p := fun _ _ => rfl
  exact (hkeep ..).trans ((State.ctx_of_setFlagIf ..).trans (congrArg Bench.ctx (hbench p)))

theorem stream_commitProfile (tag : Byte) (check : Check32) (staged : Staged) (a : Applied) :
    (commitProfile tag check staged a s).stream = s.stream := by
  have hrest := (applyPortTable_spec staged.profile.ports
    { s with store := { s.store with profile := some staged.profile, registry := a.registry } }).1
  have hkeep : ∀ b u, (respond tag 0x03 .ok false b u).stream = u.stream := fun _ _ => rfl
  exact (hkeep ..).trans ((State.setFlagIf_stream ..).trans (congrArg State.stream hrest :))

/-- A commit changes contexts only with a stream, and then under the port table. -/
theorem ctx_profileCommit (tag : Byte) (check : Check32) :
    (∀ p, (profileCommit tag check s).ctx p = s.ctx p)
      ∨ s.stream ≠ none ∧ ∃ e : Port → PortEntry, ∀ p, (profileCommit tag check s).ctx p = contextUnder (e p) (s.bench p) := by
  unfold profileCommit
  split
  · exact .inl fun _ => rfl
  next stream hst =>
    simp only
    split
    · exact .inl fun _ => rfl
    · split
      · exact .inl fun _ => rfl
      · split
        · exact .inl fun _ => rfl
        next staged _ =>
          split
          · exact .inl fun _ => rfl
          next => exact .inr ⟨by rw [hst]; nofun, _, fun p => ctx_commitProfile tag check staged _ p⟩

theorem stream_profileCommit (tag : Byte) (check : Check32) : (profileCommit tag check s).stream = none := by
  unfold profileCommit
  split
  next h => exact h
  next =>
    simp only
    split
    · rfl
    · split
      · rfl
      · split
        · rfl
        next staged _ =>
          split
          · rfl
          next => exact stream_commitProfile ..

theorem seated_profileCommit (h : Seated s) (tag : Byte) (check : Check32) : Seated (profileCommit tag check s) := by
  have hframe := profileCommit_frame (s := s) tag check
  have hl : (profileCommit tag check s).line = s.line := (congrArg State.line hframe :)
  have hstep := fun p => congrArg (fun x : State => x.step p) hframe
  have hstream := stream_profileCommit (s := s) tag check
  rcases ctx_profileCommit (s := s) tag check with hc | ⟨hst, e, hc⟩
  · exact h.supervised (.inl hl) (fun _ _ => hstream) hc hstep
  · have hset := h.stream hst
    have hquiet : ∀ p, inSession ((profileCommit tag check s).ctx p) = false ∧ hasStep ((profileCommit tag check s).ctx p) = false := fun p => by
      rw [hc]
      refine contextUnder_quiet (Bool.eq_false_iff.2 fun hi => ?_) ((h.ports p).setup hset)
      rcases h.sessions p hi with hx | hx <;> rw [hset] at hx <;> cases hx
    refine ⟨fun p => ?_, fun p hp => ?_, fun hs => absurd hstream hs⟩
    · have hnone : (s.step p).isSome = false := (h.ports p).step.symm.trans ((h.ports p).setup hset)
      rw [show (profileCommit tag check s).step p = s.step p from hstep p, hnone]
      exact .empty (hquiet p).2
    · rw [(hquiet p).1] at hp; cases hp

end

end Sys2Proof.Machine
end

section
/-! What an admission finds and writes (R8-R10). -/

namespace Sys2Proof.Machine
open Sys2Proof.Safety

section
variable {s t u : State} {p : Port} {kind : StepType} {source cover : SlotIx} {a : Admission} {k c : HeldKey}

/-- The counter of a DERIVED step is allocated; a SHARED step takes none (R10). -/
def allocated (source : SlotIx) (key : HeldKey) (derivation : Option (Nat × Nat)) (s : State) : State :=
  derivation.elim s fun d => allocateCounter source key d.1 d.2 s

/-- Both in-use counts rise (R8). -/
def bothRaised (source cover : SlotIx) (s : State) : State := raiseInUse cover (raiseInUse source s)

/-- What the admission of a step has found and what it hands over (R9). -/
structure Admits (p : Port) (kind : StepType) (source cover : SlotIx) (a : Admission) (s : State) : Prop where
  key : (s.slot source).content = .active a.source
  fits : SourceFits kind a.source a.derivation
  coverKey : (s.slot cover).content = .active a.cover
  transport : a.cover.use = .transport
  sourceGen : a.sourceGen = (s.slot source).generation
  coverGen : a.coverGen = (s.slot cover).generation
  grantsSource : granted source p s
  grantsCover : granted cover p s

theorem sourceFits_not_transport {d : Option (Nat × Nat)} (h : SourceFits kind k d) : k.use ≠ .transport := by
  rcases h with ⟨-, h, -⟩ | ⟨-, _, _, h, -⟩ <;> rw [h] <;> nofun

/-- The source of an admitted step is another slot than its cover. -/
theorem Admits.ne (h : Admits p kind source cover a s) : source ≠ cover := fun he => by
  have hkey := SlotContent.active.inj (h.key.symm.trans (he ▸ h.coverKey))
  exact sourceFits_not_transport h.fits (by rw [hkey]; exact h.transport)

theorem admitCover_admitted {d : Option (Nat × Nat)} (h : admitCover p source cover k d s = .admitted a t)
    (hk : (s.slot source).content = .active k) (hf : SourceFits kind k d) (hg : granted source p s) :
    Admits p kind source cover a s ∧ t = allocated source a.source a.derivation (bothRaised source cover s) := by
  unfold admitCover at h
  split at h
  · cases h
  next hgc =>
    have hgrant : granted cover p s := (grantsPort_iff ..).1 (by simpa using hgc)
    split at h
    next c hc =>
      split at h
      next htr =>
        cases d <;> cases h
        all_goals exact ⟨⟨hk, hf, hc, htr, rfl, rfl, hg, hgrant⟩, rfl⟩
      next => cases h
    next => cases h

theorem admitStep_admitted (h : admitStep p kind source cover s = .admitted a t) :
    Admits p kind source cover a s ∧ t = allocated source a.source a.derivation (bothRaised source cover s) := by
  unfold admitStep at h
  split at h
  · cases h
  next hg =>
    have hgrant : granted source p s := (grantsPort_iff ..).1 (by simpa using hg)
    split at h
    · cases h
    next k hk =>
      split at h
      next hu => exact admitCover_admitted h hk (.inl ⟨rfl, hu, rfl⟩) hgrant
      next => cases h
    next k hk =>
      split at h
      next keySet next hu => exact admitCover_admitted h hk (.inr ⟨rfl, keySet, next, hu, rfl⟩) hgrant
      next => cases h
    · cases h

/-! ### What the admission leaves unchanged -/

theorem ctx_allocated (d : Option (Nat × Nat)) (q : Port) : (allocated source k d s).ctx q = s.ctx q := by
  cases d <;> simp [allocated, allocateCounter]

theorem step_allocated (d : Option (Nat × Nat)) (q : Port) : (allocated source k d s).step q = s.step q := by
  cases d <;> simp [allocated, allocateCounter]

theorem admitStep_seats (h : admitStep p kind source cover s = .admitted a t) (q : Port) :
    t.ctx q = s.ctx q ∧ t.step q = s.step q := by
  obtain ⟨-, rfl⟩ := admitStep_admitted h
  rw [ctx_allocated, step_allocated]
  exact ⟨rfl, rfl⟩

/-- The slots after an admission. -/
theorem slot_bothRaised (hne : source ≠ cover) (i : SlotIx) :
    (bothRaised source cover s).slot i
      = { s.slot i with inUse := (s.slot i).inUse + (if source = i then 1 else 0) + if cover = i then 1 else 0 } := by
  simp only [bothRaised, raiseInUse, State.slot_setSlot]
  by_cases hc : cover = i
  · subst hc
    simp [hne]
  · by_cases hs : source = i
    · subst hs; simp [hc]
    · simp [hc, hs]

theorem slot_allocated (d : Option (Nat × Nat)) (i : SlotIx) :
    ((allocated source k d s).slot i).inUse = (s.slot i).inUse
      ∧ ((allocated source k d s).slot i).generation = (s.slot i).generation
      ∧ (source ≠ i → ((allocated source k d s).slot i).content = (s.slot i).content) := by
  cases d with
  | none => exact ⟨rfl, rfl, fun _ => rfl⟩
  | some x =>
    by_cases hi : source = i
    · subst hi; simp [allocated, allocateCounter]
    · simp [allocated, allocateCounter, State.slot_setSlot, hi]

end

end Sys2Proof.Machine
end

section
/-! The bench ports' messages, job completions, presence and expiries keep the ports seated. -/

namespace Sys2Proof.Machine
open Sys2Proof.Safety

section
variable {s t u : State}

/-- Only the contexts of one port differ, and its new context fits. -/
structure ContextMove (p : Port) (s t : State) : Prop where
  others : ∀ q, q ≠ p → t.ctx q = s.ctx q
  own : t.ctx p = s.ctx p ∨ hasStep (s.ctx p) = false ∧ hasStep (t.ctx p) = false ∧ (inSession (t.ctx p) = true → s.line = .live)

theorem Seated.moved (h : Seated s) {p : Port} (hc : ContextMove p s t) (hl : t.line = s.line) (hst : t.stream = s.stream)
    (hs : ∀ q, t.step q = s.step q) : Seated t := by
  refine h.at p hl hst hc.others (fun q _ => hs q) ?_ fun hi => ?_
  · rw [hs]
    rcases hc.own with ho | ⟨hold, hnew, -⟩
    · rw [ho]; exact h.ports p
    · have hnone : (s.step p).isSome = false := (h.ports p).step.symm.trans hold
      rw [hnone]
      exact .empty hnew
  · rcases hc.own with ho | ⟨-, -, hlive⟩
    · exact h.sessions p (ho ▸ hi)
    · exact .inl (hlive hi)

/-! ### HELLO (R154-R157) -/

theorem ctx_verdict (p q : Port) (st : Status) : (verdict p st s).ctx q = s.ctx q := ctx_pushBench ..

theorem ctx_helloRefused (p q : Port) (st : Status) : (helloRefused p st s).ctx q = if p = q then .finished else s.ctx q := by
  rw [helloRefused, State.ctx_setCtx, ctx_verdict]

theorem ctx_findForHello (serial : Serial) (model : ModelCode) (q : Port) : ((findForHello serial model s).2).ctx q = s.ctx q := by
  unfold findForHello
  simp only
  (repeat' split) <;> rfl

/-- HELLO in ATTACHED leaves the port IDENTIFIED on a LIVE line, or FINISHED. -/
theorem contextMove_helloRefused {p : Port} (st : Status) (hc : ∀ q, u.ctx q = s.ctx q) (h : hasStep (s.ctx p) = false) :
    ContextMove p s (helloRefused p st u) where
  others q hq := by rw [ctx_helloRefused, if_neg (Ne.symm hq), hc]
  own := .inr ⟨h, by rw [ctx_helloRefused, if_pos rfl]; exact ⟨rfl, nofun⟩⟩

theorem contextMove_bindSession {p : Port} (e : Entry) (r : Recipe) (hc : ∀ q, u.ctx q = s.ctx q) (h : hasStep (s.ctx p) = false)
    (hl : s.line = .live) : ContextMove p s (bindSession p e r u) := by
  unfold bindSession
  simp only
  split
  · exact contextMove_helloRefused _ hc h
  · refine ⟨fun q hq => ?_, .inr ⟨h, ?_, fun _ => hl⟩⟩
    · rw [ctx_pushBench, State.ctx_setCtx, if_neg (Ne.symm hq)]; exact hc q
    · rw [ctx_pushBench, State.ctx_setCtx_self]; rfl

theorem contextMove_helloFound {p : Port} (serial : Serial) (model : ModelCode) (h : hasStep (s.ctx p) = false) (hl : s.line = .live) :
    ContextMove p s (helloFound p serial model s) := by
  have hctx := ctx_findForHello (s := s) serial model
  unfold helloFound
  split
  all_goals
    rename_i hfind
    rw [hfind] at hctx
  case h_1 => exact contextMove_helloRefused _ hctx h
  case h_7 =>
    split
    · exact contextMove_helloRefused _ hctx h
    · exact contextMove_bindSession _ _ hctx h hl
  all_goals exact contextMove_helloRefused _ hctx h

theorem ContextMove.of_eq {p : Port} (h : ∀ q, t.ctx q = s.ctx q) : ContextMove p s t := ⟨fun q _ => h q, .inl (h p)⟩

theorem contextMove_hello (p : Port) (serial : Serial) (model : ModelCode) : ContextMove p s (hello p serial model s) := by
  have hverdict : ∀ st, ContextMove p s (verdict p st s) := fun st => .of_eq fun q => ctx_verdict ..
  unfold hello
  split
  next hctx =>
    have hquiet : hasStep (s.ctx p) = false := by rw [hctx]; rfl
    unfold helloTaken
    split
    next hl =>
      split
      · exact contextMove_helloFound serial model hquiet hl
      · exact contextMove_helloRefused _ (fun _ => rfl) hquiet
    · exact hverdict _
    · exact hverdict _
  · exact hverdict _

theorem seated_hello (h : Seated s) (p : Port) (serial : Serial) (model : ModelCode) : Seated (hello p serial model s) := by
  have hframe := hello_frame (s := s) p serial model
  have hstep := fun q => congrArg (fun x : State => x.step q) hframe
  exact h.moved (contextMove_hello p serial model) (congrArg State.line hframe :) (congrArg State.stream hframe :) hstep

/-! ### FETCH (R158-R160) -/

theorem seats_requestReservation (h : ResHolder) (q : Port) :
    (requestReservation h s).2.ctx q = s.ctx q ∧ (requestReservation h s).2.step q = s.step q := by
  rcases Nat.lt_or_ge s.journal.occupancy 511 with hf | hf
  · rw [requestReservation_granted hf]; simp [reserved]
  · rw [requestReservation_refused hf]; exact ⟨rfl, rfl⟩

theorem seats_startStep (p : Port) (ss : Session) (index : Nat) (st : RecipeStep) (a : Admission) (q : Port) :
    (startStep p ss index st a s).ctx q = (if p = q then .preparing ss else s.ctx q)
      ∧ (startStep p ss index st a s).step q = if p = q then some (stepRecord p ss index st a) else s.step q := by
  simp [startStep, State.ctx_setCtx, State.step_setStep]

/-- What a FETCH writes at the ports: nothing, or a step in flight at its own port in PREPARING. -/
theorem seats_admitFetch (p : Port) (ss : Session) (index : Nat) (st : RecipeStep) (q : Port) :
    (admitFetch p ss index st s).ctx q = s.ctx q ∧ (admitFetch p ss index st s).step q = s.step q
      ∨ p = q ∧ (admitFetch p ss index st s).ctx q = .preparing ss ∧ ((admitFetch p ss index st s).step q).isSome = true := by
  have hres := seats_requestReservation (s := s) (.bench p) q
  unfold admitFetch
  split
  next s1 heq =>
    rw [heq] at hres
    exact .inl ⟨(ctx_verdict ..).trans hres.1, by simpa using hres.2⟩
  next s1 heq =>
    rw [heq] at hres
    split
    · refine .inl ⟨(ctx_verdict ..).trans ?_, ?_⟩
      · simpa using hres.1
      · simpa using hres.2
    next a s2 ha =>
      obtain ⟨hctx, hstep⟩ := admitStep_seats ha q
      obtain ⟨hc, hs⟩ := seats_startStep (s := s2) p ss index st a q
      rw [hc, hs]
      split
      next hp => exact .inr ⟨hp, rfl, rfl⟩
      next => exact .inl ⟨hctx.trans hres.1, hstep.trans hres.2⟩

/-- What a FETCH may write at the ports. -/
structure FetchSeats (p : Port) (s t : State) (q : Port) : Prop where
  seats : t.ctx q = s.ctx q ∧ t.step q = s.step q
    ∨ p = q ∧ s.line = .live ∧ hasStep (t.ctx q) = true ∧ (t.step q).isSome = true

theorem seats_fetchStep (p : Port) (index : Nat) (q : Port) : FetchSeats p s (fetchStep p index s) q := by
  have hverdict : ∀ st, FetchSeats p s (verdict p st s) q := fun st => ⟨.inl ⟨ctx_verdict .., by simp⟩⟩
  unfold fetchStep
  split
  next ss idle _ =>
    unfold fetchTaken
    split
    · exact hverdict _
    next hl =>
      split
      · exact hverdict _
      next st _ =>
        split
        · exact hverdict _
        · refine ⟨(seats_admitFetch p ss index st q).imp_right fun ⟨hp, hc, hs⟩ => ⟨hp, by simpa using hl, ?_, hs⟩⟩
          rw [hc]; rfl
  · exact hverdict _

theorem seated_fetchStep (h : Seated s) (p : Port) (index : Nat) : Seated (fetchStep p index s) := by
  have hframe := fetchStep_frame (s := s) p index
  have hl : (fetchStep p index s).line = s.line := (congrArg State.line hframe :)
  have hst : (fetchStep p index s).stream = s.stream := (congrArg State.stream hframe :)
  have hothers : ∀ q, q ≠ p → (fetchStep p index s).ctx q = s.ctx q ∧ (fetchStep p index s).step q = s.step q := fun q hq =>
    (seats_fetchStep p index q).seats.resolve_right fun hp => hq hp.1.symm
  refine h.at p hl hst (fun q hq => (hothers q hq).1) (fun q hq => (hothers q hq).2) ?_ fun hi => ?_
  · rcases (seats_fetchStep (s := s) p index p).seats with ⟨hc, hs⟩ | ⟨-, hlive, hc, hs⟩
    · rw [hc, hs]; exact h.ports p
    · exact ⟨hc.trans hs.symm, fun hset => by rw [hlive] at hset; cases hset⟩
  · rcases (seats_fetchStep (s := s) p index p).seats with ⟨hc, -⟩ | ⟨-, hlive, -, -⟩
    · exact h.sessions p (hc ▸ hi)
    · exact .inl hlive

/-! ### CONFIRM (R163, R164) and BYE (R165) -/

/-- The step at a port ends, and the session goes on without it or ends. -/
theorem Seated.stepEnded (h : Seated s) {p : Port} (hold : inSession (s.ctx p) = true) (hl : t.line = s.line) (hst : t.stream = s.stream)
    (hc : ∀ q, q ≠ p → t.ctx q = s.ctx q) (hs : ∀ q, t.step q = if p = q then none else s.step q) (hnew : hasStep (t.ctx p) = false) :
    Seated t := by
  refine h.at p hl hst hc (fun q hq => by rw [hs, if_neg (Ne.symm hq)]) ?_ fun _ => h.sessions p hold
  rw [hs, if_pos rfl]
  exact .empty hnew

theorem seated_confirmMatch (h : Seated s) {p : Port} (ss : Session) (ps : PendingStep) (kcv : Kcv) (hold : inSession (s.ctx p) = true) :
    Seated (confirmMatch p ss ps kcv s) := by
  unfold confirmMatch
  simp only
  split <;> refine h.stepEnded hold (by simp) (by simp) (fun q hq => ?_) (fun q => by simp [step_endStep]) (by simp [hasStep])
  all_goals simp [State.ctx_setCtx, Ne.symm hq]

theorem seated_confirmMismatch (h : Seated s) {p : Port} (ss : Session) (ps : PendingStep) (hold : inSession (s.ctx p) = true) :
    Seated (confirmMismatch p ss ps s) := by
  unfold confirmMismatch
  simp only
  split <;> refine h.stepEnded hold (by simp) (by simp) (fun q hq => ?_) (fun q => by simp [step_endStep]) (by simp [hasStep])
  all_goals simp [State.ctx_setCtx, Ne.symm hq]

theorem seated_verdict (h : Seated s) (p : Port) (st : Status) : Seated (verdict p st s) :=
  h.of_eq (by simp) (by simp) (fun _ => ctx_verdict ..) (by simp)

theorem seated_confirm (h : Seated s) (p : Port) (index : Nat) (kcv : Kcv) : Seated (confirm p index kcv s) := by
  unfold confirm
  split
  next ss idle ps hctx _ =>
    have hold : inSession (s.ctx p) = true := by rw [hctx]; rfl
    split
    · exact seated_verdict h ..
    · split
      · exact seated_confirmMatch h ss ps kcv hold
      · exact seated_confirmMismatch h ss ps hold
  · exact seated_verdict h ..

theorem seated_bye (h : Seated s) (p : Port) : Seated (bye p s) := by
  unfold bye
  split
  case h_4 => exact seated_verdict h ..
  all_goals exact seated_verdict (seated_endSession h ..) ..

theorem seated_benchHandler (h : Seated s) (c : Instr) : Seated (benchHandler c s) := by
  cases c
  case hello p serial model => exact seated_hello h p serial model
  case fetch p index => exact seated_fetchStep h p index
  case confirm p index kcv => exact seated_confirm h p index kcv
  case bye p => exact seated_bye h p
  case benchBadMessage p => exact seated_verdict h ..
  all_goals exact h

theorem seated_heardAt (h : Seated s) (p : Port) : Seated (heardAt p s) := by
  have hc : ∀ q, (heardAt p s).ctx q = if p = q then restarted (sessionTimer s) (s.ctx p) else s.ctx q := fun q => by
    rw [heardAt, State.ctx, State.bench_setBench]
    split <;> rfl
  have hown : hasStep (restarted (sessionTimer s) (s.ctx p)) = hasStep (s.ctx p)
      ∧ inSession (restarted (sessionTimer s) (s.ctx p)) = inSession (s.ctx p) := by
    cases s.ctx p <;> exact ⟨rfl, rfl⟩
  refine h.at p rfl rfl (fun q hq => by rw [hc, if_neg (Ne.symm hq)]) (fun _ _ => rfl) ?_ fun hi => ?_
  · rw [hc, if_pos rfl]
    exact ⟨hown.1.trans (h.ports p).step, fun hl => hown.1.trans ((h.ports p).setup hl)⟩
  · rw [hc, if_pos rfl, hown.2] at hi
    exact h.sessions p hi

/-! ### Job completions (R161, R168) -/

theorem drainedContext_quiet (present mark : Bool) :
    inSession (drainedContext present mark) = false ∧ hasStep (drainedContext present mark) = false := by
  cases present <;> cases mark <;> exact ⟨rfl, rfl⟩

theorem seated_drainComplete (h : Seated s) (p : Port) : Seated (drainComplete p s) := by
  unfold drainComplete
  split
  next reason mark hctx =>
    simp only
    obtain ⟨hin, hstep⟩ := drainedContext_quiet ((voidStep p (fun _ => none) reason s).bench p).present mark
    refine seated_closeFinish (h.at p (by simp) (by simp) (fun q hq => ?_) (fun q hq => ?_) ?_ fun hi => ?_)
    · rw [State.ctx_setCtx, if_neg (Ne.symm hq)]; simp
    · rw [State.step_of_setCtx, step_voidStep, if_neg (Ne.symm hq)]
    · rw [State.ctx_setCtx_self, State.step_of_setCtx, step_voidStep, if_pos rfl]
      exact .empty hstep
    · rw [State.ctx_setCtx_self, hin] at hi; cases hi
  · exact h

theorem seated_offerStep (h : Seated s) {p : Port} {ss : Session} (hctx : s.ctx p = .preparing ss) (envelope : TerminalEnvelope) (kcv : Kcv) :
    Seated (offerStep p ss envelope kcv s) := by
  unfold offerStep
  split
  · exact h
  next ps hps =>
    have hp := h.ports p
    rw [hctx, hps] at hp
    refine h.at p (by simp) (by simp) (fun q hq => ?_) (fun q hq => ?_) ?_ fun _ => h.sessions p (by rw [hctx]; rfl)
    · rw [ctx_pushBench, State.ctx_setCtx, if_neg (Ne.symm hq)]; rfl
    · simp [State.step_setStep, Ne.symm hq]
    · rw [ctx_pushBench, State.ctx_setCtx_self]
      exact ⟨by simp [hasStep], hp.setup⟩

theorem seated_prepareHandled (h : Seated s) (j : Job) : Seated (prepareHandled j s) := by
  unfold prepareHandled
  split
  · exact h
  · split
    · exact seated_drainComplete h _
    · split
      next hctx _ =>
        split
        · exact h
        · exact seated_offerStep h hctx ..
      next => exact h

/-! ### Presence and idle expiry (R152, R153, R171) -/

/-- A bench link changes; its port's context goes from one without session or step to another. -/
theorem Seated.bench (h : Seated s) {p : Port} {b : Bench} (hown : b.ctx = s.ctx p ∨ hasStep b.ctx = hasStep (s.ctx p) ∧ inSession b.ctx = false) :
    Seated (s.setBench p b) := by
  have hself : (s.setBench p b).ctx p = b.ctx := by rw [State.ctx, State.bench_setBench, if_pos rfl]
  refine h.at p rfl rfl (fun q hq => ?_) (fun _ _ => rfl) ?_ fun hi => ?_
  · rw [State.ctx, State.bench_setBench, if_neg (Ne.symm hq)]; rfl
  · rw [hself]
    rcases hown with ho | ⟨ho, -⟩
    · rw [ho]; exact h.ports p
    · exact ⟨ho.trans (h.ports p).step, fun hl => ho.trans ((h.ports p).setup hl)⟩
  · rw [hself] at hi
    rcases hown with ho | ⟨-, ho⟩
    · exact h.sessions p (ho ▸ hi)
    · rw [ho] at hi; cases hi

theorem seated_setCtx (h : Seated s) {p : Port} {c : PortContext} (hs : hasStep c = hasStep (s.ctx p)) (hi : inSession c = false) :
    Seated (s.setCtx p c) := h.bench (.inr ⟨hs, hi⟩)

theorem seated_terminalArrives (h : Seated s) (p : Port) : Seated (terminalArrives p s) := by
  have hpresent : Seated (s.setBench p { s.bench p with present := true }) := h.bench (.inl rfl)
  unfold terminalArrives
  simp only
  split
  · exact hpresent
  · split
    next hctx =>
      refine seated_setCtx hpresent ?_ rfl
      rw [State.ctx, State.bench_setBench, if_pos rfl]
      simp only [hctx]
      rfl
    next => exact hpresent

theorem seated_terminalLeaves (h : Seated s) (p : Port) : Seated (terminalLeaves p s) := by
  unfold terminalLeaves
  simp only
  split
  · exact h
  · split
    · exact h.bench (.inl rfl)
    · have hgone : Seated (s.setBench p { s.bench p with present := false, rx := .idle, tx := [] }) := h.bench (.inl rfl)
      generalize s.setBench p { s.bench p with present := false, rx := .idle, tx := [] } = u at hgone
      unfold contextDetached
      split
      next hctx => exact seated_setCtx hgone (by rw [hctx]; rfl) rfl
      next hctx => exact seated_setCtx hgone (by rw [hctx]; rfl) rfl
      next hctx => exact seated_setCtx hgone (by rw [hctx]; rfl) rfl
      next => exact seated_endSession hgone ..

theorem seated_sessionIdleExpired (h : Seated s) (p : Port) : Seated (sessionIdleExpired p s) := by
  unfold sessionIdleExpired
  split
  · exact seated_endSession h ..
  · exact h

end

end Sys2Proof.Machine
end

section
/-! ACCEPT, the levels and the reset keep the ports seated. -/

namespace Sys2Proof.Machine
open Sys2Proof.Safety

section
variable {s t u : State}

/-! ### ACCEPT (R45, R53) -/

/-- A ceremony's completion leaves line and stream alone, or opens the line and ends the stream. -/
structure LineOpens (s t : State) : Prop where
  line : t.line = s.line ∧ t.stream = s.stream ∨ t.line = .live ∧ t.stream = none

theorem LineOpens.keep (h : LineOpens s u) (hl : t.line = u.line) (hst : t.stream = u.stream) : LineOpens s t :=
  ⟨h.line.imp (fun ⟨a, b⟩ => ⟨hl.trans a, hst.trans b⟩) fun ⟨a, b⟩ => ⟨hl.trans a, hst.trans b⟩⟩

theorem LineOpens.after (h : LineOpens u t) (hl : u.line = s.line) (hst : u.stream = s.stream) : LineOpens s t :=
  ⟨h.line.imp_left fun ⟨a, b⟩ => ⟨a.trans hl, b.trans hst⟩⟩

theorem endLogonsOf_line (c : Cust) : (endLogonsOf c s).line = s.line ∧ (endLogonsOf c s).stream = s.stream := by
  rw [endLogonsOf_eq]
  unfold endLogonIf
  (repeat' split) <;> simp

theorem lineOpens_completeCeremony (w : CeremonyWork) (pair : Pair) : LineOpens s (completeCeremony w pair s) := by
  unfold completeCeremony
  split
  · unfold installAssembled
    split <;> exact ⟨.inl ⟨by simp, by simp⟩⟩
  · unfold approveErase
    simp only
    (repeat' split) <;> exact ⟨.inl ⟨by simp, by simp⟩⟩
  · exact ⟨.inr ⟨by simp [line_setLine], by simp⟩⟩
  · exact ⟨.inl ⟨by simp [changeCustodian], by simp [changeCustodian]⟩⟩
  · obtain ⟨hl, hst⟩ := endLogonsOf_line (s := finishCeremony w .completed .idle (changeCustodian .revoke _ pair none s)) _
    exact ⟨.inl ⟨hl.trans (by simp [changeCustodian]), hst.trans (by simp [changeCustodian])⟩⟩
  · exact ⟨.inl ⟨by simp [changeCustodian], by simp [changeCustodian]⟩⟩

theorem lineOpens_acceptCeremony (l : ConsoleLink) (p : Person) : LineOpens s (acceptCeremony l p s) := by
  unfold acceptCeremony
  split
  · split
    · exact ⟨.inl ⟨by simp, by simp⟩⟩
    · simp only
      split
      · exact (lineOpens_completeCeremony _ _).after (by simp) (by simp)
      · exact ⟨.inl ⟨by simp, by simp⟩⟩
  · exact ⟨.inl ⟨by simp, by simp⟩⟩

/-- The line opens with no stream, or stays as it is; ports are left alone. -/
theorem Seated.opens (h : Seated s) (ho : LineOpens s t) (hc : ∀ p, t.ctx p = s.ctx p) (hs : ∀ p, t.step p = s.step p) : Seated t := by
  rcases ho.line with ⟨hl, hst⟩ | ⟨hl, hst⟩
  · exact h.of_eq hl hst hc hs
  · refine ⟨fun p => ?_, fun _ _ => .inl hl, fun hx => absurd hst hx⟩
    rw [hl, hc, hs]
    exact ⟨(h.ports p).step, nofun⟩

theorem seated_acceptCeremony (h : Seated s) (l : ConsoleLink) (p : Person) : Seated (acceptCeremony l p s) := by
  have hframe := acceptCeremony_frame (s := s) l p
  have hctx := fun q => congrArg (fun x : State => x.ctx q) hframe
  have hstep := fun q => congrArg (fun x : State => x.step q) hframe
  exact h.opens (lineOpens_acceptCeremony l p) hctx hstep

theorem seated_personHandler (h : Seated s) {c : Instr} {l : ConsoleLink} {kind : Byte} (hc : consoleMessage? c = some (l, kind))
    (hn : needsLogon c = true) (p : Person) : Seated (personHandler c p s) := by
  by_cases ha : c = .accept l
  · subst ha; exact seated_acceptCeremony h l p
  · by_cases hz : c = .zeroise l
    · subst hz
      refine seated_zeroisePart (s := answer l 0x0A .ok .nothing s) (fun q => ?_) _
      have hctx : (answer l 0x0A .ok .nothing s).ctx q = s.ctx q := by simp
      have hstep : (answer l 0x0A .ok .nothing s).step q = s.step q := by simp
      rw [hctx, hstep]
      exact (h.ports q).step
    · exact h.of_withCeremony (personHandler_frame hc hn ha hz p)

/-! ### Reset (R107) -/

theorem contextAfterReset_quiet (profile : Option Profile) (p : Port) (present : Bool) :
    inSession (contextAfterReset profile p present) = false ∧ hasStep (contextAfterReset profile p present) = false := by
  unfold contextAfterReset
  (repeat' split) <;> exact ⟨rfl, rfl⟩

theorem seated_resetBlocks (cause : ResetCause) : Seated (resetBlocks cause s) := by
  have hctx : ∀ p, (resetBlocks cause s).ctx p = contextAfterReset s.profile p (s.bench p).present := fun p =>
    congrArg Bench.ctx (resetBlocks_bench cause s p)
  obtain ⟨hline, -, hstream, -⟩ := resetBlocks_fixed cause s
  refine ⟨fun p => ?_, fun p hp => ?_, fun hs => absurd hstream hs⟩
  · rw [hctx, resetBlocks_step]
    exact .empty (contextAfterReset_quiet ..).2
  · rw [hctx, (contextAfterReset_quiet ..).1] at hp
    cases hp

end

end Sys2Proof.Machine
end

section
/-! The requests, the bench messages, the job completions and the clock keep the books in order. -/

namespace Sys2Proof.Machine
open Sys2Proof.Safety

section
variable {s t u : State}

/-! ### Admission (R8-R10, R159) -/

theorem books_counterEvents (n : Nat) : booksOf (counterEvents n s) = booksOf s := by simp [booksOf]

theorem books_bothRaised (source cover : SlotIx) : booksOf (bothRaised source cover s) = booksOf s := by
  rw [bothRaised, raiseInUse, books_setSlot_same (by rfl), raiseInUse, books_setSlot_same (by rfl)]

theorem withNextCounter_key {key : HeldKey} {keySet next : Nat} :
    (withNextCounter key keySet next).key?.isSome = true ∧ ∀ k, withNextCounter key keySet next ≠ .erasing k := by
  unfold withNextCounter
  simp only
  split <;> exact ⟨rfl, nofun⟩

/-- The content of a source whose counter is allocated. -/
def contentAllocated (source : SlotIx) (key : HeldKey) (derivation : Option (Nat × Nat)) (c : SlotIx → SlotContent) : SlotIx → SlotContent :=
  derivation.elim c fun d => Function.update c source (withNextCounter key d.1 (d.2 + 1))

theorem books_allocated (source : SlotIx) (key : HeldKey) (d : Option (Nat × Nat)) :
    booksOf (allocated source key d s) = { booksOf s with content := contentAllocated source key d (booksOf s).content } := by
  cases d with
  | none => rfl
  | some x => exact (books_counterEvents _).trans (books_setSlot ..)

theorem Books.Sound.allocated {b : Books} (h : b.Sound) {source : SlotIx} {key : HeldKey} (hk : b.content source = .active key)
    (d : Option (Nat × Nat)) : Books.Sound { b with content := contentAllocated source key d b.content } := by
  cases d with
  | none => exact h
  | some x => exact h.rekey withNextCounter_key.2 withNextCounter_key.1 (by rw [hk]; rfl) (by rw [hk]; nofun)

/-- A reservation returned right after its grant leaves the journal as it was. -/
theorem returned_granted {j : Journal} {h : ResHolder} (hn : h ∉ j.reservations) : (j.granted h).returned h = j := by
  simp [Journal.granted, Journal.returned, List.erase_append_right _ hn]

theorem books_verdict (p : Port) (st : Status) : booksOf (verdict p st s) = booksOf s := books_pushBench ..

theorem books_setCtx (p : Port) (c : PortContext) : booksOf (s.setCtx p c) = booksOf s := rfl

theorem books_startStep (p : Port) (ss : Session) (index : Nat) (st : RecipeStep) (a : Admission) :
    booksOf (startStep p ss index st a s) = { booksOf s with steps := Function.update (booksOf s).steps p true } := by
  rw [startStep, books_requestJob, books_setCtx, books_setStep]
  rfl

theorem sound_admitFetch (h : (booksOf s).Sound) {p : Port} (hp : s.step p = none) (ss : Session) (index : Nat) (st : RecipeStep) :
    (booksOf (admitFetch p ss index st s)).Sound := by
  have hnone : (booksOf s).steps p = false := by simp [booksOf, hp]
  have hfree : ResHolder.bench p ∉ (booksOf s).journal.reservations := fun hm => by
    have hheld : (booksOf s).steps p = true := (h.journal.held (.bench p)).1 hm
    rw [hnone] at hheld
    cases hheld
  unfold admitFetch
  rcases Nat.lt_or_ge s.journal.occupancy 511 with hf | hf
  · rw [requestReservation_granted hf]
    simp only
    split
    · rw [books_verdict, books_returnReservation, books_reserved]
      simp only
      rw [returned_granted hfree]
      exact h
    next a t ha =>
      obtain ⟨hadmits, rfl⟩ := admitStep_admitted ha
      have hkey : (booksOf s).content st.source = .active a.source := by simpa [booksOf] using hadmits.key
      rw [books_startStep, books_allocated, books_bothRaised, books_reserved]
      exact (h.allocated hkey a.derivation).beginStep hnone hf
  · rw [requestReservation_refused hf, books_verdict]
    exact h

theorem sound_fetchStep (h : (booksOf s).Sound) (hs : Seated s) (p : Port) (index : Nat) : (booksOf (fetchStep p index s)).Sound := by
  have hverdict : ∀ st, (booksOf (verdict p st s)).Sound := fun st => by rw [books_verdict]; exact h
  unfold fetchStep
  split
  next ss idle hctx =>
    have hnone : s.step p = none := by
      have hstep := (hs.ports p).step
      rw [hctx] at hstep
      exact Option.isSome_eq_false_iff.1 hstep.symm |> Option.isNone_iff_eq_none.1
    unfold fetchTaken
    split
    · exact hverdict _
    · split
      · exact hverdict _
      · split
        · exact hverdict _
        · exact sound_admitFetch h hnone ..
  next => exact hverdict _

/-! ### The other bench messages -/

theorem books_setRegistry (r : Registry) : booksOf (s.setRegistry r) = booksOf s := rfl

theorem books_setFlag (e : Event) : booksOf (s.setFlag e) = booksOf s := rfl

theorem books_of_withHello (h : withHello s t = s) : booksOf t = booksOf s := (congrArg booksOf h :)

theorem sound_confirm (h : (booksOf s).Sound) (p : Port) (index : Nat) (kcv : Kcv) : (booksOf (confirm p index kcv s)).Sound := by
  have hverdict : ∀ st, (booksOf (verdict p st s)).Sound := fun st => by rw [books_verdict]; exact h
  unfold confirm
  split
  next ss idle ps hctx hps =>
    have hend : ∀ r kcv, (booksOf (endStep p ps (.delivered ps.facts kcv) (s.setRegistry r))).Sound := fun r kcv =>
      sound_endStep (show (booksOf (s.setRegistry r)).Sound from h) hps rfl
    split
    · exact hverdict _
    · split
      · unfold confirmMatch
        simp only
        split <;> simp only [books_pushBench, books_setFlag, books_setCtx] <;> exact hend ..
      · unfold confirmMismatch
        simp only
        split <;> simp only [books_pushBench, books_setFlag, books_setCtx, books_setRegistry] <;> exact sound_endStep h hps rfl
  next => exact hverdict _

theorem sound_bye (h : (booksOf s).Sound) (p : Port) : (booksOf (bye p s)).Sound := by
  unfold bye
  split
  case h_4 => rw [books_verdict]; exact h
  all_goals rw [books_verdict]; exact sound_endSession h ..

theorem sound_benchHandler (h : (booksOf s).Sound) (hs : Seated s) (c : Instr) : (booksOf (benchHandler c s)).Sound := by
  cases c
  case hello p serial model =>
    rw [benchHandler, books_of_withHello (hello_frame p serial model)]
    exact h
  case fetch p index => exact sound_fetchStep h hs p index
  case confirm p index kcv => exact sound_confirm h p index kcv
  case bye p => exact sound_bye h p
  case benchBadMessage p =>
    rw [benchHandler, books_verdict]
    exact h
  all_goals exact h

/-! ### Requests -/

/-- Only JOURNAL_RELEASE reaches the books: it releases records. -/
theorem journal_lightRequest {c : Instr} (h : lightRequest c = true) :
    ∃ n, (requestHandler c s).journal = { s.journal with records := s.journal.records.drop n } := by
  cases c <;> simp only [lightRequest, Bool.false_eq_true] at h <;> simp only [requestHandler]
  case journalRelease tag sequence =>
    unfold journalRelease
    simp only
    split
    · exact ⟨0, rfl⟩
    · split
      · exact ⟨0, rfl⟩
      next k _ => exact ⟨k + 1, rfl⟩
  case linePause => unfold linePause setLine; (repeat' split) <;> exact ⟨0, rfl⟩
  case lineResume => unfold lineResume setLine; (repeat' split) <;> exact ⟨0, rfl⟩
  case profileBegin => unfold profileBegin; split <;> exact ⟨0, rfl⟩
  case profileBlock => unfold profileBlock spoil; (repeat' split) <;> exact ⟨0, rfl⟩
  case slotQuery => unfold slotQuery; split <;> exact ⟨0, rfl⟩
  case regAdd => unfold regAdd regAddChecked; (repeat' split) <;> exact ⟨0, rfl⟩
  case regQuery => unfold regQuery; (repeat' split) <;> exact ⟨0, rfl⟩
  case regSetState => unfold regSetState setEntryState; (repeat' split) <;> exact ⟨0, rfl⟩
  case regRemove => unfold regRemove removeEntry; (repeat' split) <;> exact ⟨0, rfl⟩
  case regScan => unfold regScan; split <;> exact ⟨0, rfl⟩
  case counterRead => unfold counterRead; (repeat' split) <;> exact ⟨0, rfl⟩
  case journalRead => unfold journalRead; split <;> exact ⟨0, rfl⟩
  case status => unfold statusRequest clearCountsIf; split <;> exact ⟨0, rfl⟩
  all_goals exact ⟨0, rfl⟩

theorem sound_lightRequest (h : (booksOf s).Sound) {c : Instr} (hc : lightRequest c = true) : (booksOf (requestHandler c s)).Sound := by
  obtain ⟨n, hj⟩ := journal_lightRequest (s := s) hc
  have hframe := lightRequest_frame hc s
  have hbooks : booksOf (requestHandler c s) = { booksOf s with journal := (requestHandler c s).journal } :=
    congrArg (fun b : Books => { b with journal := (requestHandler c s).journal })
      (show booksOf (withPort s (requestHandler c s)) = booksOf s from congrArg booksOf hframe)
  rw [hbooks, hj]
  exact ⟨h.journal.released n, h.assemble, h.erase, h.drained, h.erasing, h.target⟩

end

end Sys2Proof.Machine
end

section
/-! The requests that reserve a record, the job completions, the expiries and the clock keep the books in order. -/

namespace Sys2Proof.Machine
open Sys2Proof.Safety

section
variable {s t u : State}

/-! ### Requests with work of their own (R20, R66) -/

theorem books_refuse (tag kind : Byte) (st : Status) : booksOf (refuse tag kind st s) = booksOf s := by simp [booksOf]

/-- A record reserved and written at once (R20, R182). -/
theorem Books.Sound.recorded {b : Books} (h : b.Sound) {body : RecordBody} (hf : b.journal.occupancy < 511) (hb : body.isTamper = false) :
    Books.Sound { b with journal := (b.journal.granted .counterAdvance).wrote .counterAdvance body } where
  journal := by
    have hgranted := h.journal.granted (h := .counterAdvance) (Q := fun k => b.Holds k ∨ k = .counterAdvance) id hf fun _ => Iff.rfl
    refine hgranted.wrote (.inr rfl) hb fun k => ?_
    cases k <;> simp [Books.Holds]
  assemble := h.assemble
  erase := h.erase
  drained := h.drained
  erasing := h.erasing
  target := h.target

theorem held_kept {c : SlotContent} {st : HeldState} {k : HeldKey} (h : c.held? = some (st, k)) (hst : st ≠ .erasing) :
    c = .active k ∨ c = .exhausted k := by
  cases c with
  | empty => cases h
  | assembling => cases h
  | active => cases h; exact .inl rfl
  | exhausted => cases h; exact .inr rfl
  | erasing => cases h; exact absurd rfl hst

theorem sound_counterRaise (h : (booksOf s).Sound) (tag : Byte) {i : SlotIx} {key : HeldKey}
    (hk : (s.slot i).content = .active key ∨ (s.slot i).content = .exhausted key) (keySet next value : Nat) :
    (booksOf (counterRaise tag i key keySet next value s)).Sound := by
  unfold counterRaise
  split
  · rw [books_respond]; exact h
  · rcases Nat.lt_or_ge s.journal.occupancy 511 with hf | hf
    · rw [requestReservation_granted hf]
      simp only
      rw [books_respond, books_counterEvents, books_writeRecord, books_setSlot, books_reserved]
      have hkey : ((booksOf s).content i).key?.isSome = true ∧ ∀ k, (booksOf s).content i ≠ .erasing k := by
        rcases hk with hk | hk <;> simp [booksOf, hk, SlotContent.key?]
      exact (h.rekey withNextCounter_key.2 withNextCounter_key.1 hkey.1 hkey.2).recorded hf rfl
    · rw [requestReservation_refused hf]
      simp only
      rw [books_refuse]
      exact h

theorem sound_counterAdvance (h : (booksOf s).Sound) (tag : Byte) (n value : Nat) : (booksOf (counterAdvance tag n value s)).Sound := by
  have hrefuse : ∀ st, (booksOf (refuse tag 0x41 st s)).Sound := fun st => by rw [books_refuse]; exact h
  unfold counterAdvance
  split
  · exact hrefuse _
  next i _ =>
    split
    · exact hrefuse _
    · split
      · exact hrefuse _
      next st k hheld =>
        split
        · split
          · exact hrefuse _
          next hst =>
            exact sound_counterRaise h tag (held_kept hheld hst) ..
        · exact hrefuse _

/-- What the start of an import writes: its reservation, its context and its target. -/
theorem books_startImport (tag : Byte) (target transport : SlotIx) (key : HeldKey) (e : BankEnvelope) :
    ∃ w, w.target = target ∧ booksOf (startImport tag target transport key e s)
      = { booksOf s with work := some w, content := Function.update (booksOf s).content target (.assembling .importUnit) } := by
  refine ⟨{ tag := tag, target := target, transport := transport, transportGen := (s.slot transport).generation, zeroised := false },
    rfl, ?_⟩
  have hwork : ∀ u w, booksOf { u with importWork := some w } = { booksOf u with work := some w } := fun _ _ => rfl
  have hraise : booksOf (raiseInUse transport s) = booksOf s := by rw [raiseInUse, books_setSlot_same (by rfl)]
  unfold startImport
  simp only
  rw [books_requestJob, hwork, reserveSlot, books_setSlot, hraise]

theorem sound_importKey (h : (booksOf s).Sound) (tag : Byte) (body : List Byte) : (booksOf (importKey tag body s)).Sound := by
  have hrefuse : ∀ st, (booksOf (refuse tag 0x20 st s)).Sound := fun st => by rw [books_refuse]; exact h
  unfold importKey
  split
  · exact hrefuse _
  next hidle =>
    split
    · exact hrefuse _
    · split
      · exact hrefuse _
      next b _ =>
        split
        · unfold importChecked
          split
          · exact hrefuse _
          next transport key _ =>
            split
            · exact hrefuse _
            next target hcheck =>
              rcases Nat.lt_or_ge s.journal.occupancy 511 with hf | hf
              · rw [requestReservation_granted hf]
                simp only
                have hempty := reserveCheck_granted hcheck
                obtain ⟨w, rfl, hbooks⟩ := books_startImport (s := reserved .importUnit s) tag target transport key b.envelope
                rw [hbooks, books_reserved]
                exact h.beginImport (show s.importWork = none by simpa using hidle) hf hempty
              · rw [requestReservation_refused hf]
                simp only
                rw [books_refuse]
                exact h
        · exact hrefuse _

theorem books_closeFinish : booksOf (closeFinish s) = booksOf s := by
  unfold closeFinish
  split
  · split
    · rfl
    · rw [books_respond, books_setLine]
  · rfl

theorem sound_lineClose (h : (booksOf s).Sound) (tag : Byte) : (booksOf (lineClose tag s)).Sound := by
  have hclose : (booksOf (beginClose tag s)).Sound := by
    rw [beginClose, books_closeFinish]
    exact sound_endAllSessions (by rw [books_setLine]; exact h) _
  unfold lineClose
  split
  · rw [books_respond]; exact h
  · exact hclose
  · exact hclose
  · rw [books_refuse]; exact h
  · rw [books_refuse]; exact h

/-! ### Job completions -/

theorem sound_drainComplete (h : (booksOf s).Sound) (p : Port) : (booksOf (drainComplete p s)).Sound := by
  unfold drainComplete
  split
  · simp only
    rw [books_closeFinish, books_setCtx]
    exact sound_voidStep h ..
  · exact h

theorem books_offerStep (p : Port) (ss : Session) (envelope : TerminalEnvelope) (kcv : Kcv) :
    booksOf (offerStep p ss envelope kcv s) = booksOf s := by
  unfold offerStep
  split
  · rfl
  next ps hps =>
    have hsame : Function.update (booksOf s).steps p true = (booksOf s).steps :=
      Function.update_eq_self_iff.2 (show (s.step p).isSome = true by rw [hps]; rfl).symm
    rw [books_pushBench, books_setCtx, books_setStep]
    exact congrArg (fun x => { booksOf s with steps := x }) hsame

theorem sound_prepareHandled (h : (booksOf s).Sound) (j : Job) : (booksOf (prepareHandled j s)).Sound := by
  unfold prepareHandled
  split
  · exact h
  · split
    · exact sound_drainComplete h _
    · split
      · split
        · exact h
        · rw [books_offerStep]; exact h
      · exact h

/-- With no ceremony open, the run may change to another without one. -/
theorem Books.Sound.settle {b : Books} (h : b.Sound) {run : CeremonyRun} (hb : ∀ w, b.run ≠ .work w) (hr : ∀ w, run ≠ .work w) :
    Books.Sound { b with run := run } where
  journal := h.journal.congr fun k => by cases k <;> simp [Books.Holds, hb, hr]
  assemble w _ _ _ _ _ hw := absurd hw (hr w)
  erase w _ hw := absurd hw (hr w)
  drained w hw := absurd hw (hr w)
  erasing i k hk := by
    obtain ⟨w, hw, -⟩ := h.erasing i k hk
    exact absurd hw (hb w)
  target := h.target

theorem sound_settleCeremony (h : (booksOf s).Sound) : (booksOf (settleCeremony s)).Sound := by
  unfold settleCeremony
  split
  next hrun =>
    rw [books_noticeAll, books_setCeremony]
    have hclosed : ∀ w, s.ceremony.run ≠ .work w := fun w hw => by rw [hrun] at hw; cases hw
    exact h.settle hclosed (by simp)
  · exact h

theorem books_joinPending (r : Fin 10) (inputs : JobInputs) : booksOf (joinPending r inputs s) = booksOf s := rfl

theorem sound_componentPassed (h : (booksOf s).Sound) {w : CeremonyWork} (hw : s.ceremony.run = .work w) (hp : ∀ i, w.params ≠ .erase i)
    (v : UnderCheck) (count : Nat) : (booksOf (componentPassed v count w s)).Sound := by
  unfold componentPassed
  simp only
  split
  · rw [books_noticeAll, books_setCeremony, books_answerWithheld]
    exact h.proceed hw rfl (.inr hp) (fun hx => ⟨hx, rfl, id⟩) fun hx => .inr ⟨hx, rfl⟩
  · rw [books_noticeAll, books_joinPending, books_setCeremony, books_answerWithheld]
    exact h.proceed hw rfl (.inr hp) nofun nofun

theorem sound_checkComponentHandled (h : (booksOf s).Sound) (j : Job) : (booksOf (checkComponentHandled j s)).Sound := by
  unfold checkComponentHandled
  split
  · exact sound_settleCeremony h
  · split
    next w hw =>
      split
      next v _ _ _ count _ value check _ hpar _ =>
        have hp : ∀ i, w.params ≠ .erase i := by rw [hpar]; nofun
        split
        · exact h
        · split
          · exact sound_componentPassed h hw hp v count
          · have hd : ∀ i k, (s.slot i).content ≠ .erasing k := h.not_erasing_of_params hw hp
            exact sound_badEntry (by rw [books_answerWithheld]; exact h) (w₀ := w) (by simpa using hw) rfl rfl rfl rfl rfl (by simpa using hd)
      next => exact h
    next => exact h

theorem sound_combineHandled (h : (booksOf s).Sound) (j : Job) : (booksOf (combineHandled j s)).Sound := by
  unfold combineHandled
  split
  · exact sound_settleCeremony h
  · split
    next w hw =>
      split
      next hph _ =>
        split
        · exact h
        · simp only
          rw [books_noticeAll, books_setCeremony]
          exact h.proceed hw rfl (.inl fun hx => by rw [hph] at hx; cases hx) nofun fun _ => .inl rfl
      next => exact h
    next => exact h

/-- The claim of an import is released while its context is being cleared (R15). -/
theorem sound_endImport {w : ImportWork} (h : Books.Sound { booksOf s with work := none }) : (booksOf (endImport w s)).Sound := by
  have hcount : booksOf (s.setSlot w.transport { s.slot w.transport with inUse := (s.slot w.transport).inUse - 1 }) = booksOf s :=
    books_setSlot_same rfl
  have hidle : ∀ u, booksOf { u with importWork := none } = { booksOf u with work := none } := fun _ => rfl
  rw [endImport, hidle]
  unfold lowerInUse
  simp only
  split
  next k hk =>
    split
    · obtain ⟨x, hx, hp, hd⟩ := h.erasing w.transport k hk
      obtain ⟨pair, ha⟩ := Option.isSome_iff_exists.1 (h.drained x hx hd).1
      rw [books_completeErasure (s := s.setSlot w.transport { s.slot w.transport with inUse := (s.slot w.transport).inUse - 1 }) hx ha, hcount]
      exact h.erased hx hp rfl
    · rw [hcount]; exact h
  next => rw [hcount]; exact h

theorem books_abandonSlot (i : SlotIx) : ∃ c, booksOf (abandonSlot .importUnit i s) = { booksOf s with content := c }
    ∧ ∀ j, c j = (booksOf s).content j ∨ (booksOf s).content j = .assembling .importUnit ∧ ∀ k, c j ≠ .erasing k := by
  unfold abandonSlot
  split
  next hc =>
    refine ⟨_, books_setSlot .., fun j => ?_⟩
    by_cases hj : j = i
    · subst hj
      exact .inr ⟨hc, fun k => by rw [Function.update_self]; nofun⟩
    · exact .inl (Function.update_of_ne hj ..)
  next => exact ⟨_, rfl, fun _ => .inl rfl⟩

theorem importOutcome_installed {w : ImportWork} {inputs : JobInputs} {key : HeldKey} (h : importOutcome w inputs s = .installed key) :
    w.zeroised = false := by
  cases hz : w.zeroised with
  | false => rfl
  | true => simp [importOutcome, hz] at h

theorem sound_unwrapHandled (h : (booksOf s).Sound) (j : Job) : (booksOf (unwrapHandled j s)).Sound := by
  unfold unwrapHandled
  split
  · exact h
  next w hw =>
    have hheld : (booksOf s).Holds .importUnit := show s.importWork.isSome = true by rw [hw]; rfl
    have hends : ∀ k, Books.Holds { booksOf s with work := none } k ↔ (booksOf s).Holds k ∧ k ≠ .importUnit := fun k => by
      cases k <;> simp [Books.Holds]
    split
    · obtain ⟨c, hbooks, hc⟩ := books_abandonSlot (s := s) w.target
      rw [books_refuse]
      refine sound_endImport ?_
      rw [books_returnReservation, hbooks]
      exact h.endImport (h.journal.returned hends) hc
    next key hkey =>
      simp only
      have htarget := h.target w hw (importOutcome_installed hkey)
      have hinstall : (s.slot w.target).content = .assembling .importUnit := htarget
      rw [books_respond]
      refine sound_endImport ?_
      rw [installKey]
      simp only [hinstall, if_true]
      rw [books_writeRecord, books_setSlot]
      refine h.endImport (h.journal.wrote hheld rfl hends) fun j => ?_
      by_cases hj : j = w.target
      · subst hj
        exact .inr ⟨htarget, fun k hk => SlotContent.noConfusion ((Function.update_self ..).symm.trans hk)⟩
      · exact .inl (Function.update_of_ne hj ..)

/-! ### Expiries and the clock -/

theorem sound_windowExpired (h : (booksOf s).Sound) : (booksOf (windowExpired s)).Sound := by
  unfold windowExpired
  split
  next w hw =>
    split
    next hdue =>
      refine sound_abortCeremony h _ _ _ (h.not_erasing fun x hx hd => ?_)
      cases hw.symm.trans hx
      have hnone := (h.drained w hw hd).2
      simp [CeremonyWork.windowDue, hnone] at hdue
    next => exact h
  · exact h

/-- A second passes for a ceremony that is open, and for no other (R57). -/
theorem counted_work (w : CeremonyWork) :
    (CeremonyRun.work w).counted = .work { w with window := w.window.map Timer.counted } := rfl

theorem counted_closed {r : CeremonyRun} (h : ∀ w, r ≠ .work w) (w : CeremonyWork) : r.counted ≠ .work w := by
  cases r with
  | work x => exact absurd rfl (h x)
  | idle => exact h w
  | settling => exact h w

theorem Books.Sound.counted {b : Books} (h : b.Sound) : Books.Sound { b with run := b.run.counted } := by
  by_cases hrun : ∃ w, b.run = .work w
  · obtain ⟨w, hw⟩ := hrun
    have hwindow : w.window = none → w.window.map Timer.counted = none := fun hn => by rw [hn]; rfl
    rw [hw, counted_work]
    exact h.proceed hw rfl (.inl id) (fun hx => ⟨hx, rfl, hwindow⟩) fun hx => .inr ⟨hx, rfl⟩
  · have hclosed : ∀ w, b.run ≠ .work w := fun w hw => hrun ⟨w, hw⟩
    exact h.settle hclosed (counted_closed hclosed)

theorem sound_tick (h : (booksOf s).Sound) : (booksOf (tick s)).Sound := by
  unfold tick
  split
  · exact h
  · exact (h.counted : Books.Sound { booksOf s with run := (booksOf s).run.counted })

end

end Sys2Proof.Machine
end

section
/-! The journal's book-keeping holds after every step (R181). -/

namespace Sys2Proof.Machine
open Sys2Proof.Safety

section
variable {s t u : State}

/-- The books are in order and the ports seated. -/
structure InOrder (s : State) : Prop where
  books : (booksOf s).Sound
  seated : Seated s

/-! ### The invariant in these terms -/

theorem inOrder_of_booked (hs : StoreBooked s) (hw : WorkBooked s) : InOrder s := by
  obtain ⟨hnodup, hports, hbound, htamper⟩ := hs
  refine ⟨⟨⟨hnodup, fun h => ?_, hbound, htamper⟩, fun w slot cls length count keySet hr hp => hw.assemble w hr slot cls length count keySet hp,
    fun w slot hr hp => (hw.erase w hr).1 slot hp, fun w hr hd => (hw.erase w hr).2 hd, hw.erasing, hw.target⟩,
    ⟨fun p => ⟨hw.steps p, fun hl => hw.setup hl p⟩, hw.sessions, hw.stream⟩⟩
  cases h with
  | bench p => exact hports p
  | ceremony => exact hw.ceremony.trans ceremonyOpen_iff
  | importUnit => exact hw.importUnit
  | counterAdvance => exact ⟨fun hm => hw.advance hm, False.elim⟩

theorem InOrder.storeBooked (h : InOrder s) : StoreBooked s :=
  ⟨h.books.journal.nodup, fun p => h.books.journal.held (.bench p), h.books.journal.bound, h.books.journal.tamper⟩

theorem InOrder.workBooked (h : InOrder s) : WorkBooked s where
  steps p := (h.seated.ports p).step
  ceremony := (h.books.journal.held .ceremony).trans ceremonyOpen_iff.symm
  importUnit := h.books.journal.held .importUnit
  advance hm := (h.books.journal.held .counterAdvance).1 hm
  assemble w hw slot cls length count keySet hp := h.books.assemble w slot cls length count keySet hw hp
  erase w hw := ⟨fun slot hp => h.books.erase w slot hw hp, h.books.drained w hw⟩
  erasing := h.books.erasing
  target := h.books.target
  sessions := h.seated.sessions
  stream := h.seated.stream
  setup hl p := (h.seated.ports p).setup hl

theorem InOrder.booked (h : InOrder s) : JournalBooked s := ⟨h.storeBooked, fun _ => h.workBooked⟩

/-! ### The store (R107, R175, R192) -/

theorem storeBooked_voidPending (h : StoreBooked s) (reason : VoidReason) (p : Port) : StoreBooked (voidPending reason p s) := by
  obtain ⟨hnodup, hports, hbound, htamper⟩ := h
  unfold voidPending
  split
  · exact ⟨hnodup, hports, hbound, htamper⟩
  next ps hps =>
    have hsound : s.journal.Sound (· ∈ s.journal.reservations) := ⟨hnodup, fun _ => Iff.rfl, hbound, htamper⟩
    have hmem : ResHolder.bench p ∈ s.journal.reservations := (hports p).2 (by rw [hps]; rfl)
    obtain ⟨hnodup', hheld, hbound', htamper'⟩ :=
      hsound.wrote (body := .voided ps.facts ps.expected reason) hmem rfl fun _ => Iff.rfl
    refine ⟨hnodup', fun q => (hheld (.bench q)).trans ?_, hbound', htamper'⟩
    have hstep : ((writeRecord (.bench p) (.voided ps.facts ps.expected reason) s).setStep p none).step q
        = if p = q then none else s.step q := State.step_setStep ..
    rw [hstep, hports q]
    by_cases hq : p = q
    · simp [hq]
    · simp [hq, Ne.symm hq]

theorem storeBooked_voidAllPending (h : StoreBooked s) (reason : VoidReason) : StoreBooked (voidAllPending reason s) := by
  unfold voidAllPending
  induction allPorts generalizing s with
  | nil => exact h
  | cons p l ih => exact ih (storeBooked_voidPending h reason p)

theorem storeBooked_of_eq (h : StoreBooked s) (hj : t.journal = s.journal) (hs : ∀ p, t.step p = s.step p) : StoreBooked t := by
  obtain ⟨hnodup, hports, hbound, htamper⟩ := h
  exact ⟨hj ▸ hnodup, fun p => by rw [hj, hs]; exact hports p, hj ▸ hbound, by rw [tamperRecords, hj]; exact htamper⟩

theorem storeBooked_initial (h : t.store = Store.initial) : StoreBooked t :=
  storeBooked_of_eq storeBooked_reset (congrArg Store.journal h) fun p => congrArg (fun x : Store => x.steps.get p) h

theorem afterReset_not_erasing (x : Slot) (k : HeldKey) : x.afterReset.content ≠ .erasing k := by
  unfold Slot.afterReset
  simp only
  split
  · nofun
  · split <;> nofun
  next he => exact he k

/-- Books with nothing at work: no reservation is held (R192). -/
def Books.atReset (j : Journal) (content : SlotIx → SlotContent) : Books where
  journal := { j with reservations := [] }
  steps _ := false
  run := .idle
  work := none
  content := content

theorem sound_atReset {j : Journal} {content : SlotIx → SlotContent} (hb : j.occupancy ≤ 511)
    (ht : (j.records.filter Record.isTamper).length ≤ 1) (hc : ∀ i k, content i ≠ .erasing k) : (Books.atReset j content).Sound where
  journal := by
    refine ⟨List.nodup_nil, fun k => ?_, ?_, ht⟩
    · cases k <;> simp [Books.Holds, Books.atReset]
    · simp only [Books.atReset, Journal.occupancy, Journal.plainRecords, List.length_nil] at hb ⊢
      omega
  assemble _ _ _ _ _ _ h := nomatch h
  erase _ _ h := nomatch h
  drained _ h := nomatch h
  erasing i k h := absurd h (hc i k)
  target _ h := nomatch h

theorem books_resetBlocks (cause : ResetCause) :
    booksOf (resetBlocks cause s) = Books.atReset (voidAllPending cause.voidReason s).journal fun i => (s.slot i).afterReset.content := by
  obtain ⟨-, -, -, hceremony, hwork, -⟩ := resetBlocks_fixed cause s
  simp only [booksOf, Books.atReset, resetBlocks_journal, resetBlocks_step, hceremony, hwork, resetBlocks_slot, Option.isSome_none]

theorem inOrder_resetBlocks (h : StoreBooked s) (cause : ResetCause) : InOrder (resetBlocks cause s) := by
  obtain ⟨-, -, hbound, htamper⟩ := storeBooked_voidAllPending h cause.voidReason
  refine ⟨?_, seated_resetBlocks cause⟩
  rw [books_resetBlocks]
  exact sound_atReset hbound htamper fun _ => afterReset_not_erasing _

theorem inOrder_zeroisePart (h : InOrder s) (cause : TamperCause) : InOrder (zeroisePart cause s) :=
  ⟨sound_zeroisePart h.books cause, seated_zeroisePart (fun p => (h.seated.ports p).step) cause⟩

theorem inOrder_resetPart (h : StoreBooked s) (cause : ResetCause) : InOrder (resetPart cause s) := by
  have hfound : StoreBooked (foundStore s) := by
    unfold foundStore
    split
    · exact storeBooked_initial rfl
    · exact h
  have hblocks := inOrder_resetBlocks hfound cause
  rw [resetPart_eq]
  generalize resetBlocks cause (foundStore s) = u at hblocks
  unfold zeroiseAfterReset
  split
  · exact inOrder_zeroisePart (s := clearLatch u) ⟨hblocks.books, hblocks.seated.of_eq rfl rfl (fun _ => rfl) fun _ => rfl⟩ _
  · split
    · exact inOrder_zeroisePart hblocks _
    · exact hblocks

/-! ### One command -/

/-- The handlers of a running part keep everything in order. -/
theorem inOrder_requestHandler (h : InOrder s) (c : Instr) : InOrder (requestHandler c s) := by
  cases hc : lightRequest c with
  | true => exact ⟨sound_lightRequest h.books hc, seated_lightRequest h.seated hc⟩
  | false =>
    cases c <;> simp only [lightRequest, Bool.true_eq_false] at hc
    case profileCommit tag check => exact ⟨(congrArg booksOf (profileCommit_frame (s := s) tag check) :) ▸ h.books, seated_profileCommit h.seated tag check⟩
    case lineClose tag => exact ⟨sound_lineClose h.books tag, seated_lineClose h.seated tag⟩
    case lineReset tag => exact inOrder_resetPart h.storeBooked _
    case importKey tag body => exact ⟨sound_importKey h.books tag body, h.seated.of_withImport (importKey_frame tag body)⟩
    case counterAdvance tag n value =>
      exact ⟨sound_counterAdvance h.books tag n value, h.seated.of_withImport (counterAdvance_frame tag n value)⟩

theorem inOrder_completion {fits : JobInputs → Bool} {handle : Job → State → State} (hc : Completes fits handle) (h : InOrder s) (j : Job) :
    InOrder (handle j s) := by
  cases hc with
  | prepareShared | prepareDerived => exact ⟨sound_prepareHandled h.books j, seated_prepareHandled h.seated j⟩
  | checkComponent => exact ⟨sound_checkComponentHandled h.books j, h.seated.of_withCeremony (checkComponentHandled_frame j)⟩
  | combine => exact ⟨sound_combineHandled h.books j, h.seated.of_withCeremony (combineHandled_frame j)⟩
  | unwrap => exact ⟨sound_unwrapHandled h.books j, h.seated.of_withImport (unwrapHandled_frame j)⟩

theorem inOrder_expiry {expire : State → State} (he : Expiry expire) (h : InOrder s) : InOrder (expire s) := by
  cases he with
  | custodianIdle l =>
    unfold custodianIdleExpired
    split
    · exact ⟨sound_endLogon h.books l, h.seated.of_withCeremony (endLogon_withCeremony l)⟩
    · exact h
  | window =>
    refine ⟨sound_windowExpired h.books, ?_⟩
    unfold windowExpired
    split
    · split
      · exact h.seated.of_withCeremony (abortCeremony_withCeremony ..)
      · exact h.seated
    · exact h.seated
  | sessionIdle p =>
    refine ⟨?_, seated_sessionIdleExpired h.seated p⟩
    unfold sessionIdleExpired
    split
    · exact sound_endSession h.books ..
    · exact h.books
  | entryAged i =>
    unfold entryAged
    split
    · exact ⟨h.books, h.seated.of_eq rfl rfl (fun _ => rfl) fun _ => rfl⟩
    · exact h

/-- What an event does to the journal's book-keeping, whether the part runs or not. -/
structure JournalStep (s t : State) : Prop where
  booked : JournalBooked s → JournalBooked t

theorem JournalStep.running (hr : s.running = true) (h : InOrder s → InOrder t) : JournalStep s t :=
  ⟨fun ⟨hs, hw⟩ => (h (inOrder_of_booked hs (hw hr))).booked⟩

/-- Nothing the book-keeping rests on changes. -/
theorem JournalStep.of_eq (hb : booksOf t = booksOf s) (hl : t.line = s.line) (hst : t.stream = s.stream) (hc : ∀ p, t.ctx p = s.ctx p)
    (hs : ∀ p, t.step p = s.step p) (hr : t.running = true → s.running = true) : JournalStep s t where
  booked h := by
    refine ⟨storeBooked_of_eq h.1 (congrArg Books.journal hb) hs, fun hrun => ?_⟩
    have hin := inOrder_of_booked h.1 (h.2 (hr hrun))
    exact InOrder.workBooked ⟨hb ▸ hin.books, hin.seated.of_eq hl hst hc hs⟩

/-- A part that no longer runs keeps its store, or loses it whole. -/
theorem JournalStep.stopped (hr : t.running = false) (h : StoreBooked s → StoreBooked t) : JournalStep s t :=
  ⟨fun hs => ⟨h hs.1, fun hrun => by rw [hr] at hrun; cases hrun⟩⟩

theorem JournalStep.reset {cause : ResetCause} (hj : u.journal = s.journal) (hs : ∀ p, u.step p = s.step p) :
    JournalStep s (resetPart cause u) :=
  ⟨fun h => (inOrder_resetPart (storeBooked_of_eq h.1 hj hs) cause).booked⟩

theorem booked_of_running (hr : s.running = false → StoreBooked s → JournalBooked t) (h : s.running = true → InOrder s → InOrder t)
    (hs : JournalBooked s) : JournalBooked t := by
  cases hrun : s.running with
  | true => exact (h hrun (inOrder_of_booked hs.1 (hs.2 hrun))).booked
  | false => exact hr hrun hs.1

/-- A bench link of a part that does not run changes. -/
theorem booked_setBench (hr : s.running = false) (p : Port) (b : Bench) (h : StoreBooked s) : JournalBooked (s.setBench p b) :=
  ⟨storeBooked_of_eq h rfl fun _ => rfl, fun hrun => by rw [show (s.setBench p b).running = s.running from rfl, hr] at hrun; cases hrun⟩

theorem journalBooked_terminalArrives (p : Port) : JournalBooked s → JournalBooked (terminalArrives p s) := by
  refine booked_of_running (fun hr hs => ?_) fun _ hs => ⟨?_, seated_terminalArrives hs.seated p⟩
  · simp only [terminalArrives, hr, Bool.not_false, Bool.or_true, if_true]
    exact booked_setBench hr p _ hs
  · have hbooks : booksOf (terminalArrives p s) = booksOf s := by
      unfold terminalArrives
      simp only
      (repeat' split) <;> rfl
    rw [hbooks]
    exact hs.books

theorem sound_contextDetached (h : (booksOf s).Sound) (p : Port) : (booksOf (contextDetached p s)).Sound := by
  unfold contextDetached
  split
  case h_4 => exact sound_endSession h ..
  all_goals exact h

theorem journalBooked_terminalLeaves (p : Port) : JournalBooked s → JournalBooked (terminalLeaves p s) := by
  refine booked_of_running (fun hr hs => ?_) fun hr hs => ⟨?_, seated_terminalLeaves hs.seated p⟩
  · simp only [terminalLeaves, hr, Bool.not_false, if_true]
    split
    · exact ⟨hs, fun hrun => by rw [hr] at hrun; cases hrun⟩
    · exact booked_setBench hr p _ hs
  · simp only [terminalLeaves, hr, Bool.not_true, Bool.false_eq_true, if_false]
    split
    · exact hs.books
    · exact sound_contextDetached (s := s.setBench p _) hs.books p

theorem journalStep_level {change : State → State} (h : LevelChange change) : JournalStep s (change s) := by
  cases h with
  | consoleArrives l => exact .of_eq rfl rfl rfl (fun _ => rfl) (fun _ => rfl) id
  | consoleLeaves l =>
    have hset : ∀ c, InOrder s → InOrder (s.setConsole l c) := fun c hs =>
      ⟨hs.books, hs.seated.of_eq rfl rfl (fun _ => rfl) fun _ => rfl⟩
    unfold consoleLeaves
    simp only
    split
    · exact .of_eq rfl rfl rfl (fun _ => rfl) (fun _ => rfl) id
    · split
      · exact .of_eq rfl rfl rfl (fun _ => rfl) (fun _ => rfl) id
      next hr =>
        refine .running (by simpa using hr) fun hs => ?_
        exact ⟨sound_endLogon (hset _ hs).books l, (hset _ hs).seated.of_withCeremony (endLogon_withCeremony l)⟩
  | terminalArrives p => exact ⟨journalBooked_terminalArrives p⟩
  | terminalLeaves p => exact ⟨journalBooked_terminalLeaves p⟩
  | coverOpens =>
    have hopen : InOrder s → InOrder { s with tamperLine := true } := fun hs =>
      ⟨hs.books, hs.seated.of_eq rfl rfl (fun _ => rfl) fun _ => rfl⟩
    unfold coverOpens
    split
    · exact .of_eq rfl rfl rfl (fun _ => rfl) (fun _ => rfl) id
    · simp only
      split
      next hr => exact .running hr fun hs => inOrder_zeroisePart (hopen hs) _
      next hr =>
        unfold setLatch
        split
        · exact .of_eq rfl rfl rfl (fun _ => rfl) (fun _ => rfl) id
        · exact .stopped (by simpa [State.running] using hr) fun hs => storeBooked_of_eq hs rfl fun _ => rfl
  | coverCloses => exact .of_eq rfl rfl rfl (fun _ => rfl) (fun _ => rfl) id
  | powerArrives =>
    unfold powerArrives
    split
    · exact .of_eq rfl rfl rfl (fun _ => rfl) (fun _ => rfl) id
    · simp only
      split
      next hpin => exact .stopped (by simp [State.running, hpin]) fun hs => storeBooked_of_eq hs rfl fun _ => rfl
      next => exact .reset rfl fun _ => rfl
  | powerLeaves =>
    unfold powerLeaves
    split
    · exact .of_eq rfl rfl rfl (fun _ => rfl) (fun _ => rfl) id
    · simp only
      split
      · exact .stopped rfl fun hs => storeBooked_of_eq hs rfl fun _ => rfl
      · exact .stopped rfl fun _ => storeBooked_initial rfl
  | batteryLeaves =>
    unfold batteryLeaves
    simp only
    split
    · exact .of_eq rfl rfl rfl (fun _ => rfl) (fun _ => rfl) id
    next hp => exact .stopped (by simp [State.running, loseStore, hp]) fun _ => storeBooked_initial rfl
  | pinAsserted => exact .stopped (by simp [State.running]) fun hs => storeBooked_of_eq hs rfl fun _ => rfl
  | pinReleased =>
    unfold pinReleased
    split
    · exact .of_eq rfl rfl rfl (fun _ => rfl) (fun _ => rfl) id
    · simp only
      split
      next hp => exact .stopped (by simpa [State.running] using hp) fun hs => storeBooked_of_eq hs rfl fun _ => rfl
      next => exact .reset rfl fun _ => rfl

theorem inOrder_heard (h : InOrder s) (l : ConsoleLink) : InOrder (heard l s) :=
  ⟨h.books, h.seated.of_eq rfl rfl (fun _ => rfl) fun _ => rfl⟩

theorem inOrder_of_withConsoles (h : InOrder s) (ht : withConsoles s t = s) : InOrder t := by
  have hctx := fun p => congrArg (fun x : State => x.ctx p) ht
  have hstep := fun p => congrArg (fun x : State => x.step p) ht
  exact ⟨(congrArg booksOf ht :) ▸ h.books, h.seated.of_eq (congrArg State.line ht :) (congrArg State.stream ht :) hctx hstep⟩

/-- A link's receiver or transmit queue changes, or an error is counted. -/
theorem journalStep_setBench {p : Port} {b : Bench} (hc : b.ctx = s.ctx p) : JournalStep s (s.setBench p b) := by
  refine .of_eq rfl rfl rfl (fun q => ?_) (fun _ => rfl) id
  rw [State.ctx, State.bench_setBench]
  split
  next hq => rw [← hq]; exact hc
  next => rfl

theorem journalStep_fetch (clocks : Nat) : JournalStep s (responseFetch clocks s) := by
  have hready : ∀ u, JournalStep u (readyFollowsQueue u) := fun u => by
    unfold readyFollowsQueue
    split <;> exact .of_eq rfl rfl rfl (fun _ => rfl) (fun _ => rfl) id
  unfold responseFetch
  split
  · exact .of_eq rfl rfl rfl (fun _ => rfl) (fun _ => rfl) id
  · split
    · exact .of_eq rfl rfl rfl (fun _ => rfl) (fun _ => rfl) id
    next r rest _ =>
      simp only
      split
      · exact .of_eq rfl rfl rfl (fun _ => rfl) (fun _ => rfl) id
      · have htaken : ∀ f rs os, JournalStep s { s with shiftedOut := f, responses := rs, outstanding := os } := fun _ _ _ =>
          .of_eq rfl rfl rfl (fun _ => rfl) (fun _ => rfl) id
        exact ⟨fun hs => (hready _).booked ((htaken ..).booked hs)⟩

theorem journalStep_sent (k : LinkId) : JournalStep s (transmitDone k s) := by
  cases k with
  | console l =>
    unfold transmitDone
    simp only
    split <;> exact .of_eq rfl rfl rfl (fun _ => rfl) (fun _ => rfl) id
  | bench p =>
    unfold transmitDone
    simp only
    split
    · exact .of_eq rfl rfl rfl (fun _ => rfl) (fun _ => rfl) id
    · exact journalStep_setBench rfl

/-- What one command does to the journal's book-keeping. -/
theorem journalStep_happens (h : Happens s t) : JournalStep s t := by
  cases h with
  | nothing => exact .of_eq rfl rfl rfl (fun _ => rfl) (fun _ => rfl) id
  | frameError => exact .of_eq rfl rfl rfl (fun _ => rfl) (fun _ => rfl) id
  | overrun => exact .of_eq rfl rfl rfl (fun _ => rfl) (fun _ => rfl) id
  | fetch clocks => exact journalStep_fetch clocks
  | @request c r hr ha =>
    have hrequest : InOrder s → InOrder (s.withRequest r.tag r.kind r.length) := fun hs =>
      ⟨hs.books, hs.seated.of_eq rfl rfl (fun _ => rfl) fun _ => rfl⟩
    exact .running ha.1 fun hs => inOrder_requestHandler (hrequest hs) c
  | unreadable tag kind n ha => exact .of_eq rfl rfl rfl (fun _ => rfl) (fun _ => rfl) id
  | receiver k r =>
    cases k with
    | console l => exact .of_eq rfl rfl rfl (fun _ => rfl) (fun _ => rfl) id
    | bench p => exact journalStep_setBench rfl
  | busy | notLoggedOn => exact .of_eq rfl rfl rfl (fun _ => rfl) (fun _ => rfl) id
  | @console c l kind hc hn hl =>
    exact .running hl.1.1 fun hs => inOrder_of_withConsoles (inOrder_heard hs l) (consoleHandler_frame hc hn (heard l s))
  | @person c l kind who hc hn hl _ =>
    exact .running hl.1.1 fun hs =>
      ⟨sound_personHandler (inOrder_heard hs l).books hc hn _, seated_personHandler (inOrder_heard hs l).seated hc hn _⟩
  | @unknownOpen l who hl _ =>
    refine .running hl.1.1 fun hs => ⟨sound_openCeremony (inOrder_heard hs l).books nofun, ?_⟩
    exact (inOrder_heard hs l).seated.of_withCeremony (openCeremony_withCeremony ..)
  | @bench c p hc hp =>
    refine .running hp.1 fun hs => ?_
    have hbooks : (booksOf (heardAt p s)).Sound := hs.books
    exact ⟨sound_benchHandler hbooks (seated_heardAt hs.seated p) c, seated_benchHandler (seated_heardAt hs.seated p) c⟩
  | sent k => exact journalStep_sent k
  | level hl => exact journalStep_level hl
  | expiry he hr => exact .running hr (inOrder_expiry he)
  | @completion fits handle j hc hr =>
    refine .running hr fun hs => ?_
    have htaken : InOrder (jobTaken s) := ⟨hs.books, hs.seated.of_eq rfl rfl (fun _ => rfl) fun _ => rfl⟩
    have hdone := inOrder_completion hc htaken j
    have hbooks : booksOf (grantNext (handle j (jobTaken s))) = booksOf (handle j (jobTaken s)) := by simp [booksOf]
    exact ⟨hbooks ▸ hdone.books, hdone.seated.of_eq (by simp) (by simp) (by simp) (by simp)⟩

theorem counted_quiet (c : PortContext) : hasStep c.counted = hasStep c ∧ inSession c.counted = inSession c := by
  cases c <;> exact ⟨rfl, rfl⟩

theorem seated_tick (h : Seated s) : Seated (tick s) := by
  unfold tick
  split
  · exact h
  · have hctx : ∀ p, (countSecond s).ctx p = (s.ctx p).counted := fun p => by
      rw [State.ctx, State.bench, countSecond, Tab.get_map]
      rfl
    have hcounted : Seated (countSecond s) := by
      refine ⟨fun p => ?_, fun p hp => ?_, h.stream⟩
      · rw [hctx]
        obtain ⟨hstep, -⟩ := counted_quiet (s.ctx p)
        exact ⟨hstep.trans (h.ports p).step, fun hl => hstep.trans ((h.ports p).setup hl)⟩
      · rw [hctx, (counted_quiet _).2] at hp
        exact h.sessions p hp
    exact hcounted.of_eq rfl rfl (fun _ => rfl) fun _ => rfl

theorem journalStep_tick : JournalStep s (tick s) := by
  cases hr : s.running with
  | true => exact .running hr fun hs => ⟨sound_tick hs.books, seated_tick hs.seated⟩
  | false =>
    simp only [tick, hr]
    exact .of_eq rfl rfl rfl (fun _ => rfl) (fun _ => rfl) id

theorem journalStep_step (h : step s = .next t) : JournalStep s t := by
  rcases happens_of_step h with rfl | ⟨c, rest, -, hc⟩
  · exact journalStep_tick
  · have hqueue : JournalStep s { s with pending := rest } := .of_eq rfl rfl rfl (fun _ => rfl) (fun _ => rfl) id
    exact ⟨fun hs => (journalStep_happens hc).booked (hqueue.booked hs)⟩

end

end Sys2Proof.Machine

open Sys2Proof Sys2Proof.Machine Sys2Proof.Safety

/-- Settles O54: with the books in order and the ports seated, every transaction of the part leaves them so; what the secure store
keeps alone is enough for a reset to start from. -/
theorem stepKeepsJournalBooked : Obligations.StepKeepsJournalBooked := fun _ _ hs h => (journalStep_step h).booked hs

end

section
/-! The in-use counts against the claims of work in flight (R8): which handlers leave the counts alone. -/

namespace Sys2Proof.Machine
open Sys2Proof.Safety

/-- No in-use count has changed. -/
structure CountsKept (s t : State) : Prop where
  inUse : ∀ i, (t.slot i).inUse = (s.slot i).inUse

section
variable {s t u : State}

theorem CountsKept.of_eq (h : t.store.slots = s.store.slots) : CountsKept s t := ⟨fun i => by rw [State.slot, h]; rfl⟩

theorem CountsKept.trans (h : CountsKept s u) (g : CountsKept u t) : CountsKept s t := ⟨fun i => (g.inUse i).trans (h.inUse i)⟩

theorem CountsKept.keep (h : CountsKept s u) (g : t.store.slots = u.store.slots) : CountsKept s t := h.trans (.of_eq g)

theorem CountsKept.after (h : CountsKept u t) (g : u.store.slots = s.store.slots) : CountsKept s t := (CountsKept.of_eq g).trans h

theorem CountsKept.setSlot {i : SlotIx} {x : Slot} (h : x.inUse = (s.slot i).inUse) : CountsKept s (s.setSlot i x) where
  inUse j := by
    rw [slot_setSlot]
    split
    next hij => rw [h, hij]
    next => rfl

/-! ### Slots that change otherwise -/

theorem countsKept_completeErasure (i : SlotIx) : CountsKept s (completeErasure i s) := by
  unfold completeErasure
  have h : CountsKept s (s.setSlot i { s.slot i with content := .empty }) := .setSlot rfl
  refine h.keep ?_
  split
  · split <;> simp
  · rfl

theorem countsKept_abandonSlot (h : Holder) (i : SlotIx) : CountsKept s (abandonSlot h i s) := by
  unfold abandonSlot
  split
  · exact .setSlot rfl
  · exact .of_eq rfl

theorem countsKept_installKey (h : Holder) (res : ResHolder) (i : SlotIx) (key : HeldKey) (origin : KeyOrigin) :
    CountsKept s (installKey h res i key origin s) := by
  unfold installKey
  simp only
  split
  · have hset : CountsKept s (s.setSlot i { s.slot i with content := .active key, generation := (s.slot i).generation + 1 }) := .setSlot rfl
    exact hset.keep (by simp)
  · exact .of_eq rfl

theorem countsKept_abortCeremony (reason : AbortReason) (leaver : Option Cust) (w : CeremonyWork) :
    CountsKept s (abortCeremony reason leaver w s) := by
  have htarget : CountsKept s (abandonTarget w s) := by
    unfold abandonTarget
    split
    · exact countsKept_abandonSlot ..
    · exact .of_eq rfl
  rw [abortCeremony_eq]
  exact htarget.keep (by simp)

theorem countsKept_custodianLeft (c : Cust) : CountsKept s (custodianLeft c s) := by
  unfold custodianLeft
  split
  · split
    · exact countsKept_abortCeremony ..
    · exact .of_eq rfl
  · exact .of_eq rfl

theorem countsKept_endLogon (l : ConsoleLink) : CountsKept s (endLogon l s) := by
  unfold endLogon
  split
  · exact .of_eq rfl
  · exact (countsKept_custodianLeft _).after rfl

theorem countsKept_endLogonsOf (c : Cust) : CountsKept s (endLogonsOf c s) := by
  have hstep : ∀ l u, CountsKept u (endLogonIf c l u) := fun l u => by
    unfold endLogonIf
    split
    · exact countsKept_endLogon l
    · exact .of_eq rfl
  rw [endLogonsOf_eq]
  exact (hstep 0 s).trans (hstep 1 _)

/-! ### The ceremony -/

theorem countsKept_openCeremony (l : ConsoleLink) (p : Person) (o : Opening) : CountsKept s (openCeremony l p o s) := by
  have hstart : ∀ params u, CountsKept u (startCeremony l p params u) := fun params u => by
    unfold startCeremony
    simp only
    split
    next slot _ _ _ _ =>
      have hset : CountsKept u (reserveSlot .ceremony slot u) := .setSlot rfl
      exact hset.keep (by simp)
    next => exact .of_eq (by simp)
  rcases openCeremony_cases l p o s with ⟨st, h⟩ | h | ⟨params, -, -, -, -, h⟩ <;> rw [h]
  · exact .of_eq (by simp)
  · exact .of_eq (by simp)
  · exact (hstart ..).after (by simp)

theorem countsKept_badEntry (w : CeremonyWork) : CountsKept s (badEntry w s) := by
  unfold badEntry
  simp only
  split
  · exact .of_eq (by simp)
  · exact (countsKept_abortCeremony ..).after (by simp)

theorem countsKept_giveComponent (l : ConsoleLink) (p : Person) (value : KeyBytes) (check : Kcv) :
    CountsKept s (giveComponent l p value check s) := by
  have hanswer : ∀ st, CountsKept s (answer l 0x05 st .nothing s) := fun _ => .of_eq (by simp)
  unfold giveComponent
  split
  · split
    · unfold componentChecked
      split
      · exact hanswer _
      · split
        · exact hanswer _
        · split
          · exact hanswer _
          · split
            · exact (hanswer _).trans (countsKept_badEntry _)
            · exact .of_eq (by simp [takeComponent])
    · exact hanswer _
  · exact hanswer _

theorem countsKept_approveErase (i : SlotIx) (w : CeremonyWork) : CountsKept s (approveErase i w s) := by
  unfold approveErase
  simp only
  split
  · exact (countsKept_completeErasure i).after (by rfl)
  · split
    next k _ =>
      have h : CountsKept s (s.setSlot i { s.slot i with content := .erasing k }) := .setSlot rfl
      exact h.keep (by simp)
    next => exact .of_eq (by simp)

theorem countsKept_completeCeremony (w : CeremonyWork) (pair : Pair) : CountsKept s (completeCeremony w pair s) := by
  unfold completeCeremony
  split
  next slot cls length count keySet _ =>
    have hinstall : CountsKept s (installAssembled slot cls length keySet pair w s) := by
      unfold installAssembled
      split
      · exact countsKept_installKey ..
      · exact .of_eq rfl
    exact hinstall.keep (by simp)
  next => exact countsKept_approveErase ..
  next => exact .of_eq (by simp)
  next => exact .of_eq (by simp [changeCustodian])
  next => exact (countsKept_endLogonsOf _).after (by simp [changeCustodian])
  next => exact .of_eq (by simp [changeCustodian])

theorem countsKept_acceptCeremony (l : ConsoleLink) (p : Person) : CountsKept s (acceptCeremony l p s) := by
  unfold acceptCeremony
  split
  · split
    · exact .of_eq (by simp)
    · simp only
      split
      · exact (countsKept_completeCeremony ..).after (by simp)
      · exact .of_eq (by simp)
  · exact .of_eq (by simp)

theorem countsKept_personHandler {c : Instr} {l : ConsoleLink} {kind : Byte} (h : consoleMessage? c = some (l, kind))
    (hn : needsLogon c = true) (hz : c ≠ .zeroise l) (p : Person) : CountsKept s (personHandler c p s) := by
  have hanswer : ∀ k st, CountsKept s (answer l k st .nothing s) := fun k st => .of_eq (by simp)
  cases c <;> simp only [consoleMessage?, needsLogon, reduceCtorEq, Bool.false_eq_true, Option.some.injEq, Prod.mk.injEq] at h hn <;>
    obtain ⟨rfl, rfl⟩ := h <;> simp only [personHandler]
  case accept => exact countsKept_acceptCeremony ..
  case zeroise => exact absurd rfl hz
  case logoff => exact (hanswer ..).trans (countsKept_endLogon _)
  case component => exact countsKept_giveComponent ..
  case reject =>
    unfold rejectCeremony
    split
    · split
      · exact (hanswer ..).trans (countsKept_abortCeremony ..)
      · exact hanswer ..
    · exact hanswer ..
  case cancel =>
    unfold cancelCeremony
    split
    · split
      · exact (hanswer ..).trans (countsKept_abortCeremony ..)
      · exact hanswer ..
    · exact hanswer ..
  all_goals exact countsKept_openCeremony ..

/-! ### Completions and expiries of the ceremony -/

theorem countsKept_settleCeremony : CountsKept s (settleCeremony s) := by
  unfold settleCeremony
  split <;> exact .of_eq (by simp)

theorem countsKept_checkComponentHandled (j : Job) : CountsKept s (checkComponentHandled j s) := by
  unfold checkComponentHandled
  split
  · exact countsKept_settleCeremony
  · split
    · split
      · split
        · exact .of_eq rfl
        · split
          · unfold componentPassed
            simp only
            split <;> exact .of_eq (by simp)
          · exact (countsKept_badEntry _).after (by simp)
      · exact .of_eq rfl
    · exact .of_eq rfl

theorem countsKept_combineHandled (j : Job) : CountsKept s (combineHandled j s) := by
  unfold combineHandled
  split
  · exact countsKept_settleCeremony
  · split
    · split
      · split
        · exact .of_eq rfl
        · exact .of_eq (by simp)
      · exact .of_eq rfl
    · exact .of_eq rfl

theorem countsKept_windowExpired : CountsKept s (windowExpired s) := by
  unfold windowExpired
  split
  · split
    · exact countsKept_abortCeremony ..
    · exact .of_eq rfl
  · exact .of_eq rfl

/-! ### Counters (R10, R20) -/

theorem countsKept_counterAdvance (tag : Byte) (n value : Nat) : CountsKept s (counterAdvance tag n value s) := by
  have hraise : ∀ (i : SlotIx) (key : HeldKey) keySet next, CountsKept s (counterRaise tag i key keySet next value s) :=
    fun i key keySet next => by
    unfold counterRaise
    split
    · exact .of_eq (by simp)
    · rcases Nat.lt_or_ge s.journal.occupancy 511 with hf | hf
      · rw [requestReservation_granted hf]
        have hslot : (reserved .counterAdvance s).slot i = s.slot i := by simp
        have hset : CountsKept (reserved .counterAdvance s)
            ((reserved .counterAdvance s).setSlot i { s.slot i with content := withNextCounter key keySet value }) :=
          .setSlot (by rw [hslot])
        exact (hset.after (by simp)).keep (by simp)
      · rw [requestReservation_refused hf]
        exact .of_eq (by simp)
  unfold counterAdvance
  split
  · exact .of_eq (by simp)
  · split
    · exact .of_eq (by simp)
    · split
      · exact .of_eq (by simp)
      · split
        · split
          · exact .of_eq (by simp)
          · exact hraise ..
        · exact .of_eq (by simp)

/-! ### Zeroise (R18, R103) -/

theorem countsKept_zeroiseStart : CountsKept s (zeroiseStart s) := by
  have hclose : CountsKept s (zeroiseClose s.line (setLine .zeroised s)) := by
    unfold zeroiseClose
    split <;> exact .of_eq (by simp)
  have hslots : ∀ u, CountsKept u (zeroiseSlots u) := fun u => ⟨fun i => by rw [State.slot, zeroiseSlots, Tab.get_map]; rfl⟩
  exact (hclose.trans (hslots _)).keep rfl

theorem countsKept_zeroiseWork : CountsKept s (zeroiseWork s) := by
  have hceremony : CountsKept s (zeroiseCeremony s) := by
    unfold zeroiseCeremony
    split
    · exact countsKept_abortCeremony ..
    · exact .of_eq rfl
  exact hceremony.keep rfl

end

end Sys2Proof.Machine
end

section
/-! Every in-use count equals the claims of the work in flight, up to the claims that a transaction has yet to release (R8). -/

namespace Sys2Proof.Machine
open Sys2Proof.Safety

/-- The claims of a pending-step record on a slot (R8). -/
def recordClaims (x : Option PendingStep) (i : SlotIx) : Nat :=
  x.elim 0 fun ps => (if ps.facts.source = i then 1 else 0) + if ps.facts.cover = i then 1 else 0

/-- The claim of an import on its transport slot (R8). -/
def transportClaim (x : Option ImportWork) (i : SlotIx) : Nat := x.elim 0 fun w => if w.transport = i then 1 else 0

/-- Every in-use count is the claims in flight and, on top, those still to be released. -/
structure Exact (owed : SlotIx → Nat) (s : State) : Prop where
  count : ∀ i, (s.slot i).inUse = claims s i + owed i

/-- One claim on a slot is still to be released. -/
def oneOn (j i : SlotIx) : Nat := if j = i then 1 else 0

section
variable {s t u : State} {owed : SlotIx → Nat}

theorem stepClaims_eq (i : SlotIx) (p : Port) : stepClaims s i p = recordClaims (s.step p) i := by
  unfold stepClaims recordClaims
  cases s.step p <;> rfl

theorem importClaims_eq (i : SlotIx) : importClaims s i = transportClaim s.importWork i := by
  unfold importClaims transportClaim
  cases s.importWork <;> rfl

theorem claims_eq (i : SlotIx) :
    claims s i = (allPorts.map fun p => recordClaims (s.step p) i).sum + transportClaim s.importWork i := by
  rw [claims, importClaims_eq]
  congr 3
  exact funext fun p => stepClaims_eq i p

/-- The claims rest on the steps and the import alone. -/
theorem claims_congr (hs : ∀ p i, recordClaims (t.step p) i = recordClaims (s.step p) i)
    (hw : ∀ i, transportClaim t.importWork i = transportClaim s.importWork i) (i : SlotIx) : claims t i = claims s i := by
  rw [claims_eq, claims_eq, hw]
  simp only [hs]

theorem sum_map_swap {f g : Port → Nat} {p : Port} {l : List Port} (hn : l.Nodup) (hp : p ∈ l) (h : ∀ q, q ≠ p → f q = g q) :
    (l.map f).sum + g p = (l.map g).sum + f p := by
  induction l with
  | nil => cases hp
  | cons a l ih =>
    obtain ⟨ha, hl⟩ := List.nodup_cons.1 hn
    simp only [List.map_cons, List.sum_cons]
    by_cases hpa : p = a
    · subst hpa
      have htail : l.map f = l.map g := List.map_congr_left fun q hq => h q fun he => ha (he ▸ hq)
      rw [htail]
      omega
    · have htail := ih hl (List.mem_of_ne_of_mem hpa hp)
      have hhead := h a (Ne.symm hpa)
      omega

/-- A pending-step record takes the place of another. -/
theorem claims_setStep {p : Port} {x : Option PendingStep} (hs : ∀ q, t.step q = if p = q then x else s.step q)
    (hw : t.importWork = s.importWork) (i : SlotIx) : claims t i + recordClaims (s.step p) i = claims s i + recordClaims x i := by
  have hsum := sum_map_swap (f := fun q => recordClaims (t.step q) i) (g := fun q => recordClaims (s.step q) i) (p := p) (l := allPorts)
    (by decide) (mem_allPorts p) fun q hq => by rw [hs, if_neg (Ne.symm hq)]
  have hself : t.step p = x := by rw [hs, if_pos rfl]
  simp only [hself] at hsum
  rw [claims_eq, claims_eq, hw]
  omega

theorem Exact.of_kept (h : Exact owed s) (hk : CountsKept s t) (hs : ∀ p i, recordClaims (t.step p) i = recordClaims (s.step p) i)
    (hw : ∀ i, transportClaim t.importWork i = transportClaim s.importWork i) : Exact owed t where
  count i := by
    rw [hk.inUse, claims_congr hs hw]
    exact h.count i

theorem Exact.of_same (h : Exact owed s) (hk : CountsKept s t) (hs : ∀ p, t.step p = s.step p) (hw : t.importWork = s.importWork) :
    Exact owed t := h.of_kept hk (fun p i => by rw [hs]) fun i => by rw [hw]

/-! ### The end of a step (R11, R162) -/

theorem Exact.lowered {j : SlotIx} (h : Exact (fun i => owed i + oneOn j i) s) : Exact owed (lowerInUse j s) where
  count i := by
    have hclaims : claims (lowerInUse j s) i = claims s i := claims_congr (fun _ _ => by simp) (fun _ => by simp) i
    obtain ⟨hothers, hself, -⟩ := lowerInUse_spec j s
    have hi := h.count i
    rw [hclaims]
    by_cases hj : j = i
    · subst hj
      simp only [oneOn, if_true] at hi
      omega
    · simp only [oneOn, if_neg hj] at hi
      rw [hothers i hj]
      omega

theorem recordClaims_some (ps : PendingStep) (i : SlotIx) :
    recordClaims (some ps) i = oneOn ps.facts.source i + oneOn ps.facts.cover i := rfl

theorem exact_endStep (h : Exact owed s) {p : Port} {ps : PendingStep} (hp : s.step p = some ps) (body : RecordBody) :
    Exact owed (endStep p ps body s) := by
  refine Exact.lowered (Exact.lowered ⟨fun i => ?_⟩)
  have hclaims := claims_setStep (s := s) (t := (writeRecord (.bench p) body s).setStep p none) (p := p) (x := none)
    (fun q => by rw [State.step_setStep]; rfl) rfl i
  rw [hp, recordClaims_some] at hclaims
  have hi := h.count i
  have hslot : (((writeRecord (.bench p) body s).setStep p none).slot i).inUse = (s.slot i).inUse := rfl
  rw [hslot]
  simp only [recordClaims, Option.elim_none] at hclaims ⊢
  omega

theorem exact_voidStep (h : Exact owed s) (p : Port) (kcv : PendingStep → Option Kcv) (reason : VoidReason) :
    Exact owed (voidStep p kcv reason s) := by
  unfold voidStep
  split
  · exact h
  next ps hps => exact exact_endStep h hps _

theorem exact_endSession (h : Exact owed s) (reason : VoidReason) (p : Port) : Exact owed (endSession reason p s) := by
  have hfinish : ∀ ss next u, Exact owed u → Exact owed (finishSession p ss reason next u) := fun ss next u hu =>
    hu.of_same (.of_eq (by simp)) (fun q => step_finishSession ..) (by simp)
  unfold endSession
  split
  · exact hfinish _ _ _ h
  · exact hfinish _ _ _ (exact_voidStep h ..)
  · have hjob : Exact owed (withdrawJob (benchRequester p) s) := h.of_same (.of_eq (by simp)) (by simp) (by simp)
    simp only
    split
    · exact hfinish _ _ _ hjob
    · exact hfinish _ _ _ (exact_voidStep hjob ..)
  · exact h

theorem exact_endAllSessions (h : Exact owed s) (reason : VoidReason) : Exact owed (endAllSessions reason s) := by
  unfold endAllSessions
  induction allPorts generalizing s with
  | nil => exact h
  | cons p l ih => exact ih (exact_endSession h reason p)

/-! ### Zeroise and reset (R103, R107) -/

theorem exact_zeroisePart (h : Exact owed s) (cause : TamperCause) : Exact owed (zeroisePart cause s) := by
  have hstart : Exact owed (zeroiseStart s) := h.of_same countsKept_zeroiseStart step_zeroiseStart (by
    have hclose : (zeroiseClose s.line (setLine .zeroised s)).importWork = s.importWork := by
      unfold zeroiseClose
      split <;> simp
    exact hclose)
  have hwork : ∀ u, Exact owed u → Exact owed (zeroiseWork u) := fun u hu => by
    obtain ⟨-, -, hstep⟩ := zeroiseCeremony_seats (s := u)
    have himport : (zeroiseCeremony u).importWork = u.importWork := by
      unfold zeroiseCeremony
      split <;> simp
    refine hu.of_kept countsKept_zeroiseWork (fun p i => congrArg (recordClaims · i) (hstep p)) fun i => ?_
    have hz : (zeroiseWork u).importWork = (zeroiseCeremony u).importWork.map fun w => { w with zeroised := true } := rfl
    rw [hz, himport]
    cases u.importWork <;> rfl
  rw [zeroisePart_eq]
  exact (exact_endAllSessions (hwork _ hstart) .zeroised).of_same (.of_eq (by simp [tamperJournal])) (by simp [tamperJournal])
    (by simp [tamperJournal])

theorem exact_resetPart (cause : ResetCause) : Exact (fun _ => 0) (resetPart cause s) := by
  have hblocks : ∀ u, Exact (fun _ => 0) (resetBlocks cause u) := fun u => ⟨fun i => by
    obtain ⟨-, -, -, -, hwork, -⟩ := resetBlocks_fixed cause u
    rw [resetBlocks_slot, claims_of_none (resetBlocks_step cause u) hwork]
    rfl⟩
  rw [resetPart_eq]
  have h := hblocks (foundStore s)
  generalize resetBlocks cause (foundStore s) = u at h
  unfold zeroiseAfterReset
  split
  · exact exact_zeroisePart (h.of_same (t := clearLatch u) (.of_eq rfl) (fun _ => rfl) rfl) _
  · split
    · exact exact_zeroisePart h _
    · exact h

end

end Sys2Proof.Machine
end

section
/-! Every transaction of a running part keeps the in-use counts exact (R8). -/

namespace Sys2Proof.Machine
open Sys2Proof.Safety

section
variable {s t u : State} {owed : SlotIx → Nat}

/-! ### Bench messages -/

theorem exact_verdict (h : Exact owed s) (p : Port) (st : Status) : Exact owed (verdict p st s) :=
  h.of_same (.of_eq (by simp)) (by simp) (by simp)

/-- An admitted step raises the count of its source and of its cover, and claims both (R8, R160). -/
theorem exact_startStep {p : Port} {ss : Session} {index : Nat} {st : RecipeStep} {a : Admission} (h : Exact owed s)
    (hp : s.step p = none) (hne : st.source ≠ ss.cover) :
    Exact owed (startStep p ss index st a (allocated st.source a.source a.derivation (bothRaised st.source ss.cover s))) where
  count i := by
    have hstep := fun q => (seats_startStep (s := allocated st.source a.source a.derivation (bothRaised st.source ss.cover s)) p ss index st a q).2
    have hslot : (startStep p ss index st a (allocated st.source a.source a.derivation (bothRaised st.source ss.cover s))).slot i
        = (allocated st.source a.source a.derivation (bothRaised st.source ss.cover s)).slot i := by simp [startStep]
    have hclaims := claims_setStep (s := s) (p := p) (x := some (stepRecord p ss index st a))
      (fun q => by rw [hstep, step_allocated]; rfl) (by cases ha : a.derivation <;> simp [startStep, allocated, allocateCounter, bothRaised, raiseInUse]) i
    rw [hp, recordClaims_some] at hclaims
    have hi := h.count i
    have hcount := (slot_allocated (s := bothRaised st.source ss.cover s) (source := st.source) (k := a.source) a.derivation i).1
    have hraised : ((bothRaised st.source ss.cover s).slot i).inUse = (s.slot i).inUse + oneOn st.source i + oneOn ss.cover i := by
      rw [slot_bothRaised hne]; rfl
    rw [hslot, hcount, hraised]
    simp only [recordClaims, Option.elim_none, stepRecord] at hclaims ⊢
    omega

theorem exact_admitFetch (h : Exact owed s) {p : Port} (hp : s.step p = none) (ss : Session) (index : Nat) (st : RecipeStep) :
    Exact owed (admitFetch p ss index st s) := by
  unfold admitFetch
  rcases Nat.lt_or_ge s.journal.occupancy 511 with hf | hf
  · rw [requestReservation_granted hf]
    have hres : Exact owed (reserved (.bench p) s) := h.of_same (.of_eq (by simp)) (by simp) (by simp)
    simp only
    split
    · have hreturned : Exact owed (returnReservation (.bench p) (reserved (.bench p) s)) := hres.of_same (.of_eq rfl) (fun _ => rfl) rfl
      exact exact_verdict hreturned ..
    next a t ha =>
      obtain ⟨hadmits, rfl⟩ := admitStep_admitted ha
      exact exact_startStep hres (by simpa using hp) hadmits.ne
  · rw [requestReservation_refused hf]
    have hflag : Exact owed (s.setFlag .journalHigh) := h.of_same (.of_eq rfl) (fun _ => rfl) rfl
    exact exact_verdict hflag ..

theorem exact_fetchStep (h : Exact owed s) (hs : Seated s) (p : Port) (index : Nat) : Exact owed (fetchStep p index s) := by
  unfold fetchStep
  split
  next ss idle hctx =>
    have hnone : s.step p = none := by
      have hstep := (hs.ports p).step
      rw [hctx] at hstep
      exact Option.isNone_iff_eq_none.1 (Option.isSome_eq_false_iff.1 hstep.symm)
    unfold fetchTaken
    split
    · exact exact_verdict h ..
    · split
      · exact exact_verdict h ..
      · split
        · exact exact_verdict h ..
        · exact exact_admitFetch h hnone ..
  next => exact exact_verdict h ..

theorem exact_confirm (h : Exact owed s) (p : Port) (index : Nat) (kcv : Kcv) : Exact owed (confirm p index kcv s) := by
  unfold confirm
  split
  next ss idle ps hctx hps =>
    split
    · exact exact_verdict h ..
    · split
      · have hend : ∀ r, Exact owed (endStep p ps (.delivered ps.facts kcv) (s.setRegistry r)) := fun r =>
          exact_endStep (s := s.setRegistry r) (h.of_same (.of_eq rfl) (fun _ => rfl) rfl) hps _
        unfold confirmMatch
        simp only
        have hmatch := hend (modifyEntry ss.serial (Entry.deliver ps.facts.index ss.stepCount) s.registry)
        split <;> exact hmatch.of_same (.of_eq (by simp)) (by simp) (by simp)
      · have hend := exact_endStep h hps (.voided ps.facts ps.expected .kcvMismatch)
        unfold confirmMismatch
        simp only
        split <;> exact hend.of_same (.of_eq (by simp)) (by simp) (by simp)
  next => exact exact_verdict h ..

theorem exact_benchHandler (h : Exact owed s) (hs : Seated s) (c : Instr) : Exact owed (benchHandler c s) := by
  cases c
  case hello p serial model =>
    have hframe := hello_frame (s := s) p serial model
    have hstep := fun q => congrArg (fun x : State => x.step q) hframe
    exact h.of_same (.of_eq (hello_slots p serial model)) hstep (congrArg State.importWork hframe :)
  case fetch p index => exact exact_fetchStep h hs p index
  case confirm p index kcv => exact exact_confirm h p index kcv
  case bye p =>
    unfold benchHandler bye
    simp only
    split
    case h_4 => exact exact_verdict h ..
    all_goals exact exact_verdict (exact_endSession h ..) ..
  case benchBadMessage p => exact exact_verdict h ..
  all_goals exact h

/-! ### Job completions -/

theorem exact_closeFinish (h : Exact owed s) : Exact owed (closeFinish s) := h.of_same (.of_eq (by simp)) (by simp) (by simp)

theorem exact_prepareHandled (h : Exact owed s) (j : Job) : Exact owed (prepareHandled j s) := by
  have hoffer : ∀ p ss envelope kcv, Exact owed (offerStep p ss envelope kcv s) := fun p ss envelope kcv => by
    unfold offerStep
    split
    · exact h
    next ps hps =>
      refine h.of_kept (.of_eq (by simp)) (fun q i => ?_) fun i => by simp
      have hstep : (pushBench p (.key ps.facts.index envelope)
          ((s.setStep p (some { ps with expected := some kcv })).setCtx p (.offered ss (sessionTimer s)))).step q
          = if p = q then some { ps with expected := some kcv } else s.step q := by simp [State.step_setStep]
      rw [hstep]
      split
      next hq => rw [← hq, hps]; rfl
      next => rfl
  unfold prepareHandled
  split
  · exact h
  · split
    · unfold drainComplete
      split
      · refine exact_closeFinish ?_
        exact (exact_voidStep h ..).of_same (.of_eq rfl) (fun _ => rfl) rfl
      · exact h
    · split
      · split
        · exact h
        · exact hoffer ..
      · exact h

/-- The import's claim is released with its context (R15). -/
theorem exact_endImport {w : ImportWork} (h : Exact owed s) (hw : s.importWork = some w) : Exact owed (endImport w s) where
  count i := by
    have hclaims : claims s i = claims (endImport w s) i + oneOn w.transport i := by
      have hstep : ∀ p, (endImport w s).step p = s.step p := fun p => by
        have h : (lowerInUse w.transport s).step p = s.step p := by simp
        exact h
      have hidle : (endImport w s).importWork = none := rfl
      rw [claims_eq, claims_eq, hw, hidle]
      simp only [hstep]
      rfl
    obtain ⟨hothers, hself, -⟩ := lowerInUse_spec w.transport s
    have hslot : ((endImport w s).slot i).inUse = ((lowerInUse w.transport s).slot i).inUse := rfl
    have hi := h.count i
    rw [hslot]
    by_cases hj : w.transport = i
    · subst hj
      simp only [oneOn, if_true] at hclaims
      omega
    · simp only [oneOn, if_neg hj] at hclaims
      rw [hothers i hj]
      omega

theorem exact_unwrapHandled (h : Exact owed s) (j : Job) : Exact owed (unwrapHandled j s) := by
  unfold unwrapHandled
  split
  · exact h
  next w hw =>
    split
    · have hreturned : Exact owed (returnReservation .importUnit (abandonSlot .importUnit w.target s)) :=
        h.of_same ((countsKept_abandonSlot .importUnit w.target).keep rfl) (by simp) (by simp)
      exact (exact_endImport hreturned (by simpa using hw)).of_same (.of_eq (by simp)) (by simp) (by simp)
    next key _ =>
      have hinstalled : Exact owed (installKey .importUnit .importUnit w.target key (.imported w.transport w.transportGen) s) :=
        h.of_same (countsKept_installKey ..) (by simp) (by simp)
      simp only
      exact (exact_endImport hinstalled (by simpa using hw)).of_same (.of_eq (by simp)) (by simp) (by simp)

theorem exact_completion {fits : JobInputs → Bool} {handle : Job → State → State} (hc : Completes fits handle) (h : Exact owed s) (j : Job) :
    Exact owed (handle j s) := by
  have hceremony : ∀ t, CountsKept s t → withCeremony s t = s → Exact owed t := fun t hk ht => by
    have hstep := fun p => congrArg (fun x : State => x.step p) ht
    exact h.of_same hk hstep (congrArg State.importWork ht :)
  cases hc with
  | prepareShared | prepareDerived => exact exact_prepareHandled h j
  | checkComponent => exact hceremony _ (countsKept_checkComponentHandled j) (checkComponentHandled_frame j)
  | combine => exact hceremony _ (countsKept_combineHandled j) (combineHandled_frame j)
  | unwrap => exact exact_unwrapHandled h j

/-! ### Requests -/

theorem Exact.refused (h : Exact owed s) (tag kind : Byte) (st : Status) : Exact owed (refuse tag kind st s) :=
  h.of_same (.of_eq (by simp)) (by simp) (by simp)

/-- An import raises the count of its transport slot and claims it (R8, R67). -/
theorem exact_startImport (h : Exact owed s) (hn : s.importWork = none) (tag : Byte) (target transport : SlotIx) (key : HeldKey)
    (e : BankEnvelope) : Exact owed (startImport tag target transport key e s) where
  count i := by
    have hjob : ∀ r inputs (v : State), (∀ p, (requestJob r inputs v).step p = v.step p) ∧ (requestJob r inputs v).slot i = v.slot i :=
      fun _ _ _ => ⟨by simp, by simp⟩
    have hstep : ∀ p, (startImport tag target transport key e s).step p = s.step p := (hjob _ _ _).1
    have hwork : transportClaim (startImport tag target transport key e s).importWork i = oneOn transport i := by
      simp [startImport, transportClaim, oneOn]
    have hclaims : claims (startImport tag target transport key e s) i = claims s i + oneOn transport i := by
      rw [claims_eq, claims_eq, hwork, hn]
      simp only [hstep]
      rfl
    have hslot : ((startImport tag target transport key e s).slot i).inUse = (s.slot i).inUse + oneOn transport i := by
      have hset : (startImport tag target transport key e s).slot i = (reserveSlot .importUnit target (raiseInUse transport s)).slot i :=
        (hjob _ _ _).2
      rw [hset]
      simp only [reserveSlot, raiseInUse, State.slot_setSlot, oneOn]
      (repeat' split) <;> simp_all
    have hi := h.count i
    rw [hclaims, hslot]
    omega

theorem exact_importKey (h : Exact owed s) (tag : Byte) (body : List Byte) : Exact owed (importKey tag body s) := by
  unfold importKey
  split
  · exact h.refused ..
  next hidle =>
    split
    · exact h.refused ..
    · split
      · exact h.refused ..
      next b _ =>
        split
        · unfold importChecked
          split
          · exact h.refused ..
          next transport key _ =>
            split
            · exact h.refused ..
            next target _ =>
              rcases Nat.lt_or_ge s.journal.occupancy 511 with hf | hf
              · rw [requestReservation_granted hf]
                have hres : Exact owed (reserved .importUnit s) := h.of_same (.of_eq (by simp)) (by simp) (by simp)
                exact exact_startImport hres (by simpa using hidle) tag target transport key b.envelope
              · rw [requestReservation_refused hf]
                have hflag : Exact owed (s.setFlag .journalHigh) := h.of_same (.of_eq rfl) (fun _ => rfl) rfl
                exact hflag.refused ..
        · exact h.refused ..

theorem exact_lineClose (h : Exact owed s) (tag : Byte) : Exact owed (lineClose tag s) := by
  have hclose : Exact owed (beginClose tag s) := by
    have hline : Exact owed (setLine (.closing tag) s) := h.of_same (.of_eq (by simp)) (by simp) (by simp)
    exact exact_closeFinish (exact_endAllSessions hline _)
  unfold lineClose
  split
  · exact h.of_same (.of_eq (by simp)) (by simp) (by simp)
  · exact hclose
  · exact hclose
  · exact h.refused ..
  · exact h.refused ..

theorem exact_requestHandler (h : Exact (fun _ => 0) s) (c : Instr) : Exact (fun _ => 0) (requestHandler c s) := by
  cases hc : lightRequest c with
  | true =>
    have hframe := lightRequest_frame hc s
    have hslots : (requestHandler c s).store.slots = s.store.slots := (congrArg (fun x : State => x.store.slots) hframe :)
    have hstep := fun p => congrArg (fun x : State => x.step p) hframe
    exact h.of_same (.of_eq hslots) hstep (congrArg State.importWork hframe :)
  | false =>
    cases c <;> simp only [lightRequest, Bool.true_eq_false] at hc
    case profileCommit tag check =>
      have hframe := profileCommit_frame (s := s) tag check
      have hstep := fun p => congrArg (fun x : State => x.step p) hframe
      exact h.of_same (.of_eq (profileCommit_slots tag check)) hstep (congrArg State.importWork hframe :)
    case lineClose tag => exact exact_lineClose h tag
    case lineReset tag => exact exact_resetPart _
    case importKey tag body => exact exact_importKey h tag body
    case counterAdvance tag n value =>
      obtain ⟨hwork, -⟩ := counterAdvance_keeps (s := s) tag n value
      have hframe := counterAdvance_frame (s := s) tag n value
      have hstep := fun p => congrArg (fun x : State => x.step p) hframe
      exact h.of_same (countsKept_counterAdvance tag n value) hstep hwork

/-! ### Console messages and expiries -/

theorem Exact.of_withCeremony (h : Exact owed s) (hk : CountsKept s t) (ht : withCeremony s t = s) : Exact owed t := by
  have hstep := fun p => congrArg (fun x : State => x.step p) ht
  exact h.of_same hk hstep (congrArg State.importWork ht :)

theorem exact_personHandler (h : Exact owed s) {c : Instr} {l : ConsoleLink} {kind : Byte} (hc : consoleMessage? c = some (l, kind))
    (hn : needsLogon c = true) (p : Person) : Exact owed (personHandler c p s) := by
  by_cases hz : c = .zeroise l
  · subst hz
    exact exact_zeroisePart (h.of_same (.of_eq (by simp)) (by simp) (by simp)) _
  · have hkept := countsKept_personHandler (s := s) hc hn hz p
    by_cases ha : c = .accept l
    · subst ha
      have hframe := acceptCeremony_frame (s := s) l p
      have hstep := fun q => congrArg (fun x : State => x.step q) hframe
      exact h.of_same hkept hstep (congrArg State.importWork hframe :)
    · exact h.of_withCeremony hkept (personHandler_frame hc hn ha hz p)

theorem exact_expiry {expire : State → State} (he : Expiry expire) (h : Exact owed s) : Exact owed (expire s) := by
  cases he with
  | custodianIdle l =>
    unfold custodianIdleExpired
    split
    · exact h.of_withCeremony (countsKept_endLogon l) (endLogon_withCeremony l)
    · exact h
  | window =>
    refine h.of_withCeremony countsKept_windowExpired ?_
    unfold windowExpired
    split
    · split
      · exact abortCeremony_withCeremony ..
      · rfl
    · rfl
  | sessionIdle p =>
    unfold sessionIdleExpired
    split
    · exact exact_endSession h ..
    · exact h
  | entryAged i =>
    unfold entryAged
    split
    · exact h.of_same (.of_eq rfl) (fun _ => rfl) rfl
    · exact h

/-! ### One step -/

/-- What an event does to the in-use counts of a part whose journal's book-keeping holds. -/
structure CountsStep (s t : State) : Prop where
  exact : JournalBooked s → CountsExact s → CountsExact t

theorem exact_iff : Exact (fun _ => 0) s ↔ ∀ i, (s.slot i).inUse = claims s i := ⟨fun h => h.count, fun h => ⟨h⟩⟩

theorem CountsStep.running (hr : s.running = true) (h : InOrder s → Exact (fun _ => 0) s → Exact (fun _ => 0) t) : CountsStep s t :=
  ⟨fun hs hc _ => exact_iff.1 (h (inOrder_of_booked hs.1 (hs.2 hr)) (exact_iff.2 (hc hr)))⟩

theorem CountsStep.of_same (hk : CountsKept s t) (hs : ∀ p, t.step p = s.step p) (hw : t.importWork = s.importWork)
    (hr : t.running = true → s.running = true) : CountsStep s t :=
  ⟨fun _ hc hrun => exact_iff.1 ((exact_iff.2 (hc (hr hrun))).of_same hk hs hw)⟩

theorem CountsStep.of_eq (hk : t.store = s.store) (hw : t.importWork = s.importWork) (hr : t.running = true → s.running = true) :
    CountsStep s t :=
  .of_same (.of_eq (by rw [hk])) (fun p => by rw [State.step, hk]; rfl) hw hr

theorem CountsStep.stopped (hr : t.running = false) : CountsStep s t := ⟨fun _ _ hrun => by rw [hr] at hrun; cases hrun⟩

theorem CountsStep.reset (cause : ResetCause) : CountsStep s (resetPart cause u) := ⟨fun _ _ _ => exact_iff.1 (exact_resetPart cause)⟩

theorem countsStep_level {change : State → State} (h : LevelChange change) : CountsStep s (change s) := by
  cases h with
  | consoleArrives l => exact .of_eq rfl rfl id
  | consoleLeaves l =>
    unfold consoleLeaves
    simp only
    split
    · exact .of_eq rfl rfl id
    · split
      · exact .of_eq rfl rfl id
      next hr =>
        refine .running (by simpa using hr) fun _ hc => ?_
        have hset : ∀ c, Exact (fun _ => 0) (s.setConsole l c) := fun c => hc.of_same (.of_eq rfl) (fun _ => rfl) rfl
        exact (hset _).of_withCeremony (countsKept_endLogon l) (endLogon_withCeremony l)
  | terminalArrives p =>
    unfold terminalArrives
    simp only
    (repeat' split) <;> exact .of_eq rfl rfl id
  | terminalLeaves p =>
    unfold terminalLeaves
    simp only
    split
    · exact .of_eq rfl rfl id
    · split
      · exact .of_eq rfl rfl id
      next hr =>
        refine .running (by simpa using hr) fun _ hc => ?_
        have hset : ∀ b, Exact (fun _ => 0) (s.setBench p b) := fun b => hc.of_same (.of_eq rfl) (fun _ => rfl) rfl
        unfold contextDetached
        split
        case h_4 => exact exact_endSession (hset _) ..
        all_goals exact Exact.of_same hc (.of_eq rfl) (fun _ => rfl) rfl
  | coverOpens =>
    unfold coverOpens
    split
    · exact .of_eq rfl rfl id
    · simp only
      split
      next hr =>
        exact .running hr fun _ hc => exact_zeroisePart (s := { s with tamperLine := true }) (hc.of_same (.of_eq rfl) (fun _ => rfl) rfl) _
      next hr =>
        unfold setLatch
        split
        · exact .of_eq rfl rfl id
        · exact .stopped (by simpa [State.running] using hr)
  | coverCloses => exact .of_eq rfl rfl id
  | powerArrives =>
    unfold powerArrives
    split
    · exact .of_eq rfl rfl id
    · simp only
      split
      next hpin => exact .stopped (by simp [State.running, hpin])
      next => exact .reset _
  | powerLeaves =>
    unfold powerLeaves
    split
    · exact .of_eq rfl rfl id
    · simp only
      split <;> exact .stopped rfl
  | batteryLeaves =>
    unfold batteryLeaves
    simp only
    split
    · exact .of_eq rfl rfl id
    next hp => exact .stopped (by simp [State.running, loseStore, hp])
  | pinAsserted => exact .stopped (by simp [State.running])
  | pinReleased =>
    unfold pinReleased
    split
    · exact .of_eq rfl rfl id
    · simp only
      split
      next hp => exact .stopped (by simpa [State.running] using hp)
      next => exact .reset _

/-- What one command does to the in-use counts. -/
theorem countsStep_happens (h : Happens s t) : CountsStep s t := by
  cases h with
  | nothing | frameError | overrun | unreadable | busy | notLoggedOn => exact .of_eq rfl rfl id
  | fetch clocks =>
    have hready : ∀ u, CountsStep u (readyFollowsQueue u) := fun u => by
      unfold readyFollowsQueue
      split <;> exact .of_eq rfl rfl id
    unfold responseFetch
    split
    · exact .of_eq rfl rfl id
    · split
      · exact .of_eq rfl rfl id
      next r rest _ =>
        simp only
        split
        · exact .of_eq rfl rfl id
        · have htaken : ∀ f rs os, CountsStep s { s with shiftedOut := f, responses := rs, outstanding := os } := fun _ _ _ => .of_eq rfl rfl id
          have hbooked : ∀ f rs os, JournalStep s { s with shiftedOut := f, responses := rs, outstanding := os } := fun _ _ _ =>
            .of_eq rfl rfl rfl (fun _ => rfl) (fun _ => rfl) id
          exact ⟨fun hs hc => (hready _).exact ((hbooked ..).booked hs) ((htaken ..).exact hs hc)⟩
  | @request c r hr ha =>
    exact .running ha.1 fun _ hc => exact_requestHandler (s := s.withRequest r.tag r.kind r.length)
      (hc.of_same (.of_eq rfl) (fun _ => rfl) rfl) c
  | receiver k r => cases k <;> exact .of_eq rfl rfl id
  | @console c l kind hc hn hl =>
    have hframe := consoleHandler_frame hc hn (heard l s)
    have hstep := fun p => congrArg (fun x : State => x.step p) hframe
    exact .of_same (.of_eq (congrArg (fun x : State => x.store.slots) hframe :)) hstep (congrArg State.importWork hframe :) fun _ => hl.1.1
  | @person c l kind who hc hn hl _ =>
    exact .running hl.1.1 fun _ hx => exact_personHandler (s := heard l s) (hx.of_same (.of_eq rfl) (fun _ => rfl) rfl) hc hn _
  | @unknownOpen l who hl _ =>
    exact .running hl.1.1 fun _ hx => Exact.of_withCeremony (s := heard l s) (hx.of_same (.of_eq rfl) (fun _ => rfl) rfl)
      (countsKept_openCeremony ..) (openCeremony_withCeremony ..)
  | @bench c p hc hp =>
    exact .running hp.1 fun hs hx => exact_benchHandler (s := heardAt p s) (hx.of_same (.of_eq rfl) (fun _ => rfl) rfl)
      (seated_heardAt hs.seated p) c
  | sent k =>
    cases k <;> (unfold transmitDone; simp only; split <;> exact .of_eq rfl rfl id)
  | level hl => exact countsStep_level hl
  | expiry he hr => exact .running hr fun _ => exact_expiry he
  | @completion fits handle j hc hr =>
    refine .running hr fun _ hx => ?_
    have htaken : Exact (fun _ => 0) (jobTaken s) := hx.of_same (.of_eq rfl) (fun _ => rfl) rfl
    exact (exact_completion hc htaken j).of_same (.of_eq (by simp)) (by simp) (by simp)

theorem countsStep_tick : CountsStep s (tick s) := by
  unfold tick
  split <;> exact .of_same (.of_eq rfl) (fun _ => rfl) rfl id

theorem countsStep_step (h : step s = .next t) : CountsStep s t := by
  rcases happens_of_step h with rfl | ⟨c, rest, -, hc⟩
  · exact countsStep_tick
  · have hqueue : JournalStep s { s with pending := rest } := .of_eq rfl rfl rfl (fun _ => rfl) (fun _ => rfl) id
    have hcounts : CountsStep s { s with pending := rest } := .of_eq rfl rfl id
    exact ⟨fun hs hx => (countsStep_happens hc).exact (hqueue.booked hs) (hcounts.exact hs hx)⟩

end

end Sys2Proof.Machine

open Sys2Proof Sys2Proof.Machine Sys2Proof.Safety

/-- Settles O55: an admission and an import raise the counts they claim, their ends lower them, and a reset clears both. -/
theorem stepKeepsCountsExact : Obligations.StepKeepsCountsExact := fun _ _ hs hc h => (countsStep_step h).exact hs hc

end

section
/-! What a part that does not run takes (R106), what a fetch shifts out (R194, R198), and what PROFILE_BLOCK stages (R78). -/

namespace Sys2Proof.Machine
open Sys2Proof.Safety

section
variable {s : State}

/-! ### A part that does not run (R106) -/

theorem consoleMessage_notRunning (hr : s.running = false) (l : ConsoleLink) (kind : Byte) (handle : State → State) :
    consoleMessage l kind handle s = s := by
  simp [consoleMessage, hr]

theorem benchMessage_notRunning (hr : s.running = false) (p : Port) (handle : State → State) : benchMessage p handle s = s := by
  simp [benchMessage, hr]

theorem completeJob_notRunning (hr : s.running = false) (fits : JobInputs → Bool) (handle : Job → State → State) :
    completeJob fits handle s = s := by
  simp [completeJob, hr]

/-- The commands of the wire that have a gate of their own, and the others. -/
theorem exec_notRunning {c : Instr} (hr : s.running = false) (hl : changesLevel c = false) : exec c s = .next s := by
  cases hq : request? c with
  | some r => rw [exec_request hq, acceptRequest_notRunning hr]
  | none =>
    cases hm : consoleMessage? c with
    | some m =>
      obtain ⟨handle, hexec⟩ := exec_consoleMessage hm
      rw [hexec, consoleMessage_notRunning hr]
    | none =>
      cases hb : benchMessage? c with
      | some p => rw [exec_bench hb, benchMessage_notRunning hr]
      | none =>
        cases c <;> simp only [request?, consoleMessage?, benchMessage?, changesLevel, reduceCtorEq] at hq hm hb hl
        case responseFetch clocks => exact congrArg Host.Outcome.next (by simp [responseFetch, hr])
        case requestWriteDiscard bytes => exact congrArg Host.Outcome.next (by simp [transaction, hr])
        case receiverTimeout k => exact congrArg Host.Outcome.next (by simp [hr])
        case prepareSharedDone | prepareDerivedDone | checkComponentDone | combineDone | unwrapDone =>
          exact congrArg Host.Outcome.next (completeJob_notRunning hr ..)
        all_goals exact congrArg Host.Outcome.next (if_neg (by simp [hr]))

theorem exists_exec_eq_next (c : Instr) (s : State) : ∃ t, exec c s = .next t := by cases c <;> exact ⟨_, rfl⟩

/-! ### A response fetch (R194, R198) -/

theorem exec_responseFetch (clocks : Nat) (s : State) : exec (.responseFetch clocks) s = .next (responseFetch clocks s) := rfl

theorem responseFetch_empty (hr : s.running = true) (h : s.responses = []) (clocks : Nat) :
    responseFetch clocks s = { s with shiftedOut := shiftOut clocks emptyMarker } := by
  simp [responseFetch, hr, h]

theorem responseFetch_partial {r : Response} {rest : List Response} {clocks : Nat} (hr : s.running = true) (h : s.responses = r :: rest)
    (hc : clocks < r.frame.length) : responseFetch clocks s = { s with shiftedOut := shiftOut clocks r.frame } := by
  simp [responseFetch, hr, h, hc]

theorem responseFetch_whole {r : Response} {rest : List Response} {clocks : Nat} (hr : s.running = true) (h : s.responses = r :: rest)
    (hc : r.frame.length ≤ clocks) :
    responseFetch clocks s = readyFollowsQueue
      { s with
        shiftedOut := shiftOut clocks r.frame, responses := rest
        outstanding := s.outstanding.filter fun o => o.tag != r.tag } := by
  simp [responseFetch, hr, h, Nat.not_lt.2 hc]

theorem readyFollowsQueue_flags (s : State) :
    readyFollowsQueue s = { s with flags := if s.responses = [] then s.flags &&& ~~~0x001#12 else s.flags } := by
  unfold readyFollowsQueue
  by_cases h : s.responses = []
  · rw [if_pos (by simp [h]), if_pos h, State.clearFlag, only_responseReady]
  · rw [if_neg (by simp [h]), if_neg h]

theorem shiftOut_short {clocks : Nat} {frame : List Byte} (h : clocks ≤ frame.length) : shiftOut clocks frame = 0 :: frame.take clocks := by
  simp [shiftOut, Nat.sub_eq_zero_of_le h]

theorem shiftOut_long {clocks : Nat} {frame : List Byte} (h : frame.length ≤ clocks) :
    shiftOut clocks frame = 0 :: frame ++ List.replicate (clocks - frame.length) 0 := by
  rw [shiftOut, List.take_of_length_le h]

theorem shiftOut_padded (clocks : Nat) (frame : List Byte) :
    shiftOut clocks frame = 0 :: (frame ++ List.replicate (clocks - frame.length) 0).take clocks := by
  simp [shiftOut, List.take_append]

/-! ### PROFILE_BLOCK (R78, R79) -/

theorem exec_profileBlock {tag : Byte} {body : List Byte} (ha : Accepts tag s) (hlen : body.length ≤ 2048) :
    exec (.profileBlock tag body) s = .next (profileBlock tag body (s.withRequest tag 0x02 body.length)) :=
  congrArg Host.Outcome.next (acceptRequest_of_accepts ha hlen)

/-- A body of a kind byte, four check bytes and the block's own body. -/
theorem readBlock_cons (k c3 c2 c1 c0 : Byte) (rest : List Byte) :
    readBlock (k :: c3 :: c2 :: c1 :: c0 :: rest) =
      if within 1 5 k.toNat then some { kind := k, body := rest, check := BitVec.ofNat 32 (beNat [c3, c2, c1, c0]) } else none := by
  have hnat : readNat 4 (c3 :: c2 :: c1 :: c0 :: rest) = some (beNat [c3, c2, c1, c0], rest) := by simp [readNat, readBytes]
  simp [readBlock, readByte_cons, hnat]

theorem readBlock_short {body : List Byte} (h : body.length < 5) : readBlock body = none := by
  match body, h with
  | [], _ => rfl
  | [_], _ => rfl
  | [_, _], _ => rfl
  | [_, _, _], _ => rfl
  | [_, _, _, _], _ => rfl

theorem within_kind (k : Byte) : within 1 5 k.toNat = true ↔ k ≠ 0 ∧ k.toNat ≤ 5 := by
  have hzero : k = 0 ↔ k.toNat = 0 := ⟨fun h => by rw [h]; rfl, fun h => BitVec.eq_of_toNat_eq h⟩
  simp only [within, Bool.and_eq_true, decide_eq_true_eq, ne_eq, hzero]
  omega

/-- A body that does not begin with a kind of 1 to 5 and four check bytes does not read. -/
theorem readBlock_eq_none {body : List Byte}
    (h : ∀ k c3 c2 c1 c0 rest, body = k :: c3 :: c2 :: c1 :: c0 :: rest → k = 0 ∨ 5 < k.toNat) : readBlock body = none := by
  match body with
  | k :: c3 :: c2 :: c1 :: c0 :: rest =>
    have hk := h k c3 c2 c1 c0 rest rfl
    rw [readBlock_cons, if_neg]
    rw [within_kind]
    rintro ⟨hne, hle⟩
    rcases hk with hk | hk
    · exact hne hk
    · omega
  | [] | [_] | [_, _] | [_, _, _] | [_, _, _, _] => exact readBlock_short (by simp)

theorem check_eq_iff (c3 c2 c1 c0 : Byte) (check : Check32) :
    BitVec.ofNat 32 (beNat [c3, c2, c1, c0]) = check ↔ beNat [c3, c2, c1, c0] = check.toNat := by
  have hlt := beNat_lt [c3, c2, c1, c0]
  rw [show 256 ^ [c3, c2, c1, c0].length = 2 ^ 32 by norm_num] at hlt
  rw [← BitVec.toNat_inj, BitVec.toNat_ofNat, Nat.mod_eq_of_lt hlt]

section
variable {tag : Byte} {body : List Byte} {stream : Stream}

theorem profileBlock_noStream (h : s.stream = none) : profileBlock tag body s = refuse tag 0x02 .noStream s := by
  simp [profileBlock, h]

theorem profileBlock_spoilt (h : s.stream = some stream) (hs : stream.spoilt = true) :
    profileBlock tag body s = refuse tag 0x02 .streamSpoilt s := by
  simp [profileBlock, h, hs]

theorem profileBlock_unread (h : s.stream = some stream) (hs : stream.spoilt = false) (hb : readBlock body = none) :
    profileBlock tag body s = spoil tag .range stream s := by
  simp [profileBlock, h, hs, hb]

theorem profileBlock_badCheck {b : StagedBlock} (h : s.stream = some stream) (hs : stream.spoilt = false) (hb : readBlock body = some b)
    (hc : b.check ≠ crc32 (b.kind :: b.body)) : profileBlock tag body s = spoil tag .badCheck stream s := by
  simp [profileBlock, h, hs, hb, hc]

theorem profileBlock_full {b : StagedBlock} (h : s.stream = some stream) (hs : stream.spoilt = false) (hb : readBlock body = some b)
    (hc : b.check = crc32 (b.kind :: b.body)) (hf : 40 ≤ stream.staged.length) :
    profileBlock tag body s = spoil tag .stagingFull stream s := by
  simp [profileBlock, h, hs, hb, hc, hf]

theorem profileBlock_staged {b : StagedBlock} (h : s.stream = some stream) (hs : stream.spoilt = false) (hb : readBlock body = some b)
    (hc : b.check = crc32 (b.kind :: b.body)) (hf : stream.staged.length < 40) :
    profileBlock tag body s = respond tag 0x02 .ok false (.staging stream.staged.length)
      { s with stream := some { stream with staged := stream.staged ++ [b] } } := by
  simp [profileBlock, h, hs, hb, hc, Nat.not_le.2 hf]

/-- A block refused spoils the stream in the event that accepts it. -/
theorem spoil_accepted {n : Nat} {st : Status} (ha : Accepts tag s) :
    spoil tag st stream (s.withRequest tag 0x02 n) = refused tag 0x02 n st { s with stream := some { stream with spoilt := true } } :=
  respond_accepted_setStream ha _

end

end

end Sys2Proof.Machine

open Sys2Proof Sys2Proof.Machine Sys2Proof.Safety

/-- Settles O3: each gate leaves a part that does not run as it is, and every command's meaning is a next state. -/
theorem everyCommandIsAnswered : Obligations.EveryCommandIsAnswered := fun c s => ⟨exists_exec_eq_next c s, exec_notRunning⟩

/-- Settles O8: a fetch by the queue and by the frame's length; only a whole frame takes the response along. -/
theorem responseFetchTakesTheOldest : Obligations.ResponseFetchTakesTheOldest := by
  intro clocks s hr
  refine ⟨fun h => ?empty, fun r rest h => ⟨fun hc => ?part, fun hc => ?whole⟩⟩
  case empty => rw [exec_responseFetch, responseFetch_empty hr h, shiftOut_padded]
  case part => rw [exec_responseFetch, responseFetch_partial hr h hc, shiftOut_short hc.le]
  case whole => rw [exec_responseFetch, responseFetch_whole hr h hc, readyFollowsQueue_flags, shiftOut_long hc]

/-- Settles O11: a block by the stream, then by its reading, its check and the room left. -/
theorem profileBlockStagesOrSpoils : Obligations.ProfileBlockStagesOrSpoils := by
  intro tag body s ha hlen
  rw [exec_profileBlock ha hlen]
  let u := s.withRequest tag 0x02 body.length
  refine ⟨fun hnone => ?noStream, fun stream hst => ⟨fun hs => ?spoilt, fun hs => ⟨fun hkind => ?range, ?read⟩⟩⟩
  case noStream => rw [profileBlock_noStream (s := u) hnone, refuse_accepted ha]
  case spoilt => rw [profileBlock_spoilt (s := u) hst hs, refuse_accepted ha]
  case range => rw [profileBlock_unread (s := u) hst hs (readBlock_eq_none hkind), spoil_accepted ha]
  case read =>
    intro k c3 c2 c1 c0 rest hbody hk0 hk5
    have hread : readBlock body = some { kind := k, body := rest, check := BitVec.ofNat 32 (beNat [c3, c2, c1, c0]) } := by
      rw [hbody, readBlock_cons, if_pos ((within_kind k).2 ⟨hk0, hk5⟩)]
    have hcheck := check_eq_iff c3 c2 c1 c0 (crc32 (k :: rest))
    refine ⟨fun hne => ?badCheck, fun heq hfull => ?stagingFull, fun heq hroom => ?staged⟩
    case badCheck => rw [profileBlock_badCheck (s := u) hst hs hread (mt hcheck.1 hne), spoil_accepted ha]
    case stagingFull => rw [profileBlock_full (s := u) hst hs hread (hcheck.2 heq) hfull, spoil_accepted ha]
    case staged =>
      rw [profileBlock_staged (s := u) hst hs hread (hcheck.2 heq) hroom, respond_accepted_setStream ha, hcheck.2 heq]

end

section
/-! One second on an empty queue (Conventions: Time): what it counts, and which expiry rows then join the queue. -/

namespace Sys2Proof.Machine
open Sys2Proof.Safety

section
variable {s : State} {c : Instr}

/-! ### The rows that join the queue -/

theorem mem_allConsoles (l : ConsoleLink) : l ∈ allConsoles := by fin_cases l <;> simp [allConsoles]

theorem mem_commandIf {b : Bool} {i : Instr} : c ∈ commandIf b i ↔ b = true ∧ c = i := by
  cases b <;> simp [commandIf]

/-- The rows of a console link, of a bench link, and of the places of the registry, each once. -/
def everyExpiry : List Instr :=
  allConsoles.flatMap (fun l => [.receiverTimeout (.console l), .custodianIdleExpiry l]) ++ [.windowExpiry]
    ++ allPorts.flatMap (fun p => [.receiverTimeout (.bench p), .sessionIdleExpiry p])
    ++ (allBelow 256).flatMap fun i => [.entryAged i]

theorem commandIf_sublist (b : Bool) (i : Instr) : (commandIf b i).Sublist [i] := by
  cases b
  · exact List.nil_sublist _
  · exact .refl _

theorem flatMap_sublist {α : Type} {f g : α → List Instr} (l : List α) (h : ∀ a, (f a).Sublist (g a)) :
    (l.flatMap f).Sublist (l.flatMap g) := by
  induction l with
  | nil => exact .refl _
  | cons a l ih => exact (h a).append ih

theorem dueExpiries_sublist : (dueExpiries s).Sublist everyExpiry := by
  have hpair : ∀ b₁ b₂ i₁ i₂, (commandIf b₁ i₁ ++ commandIf b₂ i₂).Sublist [i₁, i₂] := fun b₁ b₂ i₁ i₂ =>
    (commandIf_sublist b₁ i₁).append (commandIf_sublist b₂ i₂)
  exact (((flatMap_sublist _ fun l => hpair ..).append (commandIf_sublist ..)).append (flatMap_sublist _ fun p => hpair ..)).append
    (flatMap_sublist _ fun i => commandIf_sublist ..)

theorem nodup_everyExpiry : everyExpiry.Nodup := by
  have haged : ((allBelow 256).flatMap fun i => [Instr.entryAged i]).Nodup := by
    rw [← List.map_eq_flatMap, allBelow_eq_finRange]
    exact (List.nodup_finRange 256).map fun _ _ h => Instr.entryAged.inj h
  refine List.nodup_append.2 ⟨by decide, haged, fun a ha b hb he => ?_⟩
  subst he
  obtain ⟨i, -, hi⟩ := List.mem_flatMap.1 hb
  rw [List.mem_singleton.1 hi] at ha
  simp [allConsoles, allPorts] at ha

theorem nodup_shuffledExpiries (free : Nat) : (shuffled free (dueExpiries s)).Nodup :=
  (shuffled_perm free _).nodup_iff.2 (nodup_everyExpiry.sublist dueExpiries_sublist)

theorem mem_consoleExpiries {l : ConsoleLink} : c ∈ consoleExpiries s l ↔
    (receiver (.console l) s).due = true ∧ c = .receiverTimeout (.console l)
      ∨ (s.console l).idleDue = true ∧ c = .custodianIdleExpiry l := by
  simp only [consoleExpiries, List.mem_append, mem_commandIf]
  rfl

theorem mem_benchExpiries {p : Port} : c ∈ benchExpiries s p ↔
    (receiver (.bench p) s).due = true ∧ c = .receiverTimeout (.bench p) ∨ (s.ctx p).idleDue = true ∧ c = .sessionIdleExpiry p := by
  simp only [benchExpiries, List.mem_append, mem_commandIf]
  rfl

theorem mem_windowExpiries : c ∈ windowExpiries s ↔ ∃ w, s.ceremony.run = .work w ∧ w.windowDue = true ∧ c = .windowExpiry := by
  rw [windowExpiries, mem_commandIf]
  cases s.ceremony.run <;> simp

theorem mem_agingExpiries : c ∈ agingExpiries s ↔ ∃ i, agedAt s i = true ∧ c = .entryAged i := by
  simp [agingExpiries, mem_commandIf, allBelow_eq_finRange]

/-- The rows of an expiry, kind by kind. -/
theorem mem_dueExpiries : c ∈ dueExpiries s ↔
    (∃ l, (s.console l).idleDue = true ∧ c = .custodianIdleExpiry l)
      ∨ (∃ p, (s.ctx p).idleDue = true ∧ c = .sessionIdleExpiry p)
      ∨ (∃ w, s.ceremony.run = .work w ∧ w.windowDue = true ∧ c = .windowExpiry)
      ∨ (∃ k, (receiver k s).due = true ∧ c = .receiverTimeout k)
      ∨ ∃ i, agedAt s i = true ∧ c = .entryAged i := by
  simp only [dueExpiries, List.mem_append, List.mem_flatMap, mem_allConsoles, mem_allPorts, true_and, mem_consoleExpiries,
    mem_benchExpiries, mem_windowExpiries, mem_agingExpiries]
  constructor
  · rintro (((⟨l, h | h⟩ | h) | ⟨p, h | h⟩) | h)
    · exact .inr (.inr (.inr (.inl ⟨_, h⟩)))
    · exact .inl ⟨l, h⟩
    · exact .inr (.inr (.inl h))
    · exact .inr (.inr (.inr (.inl ⟨_, h⟩)))
    · exact .inr (.inl ⟨p, h⟩)
    · exact .inr (.inr (.inr (.inr h)))
  · rintro (⟨l, h⟩ | ⟨p, h⟩ | h | ⟨k, h⟩ | h)
    · exact .inl (.inl (.inl ⟨l, .inr h⟩))
    · exact .inl (.inr ⟨p, .inr h⟩)
    · exact .inl (.inl (.inr h))
    · cases k with
      | console l => exact .inl (.inl (.inl ⟨l, .inl h⟩))
      | bench p => exact .inl (.inr ⟨p, .inl h⟩)
    · exact .inr h

/-! ### What a second counts -/

theorem tick_running (hr : s.running = true) :
    tick s = { countSecond s with
      pending := s.pending ++ shuffled s.freeCount (dueExpiries (countSecond s))
      freeCount := s.freeCount + (dueExpiries (countSecond s)).length } := by
  simp only [tick, hr]
  rfl

theorem countSecond_console (l : ConsoleLink) : (countSecond s).console l = (s.console l).counted := Tab.get_map ..

theorem countSecond_bench (p : Port) : (countSecond s).bench p = (s.bench p).counted := Tab.get_map ..

theorem countSecond_ctx (p : Port) : (countSecond s).ctx p = (s.ctx p).counted := congrArg Bench.ctx (countSecond_bench p)

theorem countSecond_registry (i : RegIx) : (countSecond s).registry.get i = (s.registry.get i).map Entry.counted := Tab.get_map ..

theorem countSecond_receiver (k : LinkId) : receiver k (countSecond s) = (receiver k s).counted := by
  cases k with
  | console l => exact congrArg Console.rx (countSecond_console l)
  | bench p => exact congrArg Bench.rx (countSecond_bench p)

theorem counted_due (t : Timer) : t.counted.due = true ↔ t.limit ≤ t.count + 1 := decide_eq_true_iff

theorem console_counted_idleDue (x : Console) : x.counted.idleDue = true ↔ ∃ g, x.logon = some g ∧ g.idle.limit ≤ g.idle.count + 1 := by
  unfold Console.idleDue Console.counted
  cases x.logon with
  | none => simp
  | some g => simpa using counted_due g.idle

theorem context_counted_idleDue (x : PortContext) :
    x.counted.idleDue = true ↔ ∃ ss t, (x = .identified ss t ∨ x = .offered ss t) ∧ t.limit ≤ t.count + 1 := by
  cases x with
  | identified ss t | offered ss t => simpa [PortContext.counted, PortContext.idleDue] using counted_due t
  | off | vacant | attached | preparing | finished | draining => simp [PortContext.counted, PortContext.idleDue]

theorem run_counted_windowDue (r : CeremonyRun) :
    (∃ w, r.counted = .work w ∧ w.windowDue = true) ↔ ∃ w t, r = .work w ∧ w.window = some t ∧ t.limit ≤ t.count + 1 := by
  cases r with
  | work w =>
    cases hw : w.window with
    | none => simp [counted_work, CeremonyWork.windowDue, hw]
    | some t => simpa [counted_work, CeremonyWork.windowDue, hw] using counted_due t
  | idle | settling => simp [CeremonyRun.counted]

theorem receiver_counted_due (r : Receiver) : r.counted.due = true ↔ ∃ bytes gap, r = .assembling bytes gap ∧ 2 ≤ gap + 1 := by
  cases r <;> simp [Receiver.counted, Receiver.due]

theorem agedAt_countSecond (i : RegIx) : agedAt (countSecond s) i = true ↔
    ∃ e time plan, s.registry.get i = some e ∧ e.unboundSince = some time ∧ s.profile = some plan ∧ plan.params.ageLimit ≤ time + 1 := by
  rw [agedAt_iff, countSecond_registry, show (countSecond s).profile = s.profile from rfl]
  constructor
  · rintro ⟨e, time, plan, he, ht, hp, hl⟩
    obtain ⟨x, hx, rfl⟩ := Option.map_eq_some_iff.1 he
    obtain ⟨n, hn, rfl⟩ := Option.map_eq_some_iff.1 ht
    exact ⟨x, n, plan, hx, hn, hp, hl⟩
  · rintro ⟨e, time, plan, he, ht, hp, hl⟩
    exact ⟨e.counted, time + 1, plan, by rw [he]; rfl, by simp [Entry.counted, ht], hp, hl⟩

/-- The rows of the expiries that are due after one more second. -/
theorem mem_dueAfterSecond : c ∈ dueExpiries (countSecond s) ↔
    (∃ l g, (s.console l).logon = some g ∧ g.idle.limit ≤ g.idle.count + 1 ∧ c = .custodianIdleExpiry l)
      ∨ (∃ p ss timer, (s.ctx p = .identified ss timer ∨ s.ctx p = .offered ss timer) ∧ timer.limit ≤ timer.count + 1
        ∧ c = .sessionIdleExpiry p)
      ∨ (∃ w timer, s.ceremony.run = .work w ∧ w.window = some timer ∧ timer.limit ≤ timer.count + 1 ∧ c = .windowExpiry)
      ∨ (∃ k bytes gap, receiver k s = .assembling bytes gap ∧ 2 ≤ gap + 1 ∧ c = .receiverTimeout k)
      ∨ ∃ i e time plan, s.registry.get i = some e ∧ e.unboundSince = some time ∧ s.profile = some plan
        ∧ plan.params.ageLimit ≤ time + 1 ∧ c = .entryAged i := by
  have hrun : (countSecond s).ceremony.run = s.ceremony.run.counted := rfl
  have hwindow := run_counted_windowDue s.ceremony.run
  simp only [mem_dueExpiries, countSecond_console, countSecond_ctx, countSecond_receiver, console_counted_idleDue,
    context_counted_idleDue, receiver_counted_due, agedAt_countSecond, hrun, ← and_assoc, exists_and_right, hwindow]

end

end Sys2Proof.Machine

open Sys2Proof Sys2Proof.Machine Sys2Proof.Safety

/-- Settles O2: every timer is counted where it stands, and the rows of those then due join an empty queue in an order left free. -/
theorem emptyQueueCountsOneSecond : Obligations.EmptyQueueCountsOneSecond := by
  intro s hp
  have hstep : step s = .next (tick s) := by simp [step, hp]
  refine ⟨fun hr => ?stopped, fun hr => ⟨_, hstep, ?_⟩⟩
  case stopped =>
    rw [hstep]
    exact congrArg Host.Outcome.next (by simp [tick, hr])
  rw [tick_running hr, hp]
  refine ⟨?rest, countSecond_console, fun p => ?bench, ?ceremony, countSecond_registry, nodup_shuffledExpiries _, fun c => ?rows⟩
  case rest =>
    rw [← hp]
    rfl
  case bench =>
    refine (countSecond_bench p).trans ?_
    rw [Bench.counted, ← State.ctx]
    cases s.ctx p <;> rfl
  case ceremony =>
    refine congrArg (fun run => { s.ceremony with run := run }) ?_
    cases s.ceremony.run <;> rfl
  case rows => exact (shuffled_perm _ _).mem_iff.trans mem_dueAfterSecond

end

section
/-! The supplies, the pin and the cover (R102, R105, R106, R108), and the resets they and LINE_RESET bring (R107). -/

namespace Sys2Proof.Machine
open Sys2Proof.Safety

section
variable {s u : State}

/-! ### A zeroise with nothing at work (R103) -/

theorem endSession_of_quiet {reason : VoidReason} {p : Port} (h : inSession (s.ctx p) = false) : endSession reason p s = s := by
  unfold endSession
  cases hc : s.ctx p with
  | identified | preparing | offered => rw [hc] at h; cases h
  | off | vacant | attached | finished | draining => rfl

theorem endAllSessions_of_quiet (reason : VoidReason) (h : ∀ p, inSession (s.ctx p) = false) : endAllSessions reason s = s := by
  unfold endAllSessions
  induction allPorts with
  | nil => rfl
  | cons p l ih => rw [List.foldl_cons, endSession_of_quiet (h p), ih]

/-- What a zeroise writes when no session, ceremony, import, stream or withheld close is there. -/
def zeroisedAtRest (cause : TamperCause) (s : State) : State :=
  { s with
    store := { s.store with slots := s.store.slots.map Slot.zeroised, journal := s.journal.tamper cause }
    line := .zeroised
    engine := s.engine.zeroise
    flags := s.flags ||| 0x200#12 ||| 0x800#12 }

theorem zeroiseStart_setup (hl : s.line = .setup) :
    zeroiseStart s = { s with
      store := { s.store with slots := s.store.slots.map Slot.zeroised }
      line := .zeroised, engine := s.engine.zeroise, flags := s.flags ||| 0x200#12 } := by
  unfold zeroiseStart zeroiseClose
  rw [hl, setLine_of_ne (by rw [hl]; nofun)]
  rfl

theorem zeroiseWork_idle (hr : s.ceremony.run = .idle) (hw : s.importWork = none) (hst : s.stream = none) : zeroiseWork s = s := by
  unfold zeroiseWork zeroiseCeremony zeroiseImport
  rw [hr]
  simp only [hw, Option.map_none]
  rw [← hst, ← hw]

theorem zeroisePart_atRest (hl : s.line = .setup) (hr : s.ceremony.run = .idle) (hw : s.importWork = none) (hst : s.stream = none)
    (hq : ∀ p, inSession (s.ctx p) = false) (cause : TamperCause) : zeroisePart cause s = zeroisedAtRest cause s := by
  have hstart := zeroiseStart_setup hl
  have hwork : zeroiseWork (zeroiseStart s) = zeroiseStart s := by
    refine zeroiseWork_idle ?_ ?_ ?_ <;> rw [hstart]
    · exact hr
    · exact hw
    · exact hst
  have hquiet : ∀ p, inSession ((zeroiseStart s).ctx p) = false := fun p => by rw [ctx_zeroiseStart]; exact hq p
  rw [zeroisePart_eq, hwork, endAllSessions_of_quiet _ hquiet, hstart]
  rfl

/-! ### The levels (R102, R105, R106, R108) -/

theorem key?_bare (c : SlotContent) (k : HeldKey) (h : c.bare.key? = some k) : k.material = [] := by
  rw [SlotContent.bare_key?] at h
  obtain ⟨x, -, rfl⟩ := Option.map_eq_some_iff.1 h
  rfl

theorem coverOpens_latched (hr : s.running = false) (ht : s.tamperLine = false) (hl : s.storeLost = false) :
    coverOpens s = { s with
      tamperLine := true
      store := { s.store with slots := s.store.slots.map Slot.destroyed, tamperLatch := true } } := by
  have hr' : State.running { s with tamperLine := true } = false := hr
  unfold coverOpens setLatch
  rw [if_neg (by simp [ht])]
  simp only
  rw [if_neg (by rw [hr']; nofun), if_neg (by simp [hl])]

/-! ### The content of a slot, a place and a context after a reset (R22, R129, R176) -/

theorem afterReset_content (x : Slot) : x.afterReset.content = slotReset x.content := by
  unfold Slot.afterReset slotReset
  cases x.content with
  | erasing k =>
    have hcls : k.use.nextCounter? = some counterEnd ↔ k.use.cls = .baseDerivation ∧ k.use.nextCounter? = some 1048576 := by
      cases k.use <;> simp [KeyUse.nextCounter?, KeyUse.cls, counterEnd]
    simp only [hcls]
  | empty | assembling | active | exhausted => rfl

theorem placeAfterReset_eq (x : Option Entry) : placeAfterReset x = x.bind entryReset := by
  cases x with
  | none => rfl
  | some e =>
    simp only [placeAfterReset, Option.bind_some, entryReset]
    by_cases hl : e.state = .loading
    · simp only [hl, if_true, Entry.unbound]
      by_cases hgone : e.origin = .discovered ∧ e.delivered = 0
      · rw [if_pos hgone, if_pos hgone]
      · have hnone : ¬(e.delivered = 0 ∧ e.origin = .discovered) := fun h => hgone h.symm
        simp only [hgone, hnone, if_false]
    · simp only [hl, if_false]

theorem contextAfterReset_eq (profile : Option Profile) (p : Port) (present : Bool) :
    contextAfterReset profile p present = contextReset profile p present := by
  cases profile with
  | none => rfl
  | some pr => simp only [contextAfterReset, contextReset]; split <;> simp_all

/-! ### The reset (R107) -/

theorem voidReason_eq (cause : ResetCause) :
    cause.voidReason = if cause = .powerOn ∨ cause = .storeLost then .powerLost else .reset := by
  cases cause <;> rfl

theorem recordBodies_resetBlocks (cause : ResetCause) :
    recordBodies (resetBlocks cause s) = recordBodies s ++ voidedAtReset cause s := by
  have hbodies : recordBodies (resetBlocks cause s) = recordBodies (voidAllPending cause.voidReason s) := by
    rw [recordBodies, resetBlocks_journal]
    rfl
  have hvoided : voidedStep cause.voidReason s = fun p => (s.step p).map fun ps =>
      .voided ps.facts ps.expected (if cause = .powerOn ∨ cause = .storeLost then .powerLost else .reset) := by
    funext p
    rw [voidedStep, voidReason_eq]
  rw [hbodies, voidAllPending_recordBodies, voidedAtReset, hvoided]

/-- No VOIDED record of a reset is a TAMPER record. -/
theorem isTamper_voidedAtReset {cause : ResetCause} {body : RecordBody} (h : body ∈ voidedAtReset cause s) : body.isTamper = false := by
  obtain ⟨p, -, hp⟩ := List.mem_filterMap.1 h
  obtain ⟨ps, -, rfl⟩ := Option.map_eq_some_iff.1 hp
  rfl

/-- The body of a record counted once more at a zeroise (R186). -/
def countedBody : RecordBody → RecordBody
  | .tamper cause n => .tamper cause (if n < 255 then n + 1 else n)
  | other => other

theorem body_countTamper (r : Record) : r.countTamper.body = countedBody r.body := by
  unfold Record.countTamper
  cases hb : r.body <;> simp [countedBody, hb]

theorem countedBody_of_not_tamper {body : RecordBody} (h : body.isTamper = false) : countedBody body = body := by
  cases body with
  | tamper => cases h
  | lineOpened | keyInstalled | keyErased | delivered | voided | counterAdvanced | custodianChanged => rfl

theorem tamperCounted_eq (s : State) : tamperCounted s = (recordBodies s).map countedBody :=
  List.map_congr_left fun body _ => by cases body <;> rfl

theorem tamper_of_none {cause : TamperCause} {j : Journal} (h : j.records.filter Record.isTamper = []) :
    j.tamper cause = j.append (.tamper cause 1) := by
  rw [Journal.tamper, if_neg]
  simpa [List.filter_eq_nil_iff] using h

theorem tamper_of_some {cause : TamperCause} {j : Journal} (h : j.records.filter Record.isTamper ≠ []) :
    j.tamper cause = { j with records := j.records.map Record.countTamper } := by
  rw [Journal.tamper, if_pos]
  simpa [List.filter_eq_nil_iff] using h

theorem seated_quiet (h : Seated s) (hl : s.line = .setup) (p : Port) : inSession (s.ctx p) = false :=
  Bool.eq_false_iff.2 fun hi => by rcases h.sessions p hi with hx | hx <;> rw [hl] at hx <;> cases hx

/-- The TAMPER records of a journal, by their bodies. -/
theorem filter_isTamper_bodies (l : List Record) : (l.filter Record.isTamper).map Record.body = (l.map Record.body).filter RecordBody.isTamper := by
  rw [List.filter_map]
  rfl

theorem tamperRecords_eq_nil_iff : tamperRecords s = [] ↔ (recordBodies s).filter RecordBody.isTamper = [] := by
  rw [recordBodies, ← filter_isTamper_bodies, List.map_eq_nil_iff]
  rfl

theorem tamperRecords_resetBlocks (cause : ResetCause) : tamperRecords (resetBlocks cause s) = [] ↔ tamperRecords s = [] := by
  have hvoided : (voidedAtReset cause s).filter RecordBody.isTamper = [] :=
    List.filter_eq_nil_iff.2 fun body hb => by simp [isTamper_voidedAtReset hb]
  rw [tamperRecords_eq_nil_iff, tamperRecords_eq_nil_iff, recordBodies_resetBlocks, List.filter_append, hvoided, List.append_nil]

theorem clearLatch_of_clear (h : u.store.tamperLatch = false) : clearLatch u = u := by
  rw [clearLatch, ← h]

theorem zeroisePart_clearLatch (hl : u.line = .setup) (hr : u.ceremony.run = .idle) (hw : u.importWork = none) (hst : u.stream = none)
    (hq : ∀ p, inSession (u.ctx p) = false) (cause : TamperCause) :
    zeroisePart cause (clearLatch u) = zeroisedAtRest cause (clearLatch u) := by
  have hline : (clearLatch u).line = .setup := hl
  have hrun : (clearLatch u).ceremony.run = .idle := hr
  have hwork : (clearLatch u).importWork = none := hw
  have hstream : (clearLatch u).stream = none := hst
  have hquiet : ∀ p, inSession ((clearLatch u).ctx p) = false := hq
  generalize clearLatch u = v at *
  exact zeroisePart_atRest hline hrun hwork hstream hquiet cause

/-- The zeroise that follows a reset for the latch or the open cover. -/
theorem zeroiseAfterReset_tampered (cause : ResetCause) (h : s.store.tamperLatch = true ∨ s.tamperLine = true) :
    zeroiseAfterReset (resetBlocks cause s) =
      zeroisedAtRest (if s.store.tamperLatch then .tamperLine else .resetWhileAsserted) (clearLatch (resetBlocks cause s)) := by
  obtain ⟨-, -, hlatch⟩ := resetBlocks_kept cause s
  obtain ⟨-, -, -, -, hcover, -⟩ := resetBlocks_reads cause s
  obtain ⟨hline, -, hstream, hceremony, hwork, -⟩ := resetBlocks_fixed cause s
  have hquiet := seated_quiet (seated_resetBlocks cause) hline
  unfold zeroiseAfterReset
  rw [hlatch, hcover]
  by_cases hl : s.store.tamperLatch = true
  · rw [if_pos hl, if_pos hl]
    exact zeroisePart_clearLatch hline (by rw [hceremony]) hwork hstream hquiet _
  · rw [if_neg hl, if_neg hl, if_pos (h.resolve_left hl), clearLatch_of_clear (hlatch.trans (by simpa using hl))]
    exact zeroisePart_atRest hline (by rw [hceremony]) hwork hstream hquiet _

theorem zeroiseAfterReset_quiet (cause : ResetCause) (hl : s.store.tamperLatch = false) (ht : s.tamperLine = false) :
    zeroiseAfterReset (resetBlocks cause s) = resetBlocks cause s := by
  obtain ⟨-, -, hlatch⟩ := resetBlocks_kept cause s
  obtain ⟨-, -, -, -, hcover, -⟩ := resetBlocks_reads cause s
  rw [zeroiseAfterReset, hlatch, hcover, hl, ht]
  rfl

/-- The blocks that a zeroise of a part at rest does not reach. -/
def withRest (s t : State) : State :=
  { t with
    store := { t.store with slots := s.store.slots, journal := s.store.journal, tamperLatch := s.store.tamperLatch }
    line := s.line, engine := s.engine, flags := s.flags }

theorem resetTo_of {cause : ResetCause} {t : State} (hr : s.running = true) (ht : withRest (resetBlocks cause s) t = resetBlocks cause s)
    (hengine : t.engine.running = none ∧ (∀ r, t.engine.waiting.get r = none) ∧ t.engine.lastGranted = 9)
    (hcounts : ∀ i, (t.slot i).inUse = 0 ∧ (t.slot i).generation = (s.slot i).generation)
    (hres : t.journal.reservations = [])
    (hquiet : s.store.tamperLatch = false → s.tamperLine = false →
      t.line = .setup ∧ t.flags = 0x200#12 ∧ (∀ i, (t.slot i).content = slotReset (s.slot i).content)
        ∧ recordBodies t = recordBodies s ++ voidedAtReset cause s)
    (htampered : s.store.tamperLatch = true ∨ s.tamperLine = true →
      t.line = .zeroised ∧ t.flags = 0xA00#12 ∧ (∀ i, (t.slot i).content = .empty) ∧ t.store.tamperLatch = false
        ∧ (tamperRecords s = [] → recordBodies t = recordBodies s ++ voidedAtReset cause s
          ++ [.tamper (if s.store.tamperLatch then .tamperLine else .resetWhileAsserted) 1])
        ∧ (tamperRecords s ≠ [] → recordBodies t = tamperCounted s ++ voidedAtReset cause s)) : ResetTo cause s t := by
  obtain ⟨-, hcause, hstream, hceremony, hwork, -, hout, hresp, -, hmask, hframe, hover, -⟩ := resetBlocks_fixed cause s
  obtain ⟨hcust, hprofile, -⟩ := resetBlocks_kept cause s
  have hconsoles := resetBlocks_console cause s
  have hbenches := resetBlocks_bench cause s
  have hsteps := resetBlocks_step cause s
  have hplaces := resetBlocks_registry_get cause s
  have hruns := (resetBlocks_running cause s).trans hr
  generalize resetBlocks cause s = u at *
  have hconsole := fun l => congrArg (fun x : State => x.console l) ht
  have hbench := fun p => congrArg (fun x : State => x.bench p) ht
  have hstep := fun p => congrArg (fun x : State => x.step p) ht
  have hplace := fun i => congrArg (fun x : State => x.registry.get i) ht
  have hrunning : t.running = u.running := (congrArg State.running ht :)
  exact {
    reported := (congrArg State.resetCause ht :).trans hcause
    running := hrunning.trans hruns
    ceremony := (congrArg State.ceremony ht :).trans hceremony
    importWork := (congrArg State.importWork ht :).trans hwork
    stream := (congrArg State.stream ht :).trans hstream
    engine := hengine
    port := ⟨(congrArg State.outstanding ht :).trans hout, (congrArg State.responses ht :).trans hresp⟩
    attention := ⟨(congrArg State.mask ht :).trans hmask, (congrArg State.frameErrors ht :).trans hframe,
      (congrArg State.overruns ht :).trans hover⟩
    consoles := fun l => (hconsole l :).trans (hconsoles l)
    benches := fun p => (hbench p :).trans ((hbenches p).trans (by rw [benchAfterReset, contextAfterReset_eq]))
    steps := fun p => (hstep p :).trans (hsteps p)
    reservations := hres
    counts := hcounts
    registry := fun i => (hplace i :).trans ((hplaces i).trans (placeAfterReset_eq _))
    kept := ⟨(congrArg (fun x : State => x.store.custodians) ht :).trans hcust, (congrArg State.profile ht :).trans hprofile⟩
    quiet := hquiet
    tampered := htampered }


theorem engine_initial : Engine.initial.running = none ∧ (∀ r, Engine.initial.waiting.get r = none) ∧ Engine.initial.lastGranted = 9 :=
  ⟨rfl, fun _ => Tab.get_fill .., rfl⟩

theorem engine_initial_zeroise : Engine.initial.zeroise.running = none ∧ (∀ r, Engine.initial.zeroise.waiting.get r = none)
    ∧ Engine.initial.zeroise.lastGranted = 9 :=
  ⟨rfl, fun r => by rw [Engine.zeroise, Tab.get_map, engine_initial.2.1 r]; rfl, rfl⟩

section
variable (cause : TamperCause)

theorem withRest_zeroised : withRest u (zeroisedAtRest cause (clearLatch u)) = u := rfl

theorem slot_zeroised (i : SlotIx) : (zeroisedAtRest cause (clearLatch u)).slot i = Slot.zeroised (u.slot i) := Tab.get_map ..

theorem reservations_zeroised (h : u.journal.reservations = []) : (zeroisedAtRest cause (clearLatch u)).journal.reservations = [] := by
  have hjournal : (zeroisedAtRest cause (clearLatch u)).journal = u.journal.tamper cause := rfl
  rw [hjournal, Journal.tamper]
  split <;> exact h

theorem recordBodies_zeroised_of_none (h : tamperRecords u = []) :
    recordBodies (zeroisedAtRest cause (clearLatch u)) = recordBodies u ++ [.tamper cause 1] := by
  have hjournal : (zeroisedAtRest cause (clearLatch u)).journal = u.journal.tamper cause := rfl
  rw [recordBodies, hjournal, tamper_of_none h, Journal.append, List.map_append]
  rfl

theorem recordBodies_zeroised_of_some (h : tamperRecords u ≠ []) :
    recordBodies (zeroisedAtRest cause (clearLatch u)) = (recordBodies u).map countedBody := by
  have hjournal : (zeroisedAtRest cause (clearLatch u)).journal = u.journal.tamper cause := rfl
  rw [recordBodies, hjournal, tamper_of_some h, recordBodies, List.map_map, List.map_map]
  exact List.map_congr_left fun r _ => body_countTamper r

end

/-- A reset with the store intact (R107). -/
theorem resetTo_resetPart (cause : ResetCause) (hr : s.running = true) (hs : s.storeLost = false) : ResetTo cause s (resetPart cause s) := by
  obtain ⟨hline, -, -, -, -, hengine, -, -, hflags, -⟩ := resetBlocks_fixed cause s
  have hfound : foundStore s = s := by simp [foundStore, hs]
  have hres : (resetBlocks cause s).journal.reservations = [] := by rw [resetBlocks_journal]
  have hslots := resetBlocks_slot cause s
  have hbodies := recordBodies_resetBlocks (s := s) cause
  have htampers := tamperRecords_resetBlocks (s := s) cause
  rw [resetPart_eq, hfound]
  by_cases hx : s.store.tamperLatch = true ∨ s.tamperLine = true
  · rw [zeroiseAfterReset_tampered cause hx]
    refine resetTo_of hr (withRest_zeroised _) ?_ (fun i => ?_) (reservations_zeroised _ hres) (fun hl ht => ?_)
      fun _ => ⟨rfl, ?_, fun i => ?_, rfl, fun hn => ?_, fun hn => ?_⟩
    all_goals generalize resetBlocks cause s = u at *
    · have he : (zeroisedAtRest (if s.store.tamperLatch then .tamperLine else .resetWhileAsserted) (clearLatch u)).engine = u.engine.zeroise := rfl
      rw [he, hengine]
      exact engine_initial_zeroise
    · rw [slot_zeroised, hslots]; exact ⟨rfl, rfl⟩
    · rw [hl, ht] at hx
      simp at hx
    · have hf : (zeroisedAtRest (if s.store.tamperLatch then .tamperLine else .resetWhileAsserted) (clearLatch u)).flags
          = u.flags ||| 0x200#12 ||| 0x800#12 := rfl
      rw [hf, hflags]
      decide
    · rw [slot_zeroised]; rfl
    · rw [recordBodies_zeroised_of_none _ (htampers.2 hn), hbodies]
    · have hkeep : (voidedAtReset cause s).map countedBody = voidedAtReset cause s :=
        (List.map_congr_left fun body hb => countedBody_of_not_tamper (isTamper_voidedAtReset hb)).trans (List.map_id _)
      rw [recordBodies_zeroised_of_some _ (mt htampers.1 hn), hbodies, List.map_append, tamperCounted_eq, hkeep]
  · have hl : s.store.tamperLatch = false := by simpa using fun h => hx (.inl h)
    have ht : s.tamperLine = false := by simpa using fun h => hx (.inr h)
    rw [zeroiseAfterReset_quiet cause hl ht]
    refine resetTo_of hr ?_ (by rw [hengine]; exact engine_initial) (fun i => by rw [hslots]; exact ⟨rfl, rfl⟩) hres
      (fun _ _ => ⟨hline, hflags, fun i => by rw [hslots, afterReset_content], hbodies⟩) fun h => absurd h hx
    generalize resetBlocks cause s = u
    rfl

/-- A reset takes from the state before it the store, the consoles, the benches and the cover alone. -/
theorem resetTo_of_same {cause : ResetCause} {t : State} (hstore : u.store = s.store) (hconsoles : u.consoles = s.consoles)
    (hbenches : u.benches = s.benches) (hcover : u.tamperLine = s.tamperLine) (h : ResetTo cause u t) : ResetTo cause s t := by
  have hu : u = { u with store := s.store, consoles := s.consoles, benches := s.benches, tamperLine := s.tamperLine } := by
    rw [← hstore, ← hconsoles, ← hbenches, ← hcover]
  rw [hu] at h
  obtain ⟨hreported, hrunning, hceremony, hwork, hstream, hengine, hport, hattention, hcons, hbench, hsteps, hres, hcounts,
    hregistry, hkept, hquiet, htampered⟩ := h
  exact ⟨hreported, hrunning, hceremony, hwork, hstream, hengine, hport, hattention, hcons, hbench, hsteps, hres, hcounts,
    hregistry, hkept, hquiet, htampered⟩

/-- The reset that the release of the pin brings. -/
theorem resetTo_released (cause : ResetCause) (hp : s.power = true) (hs : s.storeLost = false) :
    ResetTo cause s (resetPart cause { s with resetPin := false }) := by
  have hr : State.running { s with resetPin := false } = true := by simp [State.running, hp]
  exact resetTo_of_same (u := { s with resetPin := false }) rfl rfl rfl rfl (resetTo_resetPart cause hr hs)

/-- The reset that main power brings with the pin released. -/
theorem resetTo_powered (cause : ResetCause) (hpin : s.resetPin = false) (hs : s.storeLost = false) :
    ResetTo cause s (resetPart cause { s with power := true, battery := true }) := by
  have hr : State.running { s with power := true, battery := true } = true := by simp [State.running, hpin]
  exact resetTo_of_same (u := { s with power := true, battery := true }) rfl rfl rfl rfl (resetTo_resetPart cause hr hs)

/-! ### A reset that finds the store lost (R108) -/

theorem voidAllPending_of_none {reason : VoidReason} (h : ∀ p, s.step p = none) : voidAllPending reason s = s := by
  unfold voidAllPending
  induction allPorts with
  | nil => rfl
  | cons p l ih => rw [List.foldl_cons, voidPending, h p]; exact ih

theorem map_fill {α β : Type} (n : Nat) (f : α → β) (x : α) : (Tab.fill n x).map f = Tab.fill n (f x) :=
  by simp only [Tab.map, Tab.fill, List.map_replicate]

/-- The part with its store at initial values. -/
def emptied (s : State) : State := { s with store := Store.initial }

theorem store_resetBlocks_emptied (cause : ResetCause) : (resetBlocks cause (emptied s)).store = Store.initial := by
  have hnone : ∀ p, (emptied s).step p = none := fun p => Tab.get_fill ..
  have hstore : (emptied s).store = Store.initial := rfl
  have hjournal : (emptied s).journal = Journal.initial := rfl
  rw [(resetBlocks_reads cause (emptied s)).1, voidAllPending_of_none hnone, hstore, hjournal]
  simp only [Store.initial, map_fill]
  rfl

theorem ctx_resetBlocks_emptied (cause : ResetCause) (p : Port) : (resetBlocks cause (emptied s)).ctx p = .off :=
  congrArg Bench.ctx (resetBlocks_bench cause (emptied s) p)

/-- What O18 claims of the part that has been reset with its store lost. -/
structure Emptied (cover : Bool) (t : State) : Prop where
  running : t.running = true
  cause : t.resetCause = .storeLost
  found : t.storeLost = false
  slots : t.store.slots = Store.initial.slots
  custodians : t.store.custodians = Store.initial.custodians
  profile : t.profile = none
  registry : t.registry = Store.initial.registry
  steps : t.store.steps = Store.initial.steps
  latch : t.store.tamperLatch = false
  contexts : ∀ p, t.ctx p = .off
  closed : cover = false → t.line = .setup ∧ t.journal = Journal.initial
  opened : cover = true → t.line = .zeroised ∧ t.journal =
    { records := [{ sequence := 1, body := .tamper .resetWhileAsserted 1 }], nextSequence := 2, reservations := [] }

theorem emptied_resetPart (hr : s.running = true) (hs : s.storeLost = true) : Emptied s.tamperLine (resetPart .storeLost s) := by
  have hfound : foundStore s = emptied s := by simp [foundStore, emptied, hs]
  have hruns : (resetBlocks .storeLost (emptied s)).running = true := (resetBlocks_running .storeLost (emptied s)).trans hr
  obtain ⟨hline, hcause, hstream, hceremony, hwork, -, -, -, -, -, -, -, -, hlost⟩ := resetBlocks_fixed .storeLost (emptied s)
  have hstore := store_resetBlocks_emptied (s := s) .storeLost
  have hctx := ctx_resetBlocks_emptied (s := s) .storeLost
  have hlatch : (emptied s).store.tamperLatch = false := rfl
  rw [resetPart_eq, hfound]
  cases hc : s.tamperLine with
  | false =>
    have hquiet := zeroiseAfterReset_quiet (s := emptied s) .storeLost hlatch hc
    rw [hquiet]
    generalize resetBlocks .storeLost (emptied s) = u at *
    exact ⟨hruns, hcause, hlost, by rw [hstore], by rw [hstore], by rw [State.profile, hstore]; rfl, by rw [State.registry, hstore],
      by rw [hstore], by rw [hstore]; rfl, hctx, fun _ => ⟨hline, by rw [State.journal, hstore]; rfl⟩, nofun⟩
  | true =>
    have hzeroise := zeroiseAfterReset_tampered (s := emptied s) .storeLost (.inr hc)
    rw [hzeroise, hlatch]
    generalize resetBlocks .storeLost (emptied s) = u at *
    have hzeroised : (zeroisedAtRest .resetWhileAsserted (clearLatch u)).store =
        { u.store with slots := u.store.slots.map Slot.zeroised, journal := u.store.journal.tamper .resetWhileAsserted,
                       tamperLatch := false } := rfl
    rw [hstore] at hzeroised
    rw [if_neg Bool.false_ne_true]
    refine ⟨hruns, hcause, hlost, ?_, ?_, ?_, ?_, ?_, ?_, hctx, nofun, fun _ => ⟨rfl, ?_⟩⟩
    · rw [hzeroised]
      exact map_fill ..
    · rw [hzeroised]
    · rw [State.profile, hzeroised]; rfl
    · rw [State.registry, hzeroised]
    · rw [hzeroised]
    · rw [hzeroised]
    · rw [State.journal, hzeroised]; rfl

theorem powerArrives_released (hp : s.power = false) (hpin : s.resetPin = false) :
    powerArrives s = resetPart (powerCause s) { s with power := true, battery := true } := by
  unfold powerArrives
  rw [if_neg (by simp [hp])]
  exact if_neg (by simp [hpin])

theorem powerArrives_held (hp : s.power = false) (hpin : s.resetPin = true) :
    powerArrives s = { s with power := true, battery := true, powerResetOwed := true } := by
  unfold powerArrives
  rw [if_neg (by simp [hp])]
  exact if_pos hpin

theorem pinReleased_powered (hp : s.power = true) (hpin : s.resetPin = true) :
    pinReleased s = resetPart (if s.powerResetOwed then powerCause s else .pin) { s with resetPin := false } := by
  unfold pinReleased
  rw [if_neg (by simp [hpin])]
  exact if_neg (by simp [hp])

end

end Sys2Proof.Machine

open Sys2Proof Sys2Proof.Machine Sys2Proof.Safety

/-- Settles O19: each level change is one assignment to the state, and `coverOpens` without a running part is the latch. -/
theorem suppliesPinAndCover : Obligations.SuppliesPinAndCover := by
  intro s
  refine ⟨rfl, rfl, fun hp hb => ?off, fun hp hb => ?offLost, fun hp => ?battery, fun hp => ?batteryLost, fun hr ht hl => ?cover⟩
  case off => exact congrArg Host.Outcome.next (by simp [powerLeaves, hp, hb])
  case offLost => exact congrArg Host.Outcome.next (by simp [powerLeaves, hp, hb, loseStore])
  case battery => exact congrArg Host.Outcome.next (by simp [batteryLeaves, hp])
  case batteryLost => exact congrArg Host.Outcome.next (by simp [batteryLeaves, hp, loseStore])
  case cover =>
    refine ⟨_, ?_, congrArg Host.Outcome.next (coverOpens_latched hr ht hl), rfl, rfl, fun i k hk => ?_, ?_, rfl, rfl, rfl, rfl, rfl⟩
    · exact congrArg Host.Outcome.next ((if_neg (by simp [hr])).trans (coverOpens_latched hr ht hl))
    · rw [State.slot, Tab.get_map] at hk
      exact key?_bare _ k hk
    · rw [← ht]

/-- Settles O17: each cause ends in `resetPart`, after at most a change of the levels or the entry of the request itself. -/
theorem resetsByTheirCause : Obligations.ResetsByTheirCause := by
  intro s hs
  have hcause : powerCause s = .powerOn := by simp [powerCause, hs]
  refine ⟨fun tag ha => ?request, fun hpin hp ho => ?pin, fun hpin hp ho => ?owed, fun hp hpin => ?power, fun hp hpin => ?held⟩
  case request =>
    refine ⟨_, congrArg Host.Outcome.next (acceptRequest_of_accepts ha (by omega)), ?_⟩
    have hr : (s.withRequest tag 0x13 0).running = true := ha.1
    exact resetTo_of_same (u := s.withRequest tag 0x13 0) rfl rfl rfl rfl (resetTo_resetPart .lineReset hr hs)
  case pin =>
    have hreleased : pinReleased s = resetPart .pin { s with resetPin := false } := by rw [pinReleased_powered hp hpin, ho]; rfl
    exact ⟨_, congrArg Host.Outcome.next hreleased, resetTo_released .pin hp hs⟩
  case owed =>
    have hreleased : pinReleased s = resetPart .powerOn { s with resetPin := false } := by
      rw [pinReleased_powered hp hpin, if_pos ho, hcause]
    exact ⟨_, congrArg Host.Outcome.next hreleased, resetTo_released .powerOn hp hs⟩
  case power =>
    have harrives := powerArrives_released hp hpin
    rw [hcause] at harrives
    exact ⟨_, congrArg Host.Outcome.next harrives, resetTo_powered .powerOn hpin hs⟩
  case held => exact congrArg Host.Outcome.next (powerArrives_held hp hpin)

/-- Settles O18: the reset finds every stored item at its initial value, and a table of initial values is reset to itself. -/
theorem powerOnAfterStoreLoss : Obligations.PowerOnAfterStoreLoss := by
  intro s hs
  have hcause : powerCause s = .storeLost := by simp [powerCause, hs]
  refine ⟨fun hp hpin => congrArg Host.Outcome.next (powerArrives_held hp hpin), fun c hc => ?_⟩
  have hreset : ∃ u, u.running = true ∧ u.storeLost = true ∧ u.tamperLine = s.tamperLine
      ∧ exec c s = .next (resetPart .storeLost u) := by
    rcases hc with ⟨rfl, hp, hpin⟩ | ⟨rfl, hp, hpin, ho⟩
    · refine ⟨{ s with power := true, battery := true }, by simp [State.running, hpin], hs, rfl,
        congrArg Host.Outcome.next ?_⟩
      rw [powerArrives_released hp hpin, hcause]
    · refine ⟨{ s with resetPin := false }, by simp [State.running, hp], hs, rfl, congrArg Host.Outcome.next ?_⟩
      rw [pinReleased_powered hp hpin, if_pos ho, hcause]
  obtain ⟨u, hr, hlost, hcover, hexec⟩ := hreset
  obtain ⟨h1, h2, h3, h4, h5, h6, h7, h8, h9, h10, h11, h12⟩ := emptied_resetPart hr hlost
  rw [hcover] at h11 h12
  exact ⟨_, hexec, h1, h2, h3, h4, h5, h6, h7, h8, h9, h10, h11, h12⟩

end

section
/-! REG_ADD, REG_SET_STATE and REG_REMOVE (R113, R114, R123, R125, R126; O24, O26, O27). In a registry in order the lookup finds the place
of a serial, so each request splits on the entry that stands there. -/

namespace Sys2Proof.Machine
open Sys2Proof.Safety

section
variable {s : State} {tag : Byte} {serial : Serial} {recipe : Option Nat} {number : Option (Fin 16)} {i : RegIx} {e : Entry}
  {expected new : Nat} {old target : EntryState}

theorem serialValid_eq_false (h : serial.length = 0 ∨ 16 < serial.length) : serialValid serial = false := by
  rw [Bool.eq_false_iff, Ne, serialValid_iff]
  omega

theorem respond_accepted_setRegistry {kind : Byte} {n : Nat} {st : Status} {ch : Bool} {body : ResponseBody} {r : Registry}
    (ha : Accepts tag s) :
    respond tag kind st ch body ((s.withRequest tag kind n).setRegistry r) = answered tag kind n st ch body (s.setRegistry r) :=
  respond_withRequest ha.2.2 rfl rfl

/-! ### REG_ADD (R113, R114, R123) -/

theorem exec_regAdd (ha : Accepts tag s) (hlen : serial.length < 256) :
    exec (.regAdd tag serial recipe) s = .next (regAdd tag serial recipe (s.withRequest tag 0x30 (addLength serial recipe))) :=
  congrArg Host.Outcome.next (acceptRequest_of_accepts ha (by split <;> omega))

theorem regAdd_of_badSerial (h : serial.length = 0 ∨ 16 < serial.length) : regAdd tag serial recipe s = refuse tag 0x30 .range s := by
  unfold regAdd
  rw [serialValid_eq_false h]
  rfl

theorem regAdd_of_badNumber {n : Nat} (hn : 16 ≤ n) : regAdd tag serial (some n) s = refuse tag 0x30 .range s := by
  have hix : recipeIx? n = none := dif_neg (by omega)
  unfold regAdd
  split
  · rfl
  · simp only [hix]

theorem regAdd_of_range (h : serial.length = 0 ∨ 16 < serial.length ∨ (∃ n, recipe = some n ∧ 16 ≤ n)) :
    regAdd tag serial recipe s = refuse tag 0x30 .range s := by
  rcases h with hempty | hlong | ⟨n, rfl, hn⟩
  · exact regAdd_of_badSerial (.inl hempty)
  · exact regAdd_of_badSerial (.inr hlong)
  · exact regAdd_of_badNumber hn

theorem regAdd_of_inRange (hv : serialValid serial = true) :
    regAdd tag serial (number.map Fin.val) s = regAddChecked tag serial number s := by
  unfold regAdd
  rw [hv]
  cases number with
  | none => rfl
  | some n =>
    have hix : recipeIx? n.val = some n := recipeIx?_eq_some.2 rfl
    simp only [Option.map_some, hix]
    rfl

theorem recipeGivenExists_iff : recipeGivenExists number s = true ↔ ∀ n, number = some n → recipeNumbered n s ≠ none := by
  cases number <;> simp [recipeGivenExists, Option.isSome_iff_ne_none]

theorem regAddChecked_of_badRecipe {n : Fin 16} (hnumber : number = some n) (hn : recipeNumbered n s = none) :
    regAddChecked tag serial number s = refuse tag 0x30 .badRecipe s :=
  if_pos (by simp [hnumber, recipeGivenExists, hn])

theorem pinned_eq (e : Entry) : e.pinned number = { e with
    origin := .manifest, recipe := if e.state = .expected ∧ number ≠ none then number else e.recipe, unboundSince := none } := by
  cases number <;> simp [Entry.pinned]

theorem regAddChecked_of_found (hrecipe : ∀ n, number = some n → recipeNumbered n s ≠ none)
    (hl : lookupSerial s.registry serial = some i) (he : s.registry.get i = some e) :
    regAddChecked tag serial number s =
      respond tag 0x30 .ok false (.regAdd i.val (some e) none) (s.setRegistry (s.registry.set i (some (e.pinned number)))) := by
  unfold regAddChecked
  rw [recipeGivenExists_iff.2 hrecipe, hl]
  simp only [Tab.modify, he]
  rfl

section
variable (hrecipe : ∀ n, number = some n → recipeNumbered n s ≠ none) (hl : lookupSerial s.registry serial = none)
include hrecipe hl

theorem regAddChecked_of_inserted {ins : Inserted} (hi : insertEntry (newEntry serial .manifest number) s.registry = some ins) :
    regAddChecked tag serial number s =
      respond tag 0x30 .ok true (.regAdd ins.place.val none ins.evicted) (s.setRegistry ins.registry) := by
  unfold regAddChecked
  rw [recipeGivenExists_iff.2 hrecipe, hl]
  simp only [hi]
  rfl

theorem regAddChecked_of_noRoom (hi : insertEntry (newEntry serial .manifest number) s.registry = none) :
    regAddChecked tag serial number s = refuse tag 0x30 .registryFull s := by
  unfold regAddChecked
  rw [recipeGivenExists_iff.2 hrecipe, hl]
  simp only [hi]
  rfl

end

/-! ### REG_SET_STATE (R125) -/

theorem exec_regSetState (ha : Accepts tag s) (hlen : serial.length < 256) :
    exec (.regSetState tag serial expected new) s =
      .next (regSetState tag serial expected new (s.withRequest tag 0x32 (serial.length + 3))) :=
  congrArg Host.Outcome.next (acceptRequest_of_accepts ha (by omega))

theorem regSetState_of_range (h : serial.length = 0 ∨ 16 < serial.length ∨ entryStateOf? expected = none ∨ entryStateOf? new = none) :
    regSetState tag serial expected new s = refuse tag 0x32 .range s := by
  have hcase : serialValid serial = false ∨ entryStateOf? expected = none ∨ entryStateOf? new = none := by
    rcases h with hempty | hlong | hbad
    · exact .inl (serialValid_eq_false (.inl hempty))
    · exact .inl (serialValid_eq_false (.inr hlong))
    · exact .inr hbad
  unfold regSetState
  rcases hcase with hv | hold | hnew
  · rw [hv]; rfl
  · rw [hold]; exact ite_self _
  · rw [hnew]; cases entryStateOf? expected <;> exact ite_self _

/-- The pairs that REG_SET_STATE takes, as the list of R125. -/
theorem settable_iff : settable old target = true ↔
    (old, target) ∈ [(EntryState.expected, EntryState.rejected), (.partialLoad, .rejected), (.rejected, .expected),
      (.rejected, .partialLoad)] := by
  cases old <;> cases target <;> simp [settable]

section
variable (hv : serialValid serial = true) (hold : entryStateOf? expected = some old) (hnew : entryStateOf? new = some target)
include hv hold hnew

theorem regSetState_of_unsettable (hset : settable old target = false) :
    regSetState tag serial expected new s = refuse tag 0x32 .wrongState s := by
  simp only [regSetState, hv, hold, hnew, hset, Bool.not_true, Bool.not_false, Bool.false_eq_true, if_false, if_true]

theorem regSetState_of_notFound (hset : settable old target = true) (hl : lookupSerial s.registry serial = none) :
    regSetState tag serial expected new s = refuse tag 0x32 .notFound s := by
  simp only [regSetState, hv, hold, hnew, hset, hl, Bool.not_true, Bool.false_eq_true, if_false]

theorem regSetState_of_found (hset : settable old target = true) (hl : lookupSerial s.registry serial = some i)
    (he : s.registry.get i = some e) : regSetState tag serial expected new s = setEntryState tag i e old target s := by
  simp only [regSetState, hv, hold, hnew, hset, hl, he, Bool.not_true, Bool.false_eq_true, if_false]

end

theorem setEntryState_of_bound (hb : e.boundPort ≠ none) : setEntryState tag i e old target s = refuse tag 0x32 .busy s :=
  if_pos (Option.isSome_iff_ne_none.2 hb)

section
variable (hb : e.boundPort = none)
include hb

theorem setEntryState_of_other (hs : e.state ≠ old) :
    setEntryState tag i e old target s = respond tag 0x32 .ok false (.regEntry i.val e) s :=
  (if_neg (by simp [hb])).trans (if_pos hs)

theorem setEntryState_of_same (hs : e.state = old) :
    setEntryState tag i e old target s =
      if !releaseFits target e then refuse tag 0x32 .wrongState s
      else respond tag 0x32 .ok true (.regEntry i.val e) (s.setRegistry (s.registry.set i (some (e.withState target)))) :=
  (if_neg (by simp [hb])).trans (if_neg (by simp [hs]))

end

/-- The delivered set of a REJECTED entry does not fit the state it would be released to (R125). -/
theorem releaseFits_eq_false_iff : releaseFits target e = false ↔
    e.state = .rejected ∧ (target = .expected ∧ e.delivered ≠ 0 ∨ target = .partialLoad ∧ e.delivered = 0) := by
  unfold releaseFits
  cases hs : e.state <;> cases target <;> simp

/-- Only a release to EXPECTED starts an aging time, and a rejection keeps the mismatches. -/
theorem withState_eq (e : Entry) : e.withState target = { e with
    state := target
    mismatches := if target = .rejected then e.mismatches else 0
    unboundSince := if target = .expected ∧ e.origin = .discovered then some 0 else none } := by
  cases target <;> rfl

/-! ### REG_REMOVE (R126) -/

theorem exec_regRemove (ha : Accepts tag s) (hlen : serial.length < 256) :
    exec (.regRemove tag serial expected) s = .next (regRemove tag serial expected (s.withRequest tag 0x33 (serial.length + 2))) :=
  congrArg Host.Outcome.next (acceptRequest_of_accepts ha (by omega))

theorem regRemove_of_range (h : serial.length = 0 ∨ 16 < serial.length ∨ entryStateOf? expected = none) :
    regRemove tag serial expected s = refuse tag 0x33 .range s := by
  have hcase : serialValid serial = false ∨ entryStateOf? expected = none := by
    rcases h with hempty | hlong | hbad
    · exact .inl (serialValid_eq_false (.inl hempty))
    · exact .inl (serialValid_eq_false (.inr hlong))
    · exact .inr hbad
  unfold regRemove
  rcases hcase with hv | hbad
  · rw [hv]; rfl
  · rw [hbad]; exact ite_self _

section
variable (hv : serialValid serial = true) (hold : entryStateOf? expected = some old)
include hv hold

theorem regRemove_of_notFound (hl : lookupSerial s.registry serial = none) :
    regRemove tag serial expected s = refuse tag 0x33 .notFound s := by
  simp only [regRemove, hv, hold, hl, Bool.not_true, Bool.false_eq_true, if_false]

theorem regRemove_of_found (hl : lookupSerial s.registry serial = some i) (he : s.registry.get i = some e) :
    regRemove tag serial expected s = removeEntry tag i e old s := by
  simp only [regRemove, hv, hold, hl, he, Bool.not_true, Bool.false_eq_true, if_false]

end

theorem removeEntry_of_bound (hb : e.boundPort ≠ none) : removeEntry tag i e old s = refuse tag 0x33 .busy s :=
  if_pos (Option.isSome_iff_ne_none.2 hb)

theorem removeEntry_of_other (hb : e.boundPort = none) (hs : e.state ≠ old) :
    removeEntry tag i e old s = respond tag 0x33 .ok false (.regEntry i.val e) s :=
  (if_neg (by simp [hb])).trans (if_pos hs)

theorem removeEntry_of_same (hb : e.boundPort = none) (hs : e.state = old) :
    removeEntry tag i e old s = respond tag 0x33 .ok true (.regEntry i.val e) (s.setRegistry (s.registry.set i none)) :=
  (if_neg (by simp [hb])).trans (if_neg (by simp [hs]))

end

end Sys2Proof.Machine

open Sys2Proof Sys2Proof.Machine Sys2Proof.Safety

/-- Settles O24: the checks in R123's order, then the entry that stands, or the insertion that the row's ways decide. -/
theorem regAddInsertsOrPins : Obligations.RegAddInsertsOrPins := by
  intro tag serial recipe s ha hlen hp
  rw [exec_regAdd ha hlen]
  refine ⟨fun h => ?range, ?_⟩
  case range => rw [regAdd_of_range h, refuse_accepted ha]
  rintro number rfl hmin hmax
  rw [regAdd_of_inRange ((serialValid_iff serial).2 ⟨hmin, hmax⟩)]
  refine ⟨?badRecipe, fun hrecipe => ⟨?found, fun habsent => ⟨fun way hway => ?free, fun way e hway => ?victim, fun hfull => ?full⟩⟩⟩
  case badRecipe =>
    rintro ⟨n, hnumber, hn⟩
    rw [regAddChecked_of_badRecipe (s := s.withRequest tag 0x30 _) hnumber hn, refuse_accepted ha]
  case found =>
    rintro i e he rfl
    rw [regAddChecked_of_found (s := s.withRequest tag 0x30 _) hrecipe (lookupSerial_of_get hp he) he,
      respond_accepted_setRegistry ha, pinned_eq]
    rfl
  all_goals have hl := lookupSerial_of_absent habsent
  case free =>
    rw [regAddChecked_of_inserted (s := s.withRequest tag 0x30 _) hrecipe hl (insertEntry_of_free hway),
      respond_accepted_setRegistry ha]
    rfl
  case victim =>
    rw [regAddChecked_of_inserted (s := s.withRequest tag 0x30 _) hrecipe hl (insertEntry_of_victim hway),
      respond_accepted_setRegistry ha]
    rfl
  case full =>
    rw [regAddChecked_of_noRoom (s := s.withRequest tag 0x30 _) hrecipe hl (insertEntry_of_full hfull), refuse_accepted ha]

/-- Settles O26: the pair of states is judged before the lookup, and an entry is compared before it is changed. -/
theorem regSetStateCompares : Obligations.RegSetStateCompares := by
  intro tag serial expected new s ha hlen hp
  rw [exec_regSetState ha hlen]
  refine ⟨fun h => ?range, fun old target hold hnew hmin hmax => ?_⟩
  case range => rw [regSetState_of_range h, refuse_accepted ha]
  have hv := (serialValid_iff serial).2 ⟨hmin, hmax⟩
  rw [← settable_iff]
  refine ⟨fun hset => ?unsettable, fun hset => ⟨fun habsent => ?notFound, ?_⟩⟩
  case unsettable => rw [regSetState_of_unsettable hv hold hnew (by simpa using hset), refuse_accepted ha]
  case notFound =>
    rw [regSetState_of_notFound (s := s.withRequest tag 0x32 _) hv hold hnew hset (lookupSerial_of_absent habsent), refuse_accepted ha]
  rintro i e he rfl
  rw [regSetState_of_found (s := s.withRequest tag 0x32 _) hv hold hnew hset (lookupSerial_of_get hp he) he]
  refine ⟨fun hb => ?bound, fun hb hs => ?other, fun hb hs => ?same⟩
  case bound => rw [setEntryState_of_bound hb, refuse_accepted ha]
  case other => rw [setEntryState_of_other hb hs, respond_accepted ha]
  case same =>
    rw [setEntryState_of_same hb hs, ← hs, ← releaseFits_eq_false_iff, Bool.not_eq_false]
    refine ⟨fun hfits => ?_, fun hfits => ?_⟩ <;> rw [hfits]
    · exact congrArg Host.Outcome.next (refuse_accepted ha)
    · rw [withState_eq]
      exact congrArg Host.Outcome.next (respond_accepted_setRegistry ha)

/-- Settles O27: the same comparison, without a pair of states to judge. -/
theorem regRemoveCompares : Obligations.RegRemoveCompares := by
  intro tag serial expected s ha hlen hp
  rw [exec_regRemove ha hlen]
  refine ⟨fun h => ?range, fun old hold hmin hmax => ?_⟩
  case range => rw [regRemove_of_range h, refuse_accepted ha]
  have hv := (serialValid_iff serial).2 ⟨hmin, hmax⟩
  refine ⟨fun habsent => ?notFound, ?_⟩
  case notFound =>
    rw [regRemove_of_notFound (s := s.withRequest tag 0x33 _) hv hold (lookupSerial_of_absent habsent), refuse_accepted ha]
  rintro i e he rfl
  rw [regRemove_of_found (s := s.withRequest tag 0x33 _) hv hold (lookupSerial_of_get hp he) he]
  refine ⟨fun hb => ?bound, fun hb hs => ?other, fun hb hs => ?same⟩
  case bound => rw [removeEntry_of_bound hb, refuse_accepted ha]
  case other => rw [removeEntry_of_other hb hs, respond_accepted ha]
  case same =>
    rw [removeEntry_of_same hb hs]
    exact congrArg Host.Outcome.next (respond_accepted_setRegistry ha)

end

section
/-! The start of an IMPORT (R66, R67; O22). -/

namespace Sys2Proof.Machine
open Sys2Proof.Safety

section
variable {s : State} {tag : Byte} {body : List Byte} {b : ImportBody} {target transport : SlotIx} {key : HeldKey}

theorem requestJob_eq (r : Fin 10) (inputs : JobInputs) (s : State) :
    requestJob r inputs s = { s with engine := requested r inputs s.engine } := by
  unfold requestJob requested
  cases h : s.engine.running with
  | none => rfl
  | some j => simp only [joinPending, newJob]; rw [← h]


theorem withRequest_setFlag (tag kind : Byte) (n : Nat) (e : Event) (s : State) :
    (s.withRequest tag kind n).setFlag e = (s.setFlag e).withRequest tag kind n := rfl

theorem exec_importKey (ha : Accepts tag s) (hlen : body.length ≤ 2048) :
    exec (.importKey tag body) s = .next (importKey tag body (s.withRequest tag 0x20 body.length)) :=
  congrArg Host.Outcome.next (acceptRequest_of_accepts ha hlen)

/-! ### The request and its envelope (R66) -/

theorem importKey_of_busy (h : s.importWork ≠ none) : importKey tag body s = refuse tag 0x20 .busy s :=
  if_pos (Option.isSome_iff_ne_none.2 h)

section
variable (hw : s.importWork = none)
include hw

theorem importKey_of_line (hl : s.line.takesKeys = false) : importKey tag body s = refuse tag 0x20 .wrongState s :=
  (if_neg (by simp [hw])).trans (if_pos (by simp [hl]))

theorem importKey_of_unreadable (hl : s.line.takesKeys = true) (hb : readImportBody body = none) :
    importKey tag body s = refuse tag 0x20 .range s := by
  simp only [importKey, hw, hl, hb, Option.isSome_none, Bool.not_true, Bool.false_eq_true, if_false]

theorem importKey_of_read (hl : s.line.takesKeys = true) (hb : readImportBody body = some b) :
    importKey tag body s = if b.envelope.acceptable then importChecked tag b s else refuse tag 0x20 .range s := by
  simp only [importKey, hw, hl, hb, Option.isSome_none, Bool.not_true, Bool.false_eq_true, if_false]

end

theorem acceptable_iff (e : BankEnvelope) : e.acceptable = true ↔ e.version = 1 ∧ (e.wrapped.length = 24 ∨ e.wrapped.length = 40) := by
  simp [BankEnvelope.acceptable]

/-! ### The transport key (R15) -/

theorem transportCheck_of_noSlot (h : 64 ≤ b.transport) : transportCheck b.transport s = .refused .range := by
  simp only [transportCheck, slotIx_of_ge h]

section
variable (ht : b.transport = transport.val)
include ht

theorem transportCheck_of_noRegion (hr : regionOf transport s = none) : transportCheck b.transport s = .refused .notPermitted := by
  simp [transportCheck, slotIx_of_val ht.symm, hr]

theorem transportCheck_of_inactive (hr : regionOf transport s ≠ none) (hc : ∀ key, (s.slot transport).content ≠ .active key) :
    transportCheck b.transport s = .refused .slotUnavailable := by
  simp only [transportCheck, slotIx_of_val ht.symm, Option.isNone_iff_eq_none, hr, if_false]

theorem transportCheck_of_active (hr : regionOf transport s ≠ none) (hc : (s.slot transport).content = .active key) :
    transportCheck b.transport s = if key.use = .transport then .usable transport key else .refused .wrongClass := by
  simp only [transportCheck, slotIx_of_val ht.symm, Option.isNone_iff_eq_none, hr, if_false, hc]

end

theorem importChecked_of_badTransport {st : Status} (h : transportCheck b.transport s = .refused st) :
    importChecked tag b s = refuse tag 0x20 st s := by
  simp only [importChecked, h]

/-! ### The target (R12) -/

theorem reserveCheck_of_noSlot {n : Nat} {cls : Option KeyClass} (h : 64 ≤ n) : reserveCheck n cls s = .refused .noSlot := by
  simp only [reserveCheck, slotIx_of_ge h]

section
variable {n : Nat} {cls : Option KeyClass} (ht : n = target.val)
include ht

theorem reserveCheck_of_occupied (hc : (s.slot target).content ≠ .empty) : reserveCheck n cls s = .refused .notEmpty := by
  simp only [reserveCheck, slotIx_of_val ht.symm, ne_eq, hc, not_false_eq_true, if_true]

section
variable (hc : (s.slot target).content = .empty)
include hc

theorem reserveCheck_of_noRegion (hr : regionOf target s = none) : reserveCheck n cls s = .refused .noRegion := by
  simp only [reserveCheck, slotIx_of_val ht.symm, ne_eq, hc, not_true_eq_false, if_false, hr]

theorem reserveCheck_of_unwritable {r : Region} {why : ReserveFailure} (hr : regionOf target s = some r)
    (hw : writerFailure r cls = some why) : reserveCheck n cls s = .refused why := by
  simp only [reserveCheck, slotIx_of_val ht.symm, ne_eq, hc, not_true_eq_false, if_false, hr, hw]

theorem reserveCheck_of_writable {r : Region} (hr : regionOf target s = some r) (hw : writerFailure r cls = none) :
    reserveCheck n cls s = if (s.slot target).generation < 4294967295 then .granted target else .refused .spent := by
  simp only [reserveCheck, slotIx_of_val ht.symm, ne_eq, hc, not_true_eq_false, if_false, hr, hw]

end

end

section
variable (hk : transportCheck b.transport s = .usable transport key)
include hk

theorem importChecked_of_badTarget {why : ReserveFailure} (h : reserveCheck b.target none s = .refused why) :
    importChecked tag b s = refuse tag 0x20 why.toControl s := by
  simp only [importChecked, hk, h]

theorem importChecked_of_fullJournal (h : reserveCheck b.target none s = .granted target) (ho : 511 ≤ s.journal.occupancy) :
    importChecked tag b s = refuse tag 0x20 .journalFull (s.setFlag .journalHigh) := by
  simp only [importChecked, hk, h, requestReservation_refused ho]

theorem importChecked_of_granted (h : reserveCheck b.target none s = .granted target) (ho : s.journal.occupancy < 511) :
    importChecked tag b s = startImport tag target transport key b.envelope (reserved .importUnit s) := by
  simp only [importChecked, hk, h, requestReservation_granted ho]

end

/-! ### The start (R67) -/

/-- The state an import that has started leaves. -/
def importStarted (tag : Byte) (target transport : SlotIx) (key : HeldKey) (e : BankEnvelope) (x y : Slot) (s : State) : State :=
  { (s.setSlot transport { x with inUse := x.inUse + 1 }).setSlot target { y with content := .assembling .importUnit } with
    importWork := some { tag := tag, target := target, transport := transport, transportGen := x.generation, zeroised := false }
    engine := requested 9 (.unwrap key.material e) s.engine }

/-- The two slots are apart, so the claim on the transport key leaves the target as it was. -/
theorem startImport_eq (hne : transport ≠ target) (e : BankEnvelope) :
    startImport tag target transport key e s = importStarted tag target transport key e (s.slot transport) (s.slot target) s := by
  have htarget : (raiseInUse transport s).slot target = s.slot target := by rw [raiseInUse, State.slot_setSlot, if_neg hne]
  rw [startImport, requestJob_eq, reserveSlot, htarget]
  rfl

end

end Sys2Proof.Machine

open Sys2Proof Sys2Proof.Machine Sys2Proof.Safety

/-- Settles O22: each check by its own lemma, in the order of R66. The target is EMPTY and the transport slot is not, so an import
that starts changes two slots. -/
theorem importStarts : Obligations.ImportStarts := by
  intro tag body s ha hlen
  rw [exec_importKey ha hlen]
  refine ⟨fun hw => ?busy, fun hw hl => ?line, fun hw hl => ?_⟩
  case busy => rw [importKey_of_busy (s := s.withRequest tag 0x20 _) hw, refuse_accepted ha]
  case line =>
    have htakes : s.line.takesKeys = false := by rcases hl with hl | ⟨kept, hl⟩ <;> rw [hl] <;> rfl
    rw [importKey_of_line (s := s.withRequest tag 0x20 _) hw htakes, refuse_accepted ha]
  have htakes : s.line.takesKeys = true := by rcases hl with hl | hl | hl <;> rw [hl] <;> rfl
  refine ⟨fun hb => ?unreadable, fun b hb => ?_⟩
  case unreadable => rw [importKey_of_unreadable (s := s.withRequest tag 0x20 _) hw htakes hb, refuse_accepted ha]
  rw [importKey_of_read (s := s.withRequest tag 0x20 _) hw htakes hb]
  refine ⟨fun hbad => ?version, fun hversion hwrapped => ?_⟩
  case version =>
    have hno : ¬ b.envelope.acceptable = true := by
      rw [acceptable_iff]
      rintro ⟨hv, hl⟩
      exact hbad.elim (fun h => h hv) fun ⟨h1, h2⟩ => hl.elim h1 h2
    rw [if_neg hno, refuse_accepted ha]
  rw [if_pos ((acceptable_iff _).2 ⟨hversion, hwrapped⟩)]
  have hfail (st : Status) (h : transportCheck b.transport (s.withRequest tag 0x20 body.length) = .refused st) :
      Host.Outcome.next (importChecked tag b (s.withRequest tag 0x20 body.length)) =
        (.next (refused tag 0x20 body.length st s) : Host.Outcome State Fault Refusal) := by
    rw [importChecked_of_badTransport h, refuse_accepted ha]
  refine ⟨fun ht => hfail _ (transportCheck_of_noSlot ht), fun transport ht => ⟨fun hr => hfail _ (transportCheck_of_noRegion ht hr),
    fun hr => ⟨fun hc => hfail _ (transportCheck_of_inactive ht hr hc), fun key hc => ?_⟩⟩⟩
  have hactive : transportCheck b.transport (s.withRequest tag 0x20 body.length) = _ := transportCheck_of_active ht hr hc
  refine ⟨fun huse => hfail _ (hactive.trans (if_neg huse)), fun huse => ?_⟩
  have husable := hactive.trans (if_pos huse)
  have hrefuse (why : ReserveFailure) (h : reserveCheck b.target none (s.withRequest tag 0x20 body.length) = .refused why) :
      Host.Outcome.next (importChecked tag b (s.withRequest tag 0x20 body.length)) =
        (.next (refused tag 0x20 body.length why.toControl s) : Host.Outcome State Fault Refusal) := by
    rw [importChecked_of_badTarget husable h, refuse_accepted ha]
  refine ⟨fun htarget => hrefuse _ (reserveCheck_of_noSlot htarget), fun target htarget => ⟨fun hempty =>
    hrefuse _ (reserveCheck_of_occupied htarget hempty), fun hempty => ⟨fun hregion =>
      hrefuse _ (reserveCheck_of_noRegion htarget hempty hregion), fun r hregion => ⟨fun hbad => ?spent, fun hwritable hgen => ?_⟩⟩⟩⟩
  case spent =>
    cases hwritable : r.importWritable with
    | false => exact hrefuse .notWritable (reserveCheck_of_unwritable htarget hempty hregion (by simp [writerFailure, hwritable]))
    | true =>
      have hgen : ¬ (s.slot target).generation < 4294967295 := by simpa [hwritable] using hbad
      exact hrefuse .spent
        ((reserveCheck_of_writable htarget hempty hregion (by simp [writerFailure, hwritable])).trans (if_neg hgen))
  have hgranted : reserveCheck b.target none (s.withRequest tag 0x20 body.length) = .granted target :=
    (reserveCheck_of_writable htarget hempty hregion (by simp [writerFailure, hwritable])).trans (if_pos hgen)
  refine ⟨fun ho => ?full, fun ho => ?start⟩
  case full =>
    rw [importChecked_of_fullJournal husable hgranted ho, withRequest_setFlag]
    exact congrArg Host.Outcome.next (refuse_accepted (s := s.setFlag .journalHigh) ha)
  case start =>
    have hne : transport ≠ target := by
      rintro rfl
      rw [hempty] at hc
      cases hc
    rw [importChecked_of_granted husable hgranted ho, withRequest_reserved, startImport_eq hne]
    simp only [State.withRequest_slot, reserved_slot]
    have hengine : (reserved .importUnit s).engine = s.engine := reserved_engine ..
    rw [← hengine]
    rfl

end

section
/-! The end of an IMPORT by the result of its UNWRAP job (R13, R68, R70-R72, R138, R143; O23). The end is in three moves: the target is
settled, the claim on the transport key is given back, the request is answered. -/

namespace Sys2Proof.Machine
open Sys2Proof.Safety

/-! ### A changed envelope is not authentic (R68, R138) -/

theorem eightBytes_injective {a b : List Byte} (hl : a.length = b.length) (h : Config.eightBytes a = Config.eightBytes b) : a = b := by
  unfold Config.eightBytes at h
  rw [hl] at h
  exact List.append_cancel_left h

/-- The bytes of an envelope before the length of its wrapped key: 4 of them, or 8 with a key set number. -/
def front (e : BankEnvelope) : List Byte :=
  e.version :: e.cls :: beBytes 1 e.length ++ match e.keySet with | none => [0] | some k => 1 :: beBytes 4 k

theorem header_eq_front (e : BankEnvelope) : e.header = front e ++ beBytes 1 e.wrapped.length := rfl

theorem length_front (e : BankEnvelope) : (front e).length = if e.keySet.isSome then 8 else 4 := by
  unfold front
  cases e.keySet <;> simp [beBytes_length]

/-- The byte before an optional field tells whether the field is there, so it tells fronts of different lengths apart. -/
theorem eightBytes_front_ne {e e' : BankEnvelope} (h : front e ≠ front e') :
    Config.eightBytes (front e) ≠ Config.eightBytes (front e') := by
  intro he
  by_cases hl : (front e).length = (front e').length
  · exact h (eightBytes_injective hl he)
  · rw [length_front, length_front] at hl
    have hbyte := congrArg (fun l : List Byte => l[3]?) he
    cases hk : e.keySet <;> cases hk' : e'.keySet <;> simp [hk, hk'] at hl <;>
      simp [Config.eightBytes, front, hk, hk', beBytes] at hbyte

theorem front_ne {e e' : BankEnvelope} (hw : e'.wrapped = e.wrapped) (h : e'.header ≠ e.header) : front e ≠ front e' := fun he =>
  h (by rw [header_eq_front, header_eq_front, hw, he])

theorem length_front_le (e : BankEnvelope) : (front e).length ≤ 8 := by
  rw [length_front]
  split <;> omega

/-- A change that the authenticator's rule names is seen (R138). -/
theorem not_authentic_of_changed {transport : KeyBytes} {e e' : BankEnvelope} (ha : Authentic transport e) (hc : Changed e e') :
    ¬Authentic transport e' := by
  obtain ⟨-, hcode⟩ := ha
  rintro ⟨-, hcode'⟩
  cases hc with
  | authenticator hcovered hne => exact hne (by rw [hcode, hcode', hcovered])
  | fields hsame hwrapped hheader =>
    refine authenticator_ne (before := []) transport (beBytes 1 e.wrapped.length ++ e.wrapped) (length_front_le e)
      (length_front_le e') (.inl rfl) (eightBytes_front_ne (front_ne hwrapped hheader)) ?_
    have hcovered : ∀ x : BankEnvelope, x.wrapped = e.wrapped →
        x.covered = [] ++ front x ++ (beBytes 1 e.wrapped.length ++ e.wrapped) := fun x hx => by
      rw [BankEnvelope.covered, header_eq_front, hx, List.nil_append, List.append_assoc]
    rw [← hcovered e rfl, ← hcovered e' hwrapped, ← hcode, ← hcode', hsame]
  | wrapped before part changed after hsame hheader hw hw' hl h8 hne =>
    refine authenticator_ne (before := e.header ++ before) transport after h8 (hl ▸ h8) (.inr hl)
      (fun he => hne (eightBytes_injective hl he)) ?_
    have hcovered : e.covered = e.header ++ before ++ part ++ after := by rw [BankEnvelope.covered, hw]; simp
    have hcovered' : e'.covered = e.header ++ before ++ changed ++ after := by rw [BankEnvelope.covered, hheader, hw']; simp
    rw [← hcovered, ← hcovered', ← hcode, ← hcode', hsame]

section
variable {s : State} {i : SlotIx} {w : ImportWork} {x : Slot} {j : Journal} {after : List RecordBody} {st : Status} {body : ResponseBody}

/-! ### The claim on the transport key is given back (R11, R15, R17) -/

theorem lowerInUse_kept (h : (∀ k, (s.slot i).content ≠ .erasing k) ∨ 1 < (s.slot i).inUse) :
    lowerInUse i s = s.setSlot i { s.slot i with inUse := (s.slot i).inUse - 1 } := by
  unfold lowerInUse
  dsimp only
  split
  next k hc => rw [if_neg (by have := h.resolve_left fun hn => hn k hc; omega)]
  next => rfl

/-- The last claim on a key that a ceremony waits to erase: the key is erased and the ceremony is complete. -/
theorem lowerInUse_erased {k : HeldKey} {work : CeremonyWork} {pair : Pair} (hc : (s.slot i).content = .erasing k)
    (hu : (s.slot i).inUse = 1) (hr : s.ceremony.run = .work work) (ha : work.approvers = some pair) :
    lowerInUse i s = finishCeremony work .completed .idle (writeRecord .ceremony (.keyErased i (s.slot i).generation pair)
      (s.setSlot i { s.slot i with inUse := 0, content := .empty })) := by
  unfold lowerInUse
  simp only [hc, hu, if_true]
  unfold completeErasure
  simp only [State.setSlot_ceremony, hr, ha, State.slot_setSlot, if_true, State.setSlot_setSlot]

/-! ### The target is settled (R13, R14, R70, R71) -/

/-- The target and the journal that the result of the job leaves. -/
def settled (w : ImportWork) (x : Slot) (j : Journal) (s : State) : State := (s.setSlot w.target x).setJournal j

theorem settled_of_failed : returnReservation .importUnit (abandonSlot .importUnit w.target s) =
    settled w { s.slot w.target with
      content := if (s.slot w.target).content = .assembling .importUnit then .empty else (s.slot w.target).content }
      { s.journal with reservations := s.journal.reservations.erase .importUnit } s := by
  unfold abandonSlot
  by_cases hc : (s.slot w.target).content = .assembling .importUnit
  · rw [if_pos hc, if_pos hc]
    rfl
  · rw [if_neg hc, if_neg hc, settled, State.setSlot_self]
    rfl

theorem settled_of_installed (hc : (s.slot w.target).content = .assembling .importUnit) (held : HeldKey) :
    installKey .importUnit .importUnit w.target held (.imported w.transport w.transportGen) s =
      settled w { s.slot w.target with content := .active held, generation := (s.slot w.target).generation + 1 }
        ({ s.journal with reservations := s.journal.reservations.erase .importUnit }.append
          (.keyInstalled w.target ((s.slot w.target).generation + 1) held.use.cls held.kcv (.imported w.transport w.transportGen))) s :=
  if_pos hc

/-- The state at the end of UNWRAP_DONE: the target settled, the claim given back, the request answered, the next job granted. -/
def importEnded (w : ImportWork) (x : Slot) (j : Journal) (st : Status) (body : ResponseBody) (s : State) : State :=
  grantNext (respond w.tag 0x20 st false body (endImport w (settled w x j s)))

theorem unwrapHandled_of_failed {job : Job} (hw : s.importWork = some w) (h : importOutcome w job.inputs s = .failed st) :
    grantNext (unwrapHandled job s) =
      importEnded w { s.slot w.target with
        content := if (s.slot w.target).content = .assembling .importUnit then .empty else (s.slot w.target).content }
        { s.journal with reservations := s.journal.reservations.erase .importUnit } st .nothing s := by
  rw [importEnded, ← settled_of_failed]
  simp only [unwrapHandled, hw, h]
  rfl

theorem unwrapHandled_of_installed {job : Job} {held : HeldKey} (hw : s.importWork = some w)
    (hc : (s.slot w.target).content = .assembling .importUnit) (h : importOutcome w job.inputs s = .installed held) :
    grantNext (unwrapHandled job s) =
      importEnded w { s.slot w.target with content := .active held, generation := (s.slot w.target).generation + 1 }
        ({ s.journal with reservations := s.journal.reservations.erase .importUnit }.append
          (.keyInstalled w.target ((s.slot w.target).generation + 1) held.use.cls held.kcv (.imported w.transport w.transportGen)))
        .ok (.imported w.target ((s.slot w.target).generation + 1) held.use.cls held.length held.kcv) s := by
  have hgeneration : ((installKey .importUnit .importUnit w.target held (.imported w.transport w.transportGen) s).slot
      w.target).generation = (s.slot w.target).generation + 1 := by
    rw [settled_of_installed hc, settled]
    exact congrArg Slot.generation (Tab.get_set_self ..)
  rw [importEnded, ← settled_of_installed hc]
  simp only [unwrapHandled, hw, h, hgeneration]

theorem settled_target : (settled w x j s).slot w.target = x := Tab.get_set_self ..

theorem settled_other {k : SlotIx} (h : w.target ≠ k) : (settled w x j s).slot k = s.slot k := Tab.get_set_other _ _ _ _ h

theorem importEnded_frame (w : ImportWork) (x : Slot) (j : Journal) (st : Status) (body : ResponseBody) (s : State) :
    { importEnded w x j st body s with
        engine := s.engine, outstanding := s.outstanding, responses := s.responses, flags := s.flags, importWork := s.importWork } =
      { lowerInUse w.transport (settled w x j s) with
        engine := s.engine, outstanding := s.outstanding, responses := s.responses, flags := s.flags, importWork := s.importWork } := by
  rw [importEnded, grantNext_frame]
  rfl

theorem responses_importEnded : (importEnded w x j st body s).responses =
    s.responses ++ [{ tag := w.tag, kind := 0x20, status := st, changed := false, body := body }] := by
  have hkept : (lowerInUse w.transport (settled w x j s)).responses = s.responses := by rw [lowerInUse_frame]; rfl
  rw [importEnded, grantNext_frame, ← hkept]
  rfl

theorem importWork_importEnded : (importEnded w x j st body s).importWork = none := by
  rw [importEnded, grantNext_frame]
  rfl

theorem flags_importEnded : (importEnded w x j st body s).flags = (lowerInUse w.transport (settled w x j s)).flags ||| 0x001#12 := by
  rw [importEnded, grantNext_frame]
  rfl

theorem slot_importEnded (k : SlotIx) : (importEnded w x j st body s).slot k = (lowerInUse w.transport (settled w x j s)).slot k :=
  (congrArg (State.slot k) (importEnded_frame w x j st body s) :)

theorem journal_importEnded : (importEnded w x j st body s).journal = (lowerInUse w.transport (settled w x j s)).journal :=
  (congrArg State.journal (importEnded_frame w x j st body s) :)

theorem ceremony_importEnded : (importEnded w x j st body s).ceremony = (lowerInUse w.transport (settled w x j s)).ceremony :=
  (congrArg State.ceremony (importEnded_frame w x j st body s) :)

theorem importEnded_keeps : (importEnded w x j st body s).store.custodians = s.store.custodians
    ∧ (importEnded w x j st body s).profile = s.profile ∧ (importEnded w x j st body s).registry = s.registry := by
  have hframe := importEnded_frame w x j st body s
  rw [lowerInUse_frame] at hframe
  exact ⟨(congrArg (fun v : State => v.store.custodians) hframe :), (congrArg State.profile hframe :),
    (congrArg State.registry hframe :)⟩

section
variable (hne : w.target ≠ w.transport)
include hne

/-- The slot, the records and the answer that an import ends with. -/
theorem importEnded_target (hrecords : (lowerInUse w.transport (settled w x j s)).journal.records =
      j.records ++ numbered j.nextSequence after) :
    (importEnded w x j st body s).slot w.target = x
      ∧ (importEnded w x j st body s).journal.records = j.records ++ numbered j.nextSequence after
      ∧ (importEnded w x j st body s).responses =
        s.responses ++ [{ tag := w.tag, kind := 0x20, status := st, changed := false, body := body }] := by
  obtain ⟨hothers, -⟩ := lowerInUse_spec w.transport (settled w x j s)
  refine ⟨?_, ?_, responses_importEnded⟩
  · rw [slot_importEnded, hothers w.target (Ne.symm hne), settled_target]
  · rw [journal_importEnded, hrecords]

/-- However the import ends, it ends as R71 orders, if the claim's release writes the records `after`. -/
theorem importEnded_unwrapHandled {job : Job} {transport : KeyBytes} {e : BankEnvelope} (hw : s.importWork = some w)
    (hjob : job.inputs = .unwrap transport e) (hc : w.zeroised = false → (s.slot w.target).content = .assembling .importUnit)
    (hafter : ∀ x j, (lowerInUse w.transport (settled w x j s)).journal.records = j.records ++ numbered j.nextSequence after) :
    ImportEnded transport e w after s (grantNext (unwrapHandled job s)) := by
  obtain ⟨hzeroised, hunauthentic, hunusable, hinstalled⟩ := importOutcome_spec w transport e s
  have hfailed : ∀ st, importOutcome w (.unwrap transport e) s = .failed st →
      ImportFailed st w after s (grantNext (unwrapHandled job s)) := fun st h => by
    rw [unwrapHandled_of_failed hw (hjob ▸ h)]
    exact importEnded_target hne (hafter _ _)
  refine ⟨fun h => hfailed _ (hzeroised h), fun h ha => hfailed _ (hunauthentic h ha), fun h ha hi => hfailed _ (hunusable h ha hi),
    fun held h ha hi => ?_⟩
  rw [unwrapHandled_of_installed hw (hc h) (hjob ▸ hinstalled held h ha hi)]
  obtain ⟨htarget, hrecords, hresponses⟩ := importEnded_target (st := .ok)
    (body := .imported w.target ((s.slot w.target).generation + 1) held.use.cls held.length held.kcv) hne (hafter
      { s.slot w.target with content := .active held, generation := (s.slot w.target).generation + 1 }
      ({ s.journal with reservations := s.journal.reservations.erase .importUnit }.append
        (.keyInstalled w.target ((s.slot w.target).generation + 1) held.use.cls held.kcv (.imported w.transport w.transportGen))))
  refine ⟨htarget, hrecords.trans ?_, hresponses⟩
  rw [Journal.append, List.append_assoc]
  rfl

/-- The claim given back is not the last on a key that waits for its erasure: the slot keeps its content. -/
theorem lowerInUse_settled_kept (h : (∀ k, (s.slot w.transport).content ≠ .erasing k) ∨ 1 < (s.slot w.transport).inUse) (x : Slot)
    (j : Journal) : lowerInUse w.transport (settled w x j s) =
      (settled w x j s).setSlot w.transport { s.slot w.transport with inUse := (s.slot w.transport).inUse - 1 } := by
  have hslot : (settled w x j s).slot w.transport = s.slot w.transport := settled_other hne
  rw [← hslot] at h ⊢
  exact lowerInUse_kept h

/-- The claim given back is the last on a key that a ceremony waits to erase. -/
theorem lowerInUse_settled_erased {k : HeldKey} {work : CeremonyWork} {pair : Pair} (h : (s.slot w.transport).content = .erasing k)
    (hu : (s.slot w.transport).inUse = 1) (hr : s.ceremony.run = .work work) (ha : work.approvers = some pair) (x : Slot) (j : Journal) :
    lowerInUse w.transport (settled w x j s) = finishCeremony work .completed .idle
      (writeRecord .ceremony (.keyErased w.transport (s.slot w.transport).generation pair)
        ((settled w x j s).setSlot w.transport { s.slot w.transport with inUse := 0, content := .empty })) := by
  have hslot : (settled w x j s).slot w.transport = s.slot w.transport := settled_other hne
  rw [← hslot] at h hu ⊢
  exact lowerInUse_erased h hu hr ha

/-- What an import leaves when its transport slot keeps its content. -/
theorem importEnded_kept (h : (∀ k, (s.slot w.transport).content ≠ .erasing k) ∨ 1 < (s.slot w.transport).inUse) :
    ((importEnded w x j st body s).slot w.transport).content = (s.slot w.transport).content
      ∧ (importEnded w x j st body s).journal = j ∧ (importEnded w x j st body s).ceremony = s.ceremony := by
  have hlower := lowerInUse_settled_kept hne h x j
  refine ⟨?_, ?_, ?_⟩
  · rw [slot_importEnded, hlower, State.slot_setSlot_self]
  · rw [journal_importEnded, hlower]; rfl
  · rw [ceremony_importEnded, hlower]; rfl

/-- What an import leaves when its claim was the last on a key that a ceremony waits to erase. -/
theorem importEnded_erased {k : HeldKey} {work : CeremonyWork} {pair : Pair} (h : (s.slot w.transport).content = .erasing k)
    (hu : (s.slot w.transport).inUse = 1) (hr : s.ceremony.run = .work work) (ha : work.approvers = some pair) :
    ((importEnded w x j st body s).slot w.transport).content = .empty
      ∧ (importEnded w x j st body s).journal =
        Journal.append (.keyErased w.transport (s.slot w.transport).generation pair)
          { j with reservations := j.reservations.erase .ceremony }
      ∧ (importEnded w x j st body s).ceremony =
        { run := .idle, last := some { kind := work.params.kind, aborted := none, named := work.params.named } }
      ∧ (importEnded w x j st body s).flags.getLsbD 10 = true := by
  have hlower := lowerInUse_settled_erased hne h hu hr ha x j
  refine ⟨?_, ?_, ?_, ?_⟩
  · rw [slot_importEnded, hlower, finishCeremony_frame]
    exact congrArg Slot.content (State.slot_setSlot_self ..)
  · rw [journal_importEnded, hlower, finishCeremony_frame]
    rfl
  · rw [ceremony_importEnded, hlower]
    simp [finishCeremony]
  · rw [flags_importEnded, hlower]
    simp [finishCeremony, only_ceremonyEnd]

end

/-- The running job completes: its requester handles it on the state from which it was taken, and the next job is granted (R137). -/
theorem completeJob_of_running {fits : JobInputs → Bool} {handle : Job → State → State} {job : Job} (hr : s.running = true)
    (hj : s.engine.running = some job) (hf : fits job.inputs = true) :
    completeJob fits handle s = grantNext (handle job (jobTaken s)) := by
  simp only [completeJob, hr, hj, hf, Bool.not_true, Bool.false_eq_true, if_false, if_true]
  rfl

theorem exec_unwrapDone {job : Job} {transport : KeyBytes} {e : BankEnvelope} (hr : s.running = true) (hj : s.engine.running = some job)
    (hjob : job.inputs = .unwrap transport e) : exec .unwrapDone s = .next (grantNext (unwrapHandled job (jobTaken s))) :=
  congrArg Host.Outcome.next (completeJob_of_running hr hj (by rw [hjob]; rfl))

/-- Whatever the result of the job, the import ends by `importEnded`, its own reservation given back. -/
theorem exists_importEnded {job : Job} {transport : KeyBytes} {e : BankEnvelope} (hw : s.importWork = some w)
    (hjob : job.inputs = .unwrap transport e) (hc : w.zeroised = false → (s.slot w.target).content = .assembling .importUnit) :
    ∃ x j st body, grantNext (unwrapHandled job s) = importEnded w x j st body s
      ∧ j.reservations = s.journal.reservations.erase .importUnit := by
  cases ho : importOutcome w job.inputs s with
  | failed st => exact ⟨_, _, _, _, unwrapHandled_of_failed hw ho, rfl⟩
  | installed held =>
    have hz : w.zeroised = false := by
      refine Bool.eq_false_iff.2 fun hz => ?_
      rw [hjob, (importOutcome_spec w transport e s).1 hz] at ho
      cases ho
    exact ⟨_, _, _, _, unwrapHandled_of_installed hw (hc hz) ho, rfl⟩

end

end Sys2Proof.Machine

open Sys2Proof Sys2Proof.Machine Sys2Proof.Safety

/-- Settles O23: an import ends in `importEnded` whatever its result, and the two cases are what giving back the claim on the transport
key does. -/
theorem unwrapDoneEndsTheImport : Obligations.UnwrapDoneEndsTheImport := by
  refine ⟨fun s job w transport e hr hj hw hjob hne hc => ?_, fun transport e e' => not_authentic_of_changed⟩
  have hexec := exec_unwrapDone hr hj hjob
  obtain ⟨x, j, st, body, hended, hreservations⟩ := exists_importEnded (s := jobTaken s)
    (job := job) hw hjob hc
  have hends := fun after => importEnded_unwrapHandled (s := jobTaken s) (after := after)
    hne hw hjob hc
  obtain ⟨hothers, hinUse, hgeneration, -⟩ :=
    lowerInUse_spec w.transport (settled w x j (jobTaken s))
  have hsettled : (settled w x j (jobTaken s)).slot w.transport = s.slot w.transport :=
    settled_other hne
  rw [hended] at hexec hends
  refine ⟨_, hexec, importWork_importEnded, ?inUse, ?generation, importEnded_keeps.1, importEnded_keeps.2.1, importEnded_keeps.2.2,
    fun i hi ht => ?others, fun hkept => ?kept, fun k work pair hk hu hrun hpair => ?erased⟩
  case inUse => rw [slot_importEnded, hinUse, hsettled]
  case generation => rw [slot_importEnded, hgeneration, hsettled]
  case others =>
    rw [slot_importEnded, hothers i (Ne.symm ht)]
    exact settled_other (Ne.symm hi)
  case kept =>
    obtain ⟨hcontent, hjournal, hceremony⟩ := importEnded_kept (s := jobTaken s)
      (x := x) (j := j) (st := st) (body := body) hne hkept
    have hrecords := hends [] fun x j => by
      rw [lowerInUse_settled_kept (s := jobTaken s) hne hkept, numbered, List.append_nil]
      rfl
    exact ⟨⟨hrecords.zeroised, hrecords.unauthentic, hrecords.unusable, hrecords.installed⟩, hcontent,
      by rw [hjournal, hreservations]; rfl, hceremony⟩
  case erased =>
    obtain ⟨hcontent, hjournal, hceremony, hflag⟩ := importEnded_erased (s := jobTaken s)
      (x := x) (j := j) (st := st) (body := body) hne hk hu hrun hpair
    have hrecords := hends [.keyErased w.transport (s.slot w.transport).generation pair] fun x j => by
      rw [lowerInUse_settled_erased (s := jobTaken s) hne hk hu hrun hpair, finishCeremony_frame]
      rfl
    refine ⟨⟨hrecords.zeroised, hrecords.unauthentic, hrecords.unusable, hrecords.installed⟩, hcontent, ?_, hceremony, hflag⟩
    rw [hjournal, Journal.append, hreservations]
    rfl

end

section
/-! PROFILE_COMMIT (R81-R86, R88-R94; O12, O13): the stream is gone before the checks are made, the validation is
`validate_of_invalid` and `validate_of_validates`, and the manifest is applied in the two passes of `applyManifest`. -/

namespace Sys2Proof.Machine
open Sys2Proof.Safety

section
variable {s : State} {tag : Byte} {check : Check32} {stream : Stream} {staged : Staged} {a : Applied}

theorem exec_profileCommit (ha : Accepts tag s) :
    exec (.profileCommit tag check) s = .next (profileCommit tag check (s.withRequest tag 0x03 4)) :=
  congrArg Host.Outcome.next (acceptRequest_of_accepts ha (by omega))

/-! ### The checks (R81, R82) -/

theorem profileCommit_of_noStream (h : s.stream = none) : profileCommit tag check s = refuse tag 0x03 .noStream s := by
  simp only [profileCommit, h]

section
variable (h : s.stream = some stream)
include h

theorem profileCommit_of_spoilt (hs : stream.spoilt = true) :
    profileCommit tag check s = refuse tag 0x03 .streamSpoilt { s with stream := none } := by
  simp only [profileCommit, h, hs, if_true]

theorem profileCommit_of_badCheck (hs : stream.spoilt = false) (hc : check ≠ streamCheckOf stream.staged) :
    profileCommit tag check s = refuse tag 0x03 .badCheck { s with stream := none } := by
  simp only [profileCommit, h, hs, Bool.false_eq_true, if_false, if_pos hc]

section
variable (hs : stream.spoilt = false) (hc : check = streamCheckOf stream.staged)
include hs hc

theorem profileCommit_of_invalid {code : Status} {place : Option Nat} (hv : validate stream.staged = .failed code place) :
    profileCommit tag check s = refuseAt tag 0x03 code place { s with stream := none } := by
  simp only [profileCommit, h, hs, Bool.false_eq_true, if_false, hc, ne_eq, not_true_eq_false, hv]

theorem profileCommit_of_noRoom {code : Status} {place : Option Nat} (hv : validate stream.staged = .passed staged)
    (hm : applyManifest staged.lines s.registry = .failed code place) :
    profileCommit tag check s = refuseAt tag 0x03 code place { s with stream := none } := by
  have hregistry : State.registry { s with stream := none } = s.registry := rfl
  simp only [profileCommit, h, hs, Bool.false_eq_true, if_false, hc, ne_eq, not_true_eq_false, hv, hregistry, hm]

theorem profileCommit_of_applied (hv : validate stream.staged = .passed staged)
    (hm : applyManifest staged.lines s.registry = .passed a) :
    profileCommit tag check s = commitProfile tag check staged a { s with stream := none } := by
  have hregistry : State.registry { s with stream := none } = s.registry := rfl
  simp only [profileCommit, h, hs, Bool.false_eq_true, if_false, hc, ne_eq, not_true_eq_false, hv, hregistry, hm]

end

end

/-! ### A profile put in force (R84, R85, R88) -/

theorem contextUnder_eq (e : PortEntry) (b : Bench) :
    contextUnder e b =
      if e.attach = false then .off else if b.ctx = .off then (if b.present then .attached else .vacant) else b.ctx := by
  unfold contextUnder
  cases e.attach with
  | false => rfl
  | true => cases b.ctx <;> rfl

theorem setFlagIf_journalHigh (p : Prop) [Decidable p] (s : State) :
    s.setFlagIf (decide p) .journalHigh = { s with flags := if p then s.flags ||| 0x008#12 else s.flags } := by
  by_cases hp : p
  · rw [decide_eq_true hp, if_pos hp]
    rfl
  · rw [decide_eq_false hp, if_neg hp]
    rfl

/-- A commit writes the profile, the registry, the contexts and at most one flag before its answer. -/
theorem exists_commitProfile (s : State) : ∃ benches : Tab Bench 8,
    (∀ p, benches.get p = { s.bench p with ctx := contextUnder (staged.profile.ports.get p) (s.bench p) })
      ∧ commitProfile tag check staged a s =
        respond tag 0x03 .ok false (.committed staged.profile.recipes.length staged.lines.length a.inserted a.evicted check)
          { s with
            store := { s.store with
              profile := some staged.profile, registry := removeAged staged.profile.params.ageLimit a.registry }
            benches := benches
            flags := if staged.profile.params.highMark ≤ s.journal.occupancy then s.flags ||| 0x008#12 else s.flags } := by
  obtain ⟨hframe, hbench⟩ := applyPortTable_spec staged.profile.ports
    { s with store := { s.store with profile := some staged.profile, registry := a.registry } }
  refine ⟨_, hbench, ?_⟩
  unfold commitProfile
  dsimp only
  generalize applyPortTable staged.profile.ports
    { s with store := { s.store with profile := some staged.profile, registry := a.registry } } = t at hframe ⊢
  have ht : t = { s with
      store := { s.store with profile := some staged.profile, registry := a.registry }, benches := t.benches } :=
    (congrArg (fun u : State => { u with benches := t.benches }) hframe :)
  generalize t.benches = benches at ht
  subst ht
  rw [setFlagIf_journalHigh]
  rfl

end

end Sys2Proof.Machine

open Sys2Proof Sys2Proof.Machine Sys2Proof.Safety

/-- Settles O12: each check by its own lemma, in the order of R81, on the state from which the stream has been taken. -/
theorem profileCommitRefused : Obligations.ProfileCommitRefused := by
  intro tag check s ha
  rw [exec_profileCommit ha]
  refine ⟨fun h => ?noStream, fun stream h => ⟨fun hs => ?spoilt, fun hs hc => ?badCheck, fun hs hc => ⟨fun code place hi => ?invalid,
    fun profile lines k hv hp hn => ?noRoom⟩⟩⟩
  case noStream => rw [profileCommit_of_noStream (s := s.withRequest tag 0x03 4) h, refuse_accepted ha]
  case spoilt =>
    rw [profileCommit_of_spoilt (s := s.withRequest tag 0x03 4) h hs]
    exact congrArg Host.Outcome.next (respond_accepted_setStream ha none)
  case badCheck =>
    rw [profileCommit_of_badCheck (s := s.withRequest tag 0x03 4) h hs hc]
    exact congrArg Host.Outcome.next (respond_accepted_setStream ha none)
  case invalid =>
    rw [profileCommit_of_invalid (s := s.withRequest tag 0x03 4) h hs hc (validate_of_invalid hi)]
    cases place <;> exact congrArg Host.Outcome.next (respond_accepted_setStream ha none)
  case noRoom =>
    rw [profileCommit_of_noRoom (s := s.withRequest tag 0x03 4) h hs hc (validate_of_validates hv)
      (applyManifest_of_noRoom hp hv.good.1 hn)]
    exact congrArg Host.Outcome.next (respond_accepted_setStream ha none)

/-- Settles O13: the manifest applies as `Inserts` says, and `exists_commitProfile` lists what the commit writes. -/
theorem profileCommitPutsInForce : Obligations.ProfileCommitPutsInForce := by
  intro tag check s stream profile lines pinned filled inserted evicted ha h hs hc hv hp hpinned hinserts
  have happly := applyManifest_of_inserts hp hv.good.1 hpinned hinserts
  obtain ⟨benches, hbench, hcommit⟩ := exists_commitProfile (staged := { profile := profile, lines := lines })
    (a := { registry := filled, inserted := inserted, evicted := evicted }) (tag := tag) (check := check)
    { s.withRequest tag 0x03 4 with stream := none }
  have hanswered := profileCommit_of_applied (s := s.withRequest tag 0x03 4) (tag := tag) h hs hc (validate_of_validates hv) happly
  rw [hcommit, respond_withRequest (s := s) ha.2.2 rfl rfl] at hanswered
  refine ⟨_, (exec_profileCommit ha).trans (congrArg Host.Outcome.next hanswered), rfl, fun i => removeAged_get ..,
    fun p => (hbench p).trans ?_⟩
  rw [contextUnder_eq]
  rfl

end

section
/-! QUERY and an unreadable console message (R26, R36, R63, R200; O31). -/

namespace Sys2Proof.Machine
open Sys2Proof.Safety

section
variable {s : State} {l k : ConsoleLink}

/-- Taking a message restarts a timer and leaves who is logged on. -/
theorem who_heard : ((heard l s).console k).logon.map Logon.who = (s.console k).logon.map Logon.who := by
  by_cases hk : l = k
  · subst hk
    rw [heard_console_self]
    cases (s.console l).logon <;> rfl
  · rw [heard, State.console_setConsole, if_neg hk]

theorem presentAt_eq (k : ConsoleLink) (s : State) :
    presentAt k s = ((s.console k).logon.map Logon.who).map fun who => personOf who s := by
  rw [presentAt, Option.map_map]
  rfl

theorem idleReport_heard : idleReport (heard l s) = idleReport s := by
  simp only [idleReport, presentAt_eq, who_heard]
  rfl

theorem queryReport_heard : queryReport (heard l s) = queryReport s := by
  unfold queryReport
  rw [idleReport_heard]
  rfl

theorem queryReport_of_work {w : CeremonyWork} (h : s.ceremony.run = .work w) :
    queryReport s = { idleReport s with
      checkPending := if w.phase = .gathering ∧ w.params.kind = .assemble then some w.underCheck.isSome else none
      kind := some w.params.kind, opener := some w.opener, params := some w.params.shown
      componentCount := w.params.componentCount?, held := w.heldPersons, underCheck := w.underCheck.map fun u => u.who.cust
      badEntries := w.shownBad, acceptances := w.acceptances
      kcv := if w.phase = .verifying then w.combined.map CombinedKey.kcv else none
      windowLeft := w.window.map fun t => t.limit - t.count } := by
  simp only [queryReport, h]

theorem queryReport_of_settling {kind : CeremonyKind} {opener : Person} (h : s.ceremony.run = .settling kind opener) :
    queryReport s = { idleReport s with kind := some kind, opener := some opener } := by
  simp only [queryReport, h]

/-- The fields that only an ASSEMBLE shows. -/
theorem map_componentCount? {α : Type} (params : CeremonyParams) (a : α) :
    (params.componentCount?.map fun _ => a) = if params.kind = .assemble then some a else none := by
  cases params <;> rfl

/-- The custodian part of a report, which is there whatever the ceremony does. -/
theorem queryReport_custodians (s : State) : (queryReport s).link1 = presentAt 0 s ∧ (queryReport s).link2 = presentAt 1 s
    ∧ (queryReport s).table = s.store.custodians.data.map (Option.map CustEntry.shown)
    ∧ (queryReport s).state = s.ceremony.run.state ∧ (queryReport s).last = s.ceremony.last := by
  unfold queryReport
  split <;> exact ⟨rfl, rfl, rfl, rfl, rfl⟩

theorem exec_query (hs : Listens l s) :
    exec (.query l) s = .next (told l 0x09 .ok (.query (queryReport s)) (heard l s)) := by
  have hanswer := answer_of_present (kind := 0x09) (st := .ok) (body := .query (queryReport (heard l s))) (heard_present hs.1)
  rw [queryReport_heard] at hanswer
  refine congrArg Host.Outcome.next ((consoleMessage_of_listens hs).trans ?_)
  rw [queryReport_heard, hanswer]

theorem exec_consoleBadMessage (hs : Listens l s) (kind : Byte) :
    exec (.consoleBadMessage l kind) s = .next (told l kind .wrongState .nothing (heard l s)) :=
  congrArg Host.Outcome.next ((consoleMessage_of_listens hs).trans (answer_of_present (heard_present hs.1)))

end

end Sys2Proof.Machine

open Sys2Proof Sys2Proof.Machine Sys2Proof.Safety

/-- Settles O31: the report is `queryReport`, taken field by field as the ceremony runs, settles or is IDLE. -/
theorem queryAndBadMessage : Obligations.QueryAndBadMessage := by
  intro l s hs
  obtain ⟨hlink1, hlink2, htable, hstate, hlast⟩ := queryReport_custodians s
  refine ⟨fun kind => exec_consoleBadMessage hs kind, queryReport s, exec_query hs, hlink1, hlink2, htable, hstate, hlast,
    fun w hw => ?work, fun kind opener hw => ?settling⟩
  case work =>
    rw [queryReport_of_work hw]
    exact ⟨rfl, rfl, rfl, rfl, map_componentCount? .., rfl, map_componentCount? .., rfl, rfl, rfl, rfl⟩
  case settling =>
    rw [queryReport_of_settling hw]
    exact ⟨rfl, rfl, rfl, rfl⟩

end

section
/-! LOGON and its checks (R27, R28; O32). -/

namespace Sys2Proof.Machine
open Sys2Proof.Safety

section
variable {s : State} {l : ConsoleLink} {number : Nat} {credential : List Byte} {c : Cust} {e : CustEntry}

theorem exec_logon (hs : Listens l s) :
    exec (.logon l number credential) s = .next (logon l number credential (heard l s)) :=
  congrArg Host.Outcome.next (consoleMessage_of_listens hs)

theorem logon_of_busy (h : (s.console l).logon ≠ none) : logon l number credential s = answer l 0x01 .busy .nothing s :=
  if_pos (Option.isSome_iff_ne_none.2 h)


section
variable (hl : (s.console l).logon = none)
include hl

theorem logon_of_noNumber (h : cust? number = none) : logon l number credential s = answer l 0x01 .notFound .nothing s := by
  simp only [logon, hl, Option.isSome_none, Bool.false_eq_true, if_false, h]

/-- With nobody logged on at the link itself, the custodian is logged on exactly when the other link says so. -/
theorem loggedOn_otherConsole_iff : (s.console (otherConsole l)).logon.map Logon.who = some c ↔ ∃ k, LoggedOn k c s := by
  refine ⟨fun h => ⟨_, h⟩, fun ⟨k, hk⟩ => ?_⟩
  rcases eq_or_eq_otherConsole k l with rfl | rfl
  · rw [LoggedOn, hl] at hk
    cases hk
  · exact hk

section
variable (hn : cust? number = some c)
include hn

theorem logon_of_noEntry (hc : s.custodian c = none) : logon l number credential s = answer l 0x01 .notFound .nothing s := by
  simp only [logon, hl, Option.isSome_none, Bool.false_eq_true, if_false, hn, hc]

theorem logon_of_entry (hc : s.custodian c = some e) : logon l number credential s =
    if (s.console (otherConsole l)).logon.map Logon.who = some c then answer l 0x01 .alreadyPresent .nothing s
    else if e.lock = .locked then answer l 0x01 .locked .nothing s
    else if e.matches credential then startLogon l c e s
    else answer l 0x01 .denied .nothing (s.setCustodian c (some e.failed)) := by
  simp only [logon, hl, Option.isSome_none, Bool.false_eq_true, if_false, hn, hc]

end

end

theorem matches_iff : e.matches credential = true ↔
    8 ≤ credential.length ∧ credential.length ≤ 32 ∧ Config.digest credential = e.digest := by
  rw [CustEntry.matches, Bool.and_eq_true, beq_iff_eq, credentialValid_iff, and_assoc]

theorem startLogon_of_present (h : (s.console l).present = true) : startLogon l c e s =
    told l 0x01 .ok (.person { cust := c, group := e.group })
      ((s.setCustodian c (some { e with fails := 0 })).setConsole l
        { s.console l with logon := some { who := c, idle := { count := 0, limit := custodianIdleLimit s } } }) := by
  refine (answer_of_present ?_).trans rfl
  rw [State.console_setConsole, if_pos rfl]
  exact h

end

end Sys2Proof.Machine

open Sys2Proof Sys2Proof.Machine Sys2Proof.Safety

/-- Settles O32: the rows of R27 in their order, over the state in which the message has been taken. -/
theorem logonChecks : Obligations.LogonChecks := by
  intro l number credential s hs
  rw [exec_logon hs]
  have hpresent := heard_present hs.1
  have hwho : ∀ k, ((heard l s).console k).logon.map Logon.who = (s.console k).logon.map Logon.who := fun k => who_heard
  refine ⟨fun hl => ?busy, fun hl => ?_⟩
  case busy =>
    have hbusy : ((heard l s).console l).logon ≠ none := by simpa using hl
    rw [logon_of_busy hbusy, answer_of_present hpresent]
  have hnone : ((heard l s).console l).logon = none := by simpa using hl
  refine ⟨fun hn => ?noNumber, fun c hn => ?_⟩
  case noNumber => rw [logon_of_noNumber hnone (cust?_eq_none hn), answer_of_present hpresent]
  have hcust : cust? number = some c := by rw [hn, cust?_val_add_one]
  refine ⟨fun hc => ?noEntry, fun e hc => ?_⟩
  case noEntry => rw [logon_of_noEntry (s := heard l s) hnone hcust hc, answer_of_present hpresent]
  rw [logon_of_entry (s := heard l s) hnone hcust hc, hwho]
  refine ⟨fun hon => ?already, fun hoff => ?_⟩
  case already => rw [if_pos ((loggedOn_otherConsole_iff hl).2 hon), answer_of_present hpresent]
  rw [if_neg (mt (loggedOn_otherConsole_iff hl).1 (not_exists.2 hoff))]
  refine ⟨fun hlock => ?locked, fun hlock hmin hmax hdigest => ?granted, fun hlock hbad => ?denied⟩
  case locked => rw [if_pos hlock, answer_of_present hpresent]
  all_goals rw [if_neg (by rw [hlock]; nofun)]
  case granted => rw [if_pos (matches_iff.2 ⟨hmin, hmax, hdigest⟩), startLogon_of_present hpresent]; rfl
  case denied =>
    have hno : ¬ e.matches credential = true := by
      rw [matches_iff]
      rintro ⟨hmin, hmax, hdigest⟩
      rcases hbad with h | h | h
      · omega
      · omega
      · exact h hdigest
    have hfailed : e.failed = { e with fails := e.fails + 1, lock := if 5 ≤ e.fails + 1 then .locked else .enrolled } := by
      rw [CustEntry.failed, hlock]
    rw [if_neg hno, hfailed, answer_of_present]
    exact hpresent

end

section
/-! The end of a logon (R29, R30, R32, R33; O34), and what an abort does (R58): to the consoles it only adds messages and answers the
COMPONENT under check, and apart from the consoles it is `abortedTo`. -/

namespace Sys2Proof.Machine
open Sys2Proof.Safety

section
variable {s t u : State} {l k : ConsoleLink}

/-! ### Messages that join the queues (R201) -/

theorem mem_joinConsoleQueue_self (q : List ConsoleOut) (m : ConsoleOut) : m ∈ joinConsoleQueue q m := by
  unfold joinConsoleQueue
  split
  · exact List.mem_append_right _ (List.mem_singleton_self m)
  · split
    · exact List.mem_singleton_self m
    · exact List.mem_append_right _ (List.mem_singleton_self m)

theorem mem_dropNotice {q : List ConsoleOut} {a : ConsoleOut} (ha : a.isAnswer = true) (h : a ∈ q) : a ∈ dropNotice q := by
  induction q with
  | nil => exact h
  | cons m rest ih =>
    rw [dropNotice]
    rcases List.mem_cons.1 h with rfl | hrest
    · rw [if_pos ha]
      exact List.mem_cons_self ..
    · split
      · exact List.mem_cons_of_mem _ (ih hrest)
      · exact hrest

/-- A full queue loses a notice, and never an answer. -/
theorem mem_joinConsoleQueue {q : List ConsoleOut} {a : ConsoleOut} (ha : a.isAnswer = true) (h : a ∈ q) (m : ConsoleOut) :
    a ∈ joinConsoleQueue q m := by
  unfold joinConsoleQueue
  split
  · exact List.mem_append_left _ h
  · split
    · cases h
    next head rest =>
      refine List.mem_append_left _ ?_
      rcases List.mem_cons.1 h with rfl | hrest
      · exact List.mem_cons_self ..
      · exact List.mem_cons_of_mem _ (mem_dropNotice ha hrest)

/-- From `c` to `d`, a console has been told things: it is the same console with the same logon, no answer has left its queue, and no
request of it has become unanswered. One that is not there, with nothing unanswered, stays as it is. -/
structure ConsoleTold (c d : Console) : Prop where
  logon : d.logon = c.logon
  present : d.present = c.present
  unanswered : d.unanswered = true → c.unanswered = true
  answers : ∀ a : ConsoleOut, a.isAnswer = true → a ∈ c.tx → a ∈ d.tx
  absent : c.present = false → c.unanswered = false → d = c

theorem ConsoleTold.refl (c : Console) : ConsoleTold c c := ⟨rfl, rfl, id, fun _ _ => id, fun _ _ => rfl⟩

theorem ConsoleTold.trans {c d e : Console} (h : ConsoleTold c d) (g : ConsoleTold d e) : ConsoleTold c e :=
  ⟨g.logon.trans h.logon, g.present.trans h.present, fun hu => h.unanswered (g.unanswered hu),
    fun a ha hm => g.answers a ha (h.answers a ha hm), fun hp hu => by
      have hd := h.absent hp hu
      rw [hd] at g
      exact (g.absent hp hu).trans rfl⟩

/-- From `s` to `t`, the consoles have been told things. -/
structure ConsolesTold (s t : State) : Prop where
  console : ∀ l, ConsoleTold (s.console l) (t.console l)

theorem ConsolesTold.trans (h : ConsolesTold s t) (g : ConsolesTold t u) : ConsolesTold s u :=
  ⟨fun l => (h.console l).trans (g.console l)⟩

theorem ConsolesTold.of_eq (h : t.consoles = s.consoles) : ConsolesTold s t where
  console l := by
    have hl : t.console l = s.console l := congrArg (fun x : Tab Console 2 => x.get l) h
    rw [hl]
    exact .refl _

theorem told_setConsole {c : Console} (h : ConsoleTold (s.console l) c) : ConsolesTold s (s.setConsole l c) where
  console k := by
    rw [State.console_setConsole]
    split
    next hk => subst hk; exact h
    next => exact .refl _

theorem told_pushConsole (m : ConsoleOut) : ConsolesTold s (pushConsole l m s) := by
  unfold pushConsole
  dsimp only
  split
  next hp => exact told_setConsole ⟨rfl, rfl, id, fun a ha hm => mem_joinConsoleQueue ha hm m, fun habsent => by simp [habsent] at hp⟩
  · exact .of_eq rfl

theorem told_noticeAll (n : Notice) : ConsolesTold s (noticeAll n s) := (told_pushConsole _).trans (told_pushConsole _)

theorem told_finishCeremony (w : CeremonyWork) (result : CeremonyResult) (run : CeremonyRun) :
    ConsolesTold s (finishCeremony w result run s) := by
  have hnotice : ∀ v n, v.consoles = s.consoles → ConsolesTold s ((noticeAll n v).setFlag .ceremonyEnd) := fun v n hv =>
    ((ConsolesTold.of_eq hv).trans (told_noticeAll n)).trans (.of_eq rfl)
  exact hnotice _ _ rfl

theorem mem_answer {kind : Byte} {st : Status} {body : AnswerBody} (hp : (s.console l).present = true) :
    ConsoleOut.answer kind st body ∈ ((answer l kind st body s).console l).tx := by
  rw [answer_of_present hp, told, State.console_setConsole, if_pos rfl]
  exact mem_joinConsoleQueue_self ..

/-! ### The COMPONENT under check at an abort (R33, R58) -/

theorem told_answerWithheld (st : Status) : ConsolesTold s (answerWithheld l st .nothing s) := by
  unfold answerWithheld
  split
  next hu =>
    have hcleared : ConsoleTold (s.console l) { s.console l with unanswered := false } :=
      ⟨rfl, rfl, nofun, fun _ _ => id, fun _ h => by rw [h] at hu; cases hu⟩
    exact (told_setConsole hcleared).trans (told_pushConsole _)
  · exact .of_eq rfl

/-- The answer withheld for a COMPONENT has been sent, where its console is there to have it. -/
theorem answerWithheld_answers (st : Status) (hu : (s.console l).unanswered = true) :
    ((answerWithheld l st .nothing s).console l).unanswered = false
      ∧ (((answerWithheld l st .nothing s).console l).present = true →
        ConsoleOut.answer 0x05 st .nothing ∈ ((answerWithheld l st .nothing s).console l).tx) := by
  have htold := (told_pushConsole (s := s.setConsole l { s.console l with unanswered := false }) (l := l)
    (.answer 0x05 st .nothing)).console l
  have hconsole : (s.setConsole l { s.console l with unanswered := false }).console l = { s.console l with unanswered := false } :=
    Tab.get_set_self ..
  rw [answerWithheld, if_pos hu]
  refine ⟨Bool.eq_false_iff.2 fun hx => ?_, fun hp => mem_answer ?_⟩
  · have := htold.unanswered hx
    rw [hconsole] at this
    cases this
  · exact htold.present.symm.trans hp

theorem told_answerUnderCheck (reason : AbortReason) (leaver : Option Cust) (w : CeremonyWork) :
    ConsolesTold s (answerUnderCheck reason leaver w s) := by
  unfold answerUnderCheck
  split
  · exact told_answerWithheld _
  · exact .of_eq rfl

theorem told_abortCeremony (reason : AbortReason) (leaver : Option Cust) (w : CeremonyWork) :
    ConsolesTold s (abortCeremony reason leaver w s) := by
  have hclaims : ConsolesTold s (returnReservation .ceremony (abandonTarget w s)) := .of_eq (by
    unfold abandonTarget abandonSlot returnReservation
    (repeat' split) <;> rfl)
  have hwithdrawn : ∀ v : State, ConsolesTold v (withdrawJob ceremonyRequester v) := fun v => .of_eq (by rw [withdrawJob_frame])
  rw [abortCeremony_eq]
  exact ((hclaims.trans (told_answerUnderCheck reason leaver w)).trans (hwithdrawn _)).trans (told_finishCeremony ..)

/-! ### An abort apart from the consoles (R58) -/

theorem abandonTarget_abortedTo (reason : AbortReason) (w : CeremonyWork) (s : State) :
    abortedTo reason w s = { returnReservation .ceremony (abandonTarget w s) with
      ceremony :=
        { run := if jobPlace 8 s = JobPlace.running then .settling w.params.kind w.opener else .idle
          last := some { kind := w.params.kind, aborted := some reason, named := w.params.named } }
      engine := (withdrawJob 8 s).engine
      flags := s.flags ||| 0x400#12 } := by
  unfold abortedTo abandonTarget abandonSlot
  cases w.params with
  | assemble slot cls length count keySet => dsimp only; split <;> rfl
  | erase | openLine | enrol | revoke | unlock => rfl

theorem withdrawJob_engine (r : Fin 10) (h : t.engine = s.engine) : (withdrawJob r t).engine = (withdrawJob r s).engine := by
  unfold withdrawJob jobPlace
  rw [h]
  (repeat' split) <;> simp_all

theorem jobPlace_congr (r : Fin 10) (h : t.engine = s.engine) : jobPlace r t = jobPlace r s := by
  unfold jobPlace
  rw [h]

theorem answerUnderCheck_frame (reason : AbortReason) (leaver : Option Cust) (w : CeremonyWork) (s : State) :
    answerUnderCheck reason leaver w s = { s with consoles := (answerUnderCheck reason leaver w s).consoles } := by
  unfold answerUnderCheck
  split
  · exact answerWithheld_frame ..
  · rfl

/-- What an end of a ceremony writes apart from the consoles. -/
theorem finishCeremony_eq (w : CeremonyWork) (result : CeremonyResult) (run : CeremonyRun) (s : State) :
    finishCeremony w result run s = { s with
      ceremony :=
        { run := run
          last := some
            { kind := w.params.kind
              aborted := match result with | .completed => none | .aborted r => some r
              named := w.params.named } }
      consoles := (finishCeremony w result run s).consoles
      flags := s.flags ||| 0x400#12 } := by
  have hnotice : ∀ v n, (noticeAll n v).setFlag .ceremonyEnd =
      { v with consoles := (noticeAll n v).consoles, flags := v.flags ||| 0x400#12 } := fun v n => by
    rw [noticeAll_frame]
    rfl
  exact hnotice _ _

theorem abandonTarget_keeps (w : CeremonyWork) (s : State) : (abandonTarget w s).engine = s.engine
    ∧ (abandonTarget w s).flags = s.flags ∧ (abandonTarget w s).consoles = s.consoles := by
  unfold abandonTarget abandonSlot
  (repeat' split) <;> exact ⟨rfl, rfl, rfl⟩

theorem abortCeremony_abortedTo (reason : AbortReason) (leaver : Option Cust) (w : CeremonyWork) (s : State) :
    { abortCeremony reason leaver w s with consoles := s.consoles } = abortedTo reason w s := by
  obtain ⟨hengine, hflags, hconsoles⟩ := abandonTarget_keeps w s
  have hclaims : abortClaims reason leaver w s =
      { returnReservation .ceremony (abandonTarget w s) with consoles := (abortClaims reason leaver w s).consoles } :=
    answerUnderCheck_frame ..
  have hsame : (abortClaims reason leaver w s).engine = s.engine := by rw [hclaims]; exact hengine
  have hjob := withdrawJob_engine 8 hsame
  have hplace := jobPlace_congr 8 hsame
  rw [abortCeremony_eq, abandonTarget_abortedTo, finishCeremony_eq, withdrawJob_frame, runAfterAbort]
  have hrequester : ceremonyRequester = 8 := rfl
  rw [hrequester, hjob, hplace, hclaims, ← hflags, ← hconsoles]
  rfl

/-- The COMPONENT under check is answered at an abort. -/
theorem componentAnswered_abortCeremony {reason : AbortReason} {leaver : Option Cust} {w : CeremonyWork} {x : UnderCheck}
    (hx : w.underCheck = some x) :
    ComponentAnswered (abortedComponentStatus reason leaver x) x s (abortCeremony reason leaver w s) := by
  have hconsole : (returnReservation .ceremony (abandonTarget w s)).console x.link = s.console x.link :=
    congrArg (fun c : Tab Console 2 => c.get x.link) (abandonTarget_keeps w s).2.2
  have hclaims : abortClaims reason leaver w s =
      answerWithheld x.link (abortedComponentStatus reason leaver x) .nothing (returnReservation .ceremony (abandonTarget w s)) := by
    simp only [abortClaims, answerUnderCheck, hx]
  have hafter : ConsolesTold (abortClaims reason leaver w s) (abortCeremony reason leaver w s) := by
    rw [abortCeremony_eq]
    exact (ConsolesTold.of_eq (by rw [withdrawJob_frame])).trans (told_finishCeremony ..)
  intro hu
  obtain ⟨hanswered, hsent⟩ := answerWithheld_answers (abortedComponentStatus reason leaver x) (hconsole ▸ hu)
  rw [← hclaims] at hanswered hsent
  obtain ⟨-, hpresent, hunanswered, hanswers, -⟩ := hafter.console x.link
  refine ⟨Bool.eq_false_iff.2 fun h => ?_, fun hp => hanswers _ rfl (hsent (hpresent ▸ hp))⟩
  rw [hunanswered h] at hanswered
  cases hanswered

/-! ### The end of a logon (R30, R59) -/

theorem told_custodianLeft (c : Cust) : ConsolesTold s (custodianLeft c s) := by
  unfold custodianLeft
  split
  · split
    · exact told_abortCeremony ..
    · exact .of_eq rfl
  · exact .of_eq rfl

theorem custodianLeft_of_unbound {c : Cust} (h : ∀ w, s.ceremony.run = .work w → w.isBound c = false) : custodianLeft c s = s := by
  unfold custodianLeft
  split
  next w hw => rw [if_neg (by simp [h w hw])]
  next => rfl

theorem custodianLeft_of_bound {c : Cust} {w : CeremonyWork} (hw : s.ceremony.run = .work w) (hb : w.isBound c = true) :
    custodianLeft c s = abortCeremony .custodianLeft (some c) w s := by
  simp only [custodianLeft, hw, hb, if_true]

/-- The link with nobody logged on. -/
def withoutLogon (l : ConsoleLink) (s : State) : State := s.setConsole l { s.console l with logon := none }

theorem endLogon_of_loggedOn {c : Cust} (h : LoggedOn l c s) : endLogon l s = custodianLeft c (withoutLogon l s) := by
  obtain ⟨g, hg, rfl⟩ := Option.map_eq_some_iff.1 h
  simp only [endLogon, hg]
  rfl

theorem endLogon_of_none (h : (s.console l).logon = none) : endLogon l s = s := by
  simp only [endLogon, h]

theorem abortedTo_consoles (reason : AbortReason) (w : CeremonyWork) (c : Tab Console 2) (s : State) :
    { abortedTo reason w s with consoles := c } = abortedTo reason w { s with consoles := c } := by
  have hjob := withdrawJob_engine (s := s) (t := { s with consoles := c }) 8 rfl
  have hplace := jobPlace_congr (s := s) (t := { s with consoles := c }) 8 rfl
  unfold abortedTo
  rw [hjob, hplace]
  cases w.params with
  | assemble slot cls length count keySet =>
    have hslot : State.slot slot { s with consoles := c } = s.slot slot := rfl
    simp only [hslot]
    split <;> rfl
  | erase | openLine | enrol | revoke | unlock => rfl

/-- A logon ends on a state that differs from `s` at its own console alone: there the COMPONENT that was unanswered still is, or the
console has gone. -/
theorem custodianGone_endLogon {c : Cust} {v : State} (hv : { v with consoles := s.consoles } = s)
    (hother : ∀ k, k ≠ l → v.console k = s.console k) (hc : LoggedOn l c v)
    (hself : (s.console l).unanswered = true → (v.console l).unanswered = true
      ∨ (v.console l).unanswered = false ∧ (v.console l).present = false) : CustodianGone l c s (endLogon l v) := by
  have hleft : ConsolesTold (withoutLogon l v) (endLogon l v) := by rw [endLogon_of_loggedOn hc]; exact told_custodianLeft c
  have hlogon : (withoutLogon l v).console l = { v.console l with logon := none } := Tab.get_set_self ..
  have helse : ∀ k, k ≠ l → (withoutLogon l v).console k = s.console k := fun k hk =>
    (Tab.get_set_other _ _ _ _ (Ne.symm hk)).trans (hother k hk)
  have hrun : (withoutLogon l v).ceremony = s.ceremony := (congrArg State.ceremony hv :)
  have hframe : { withoutLogon l v with consoles := s.consoles } = s := hv
  rw [endLogon_of_loggedOn hc] at hleft ⊢
  refine ⟨?gone, fun k hk => ?others, ?table, fun hw => ?unbound, fun w hw hb => ?bound⟩
  case gone => rw [(hleft.console l).logon, hlogon]
  case others => rw [(hleft.console k).logon, helse k hk]
  case table =>
    rw [custodianLeft_frame]
    exact (congrArg (fun x : State => x.store.custodians) hv :)
  case unbound => rw [custodianLeft_of_unbound (hrun ▸ hw)]; exact hframe
  case bound =>
    rw [custodianLeft_of_bound (hrun ▸ hw) hb] at hleft ⊢
    refine ⟨?_, fun x hx => ?_⟩
    · have haborted := congrArg (fun y : State => { y with consoles := s.consoles })
        (abortCeremony_abortedTo .custodianLeft (some c) w (withoutLogon l v))
      rw [abortedTo_consoles, hframe] at haborted
      exact haborted
    · have hstatus : abortedComponentStatus .custodianLeft (some c) x = if x.who.cust = c then .notLoggedOn else .wrongState := by
        simp [abortedComponentStatus, eq_comm]
      intro hu
      have hanswered := componentAnswered_abortCeremony (s := withoutLogon l v) (reason := .custodianLeft) (leaver := some c) hx
      rw [hstatus] at hanswered
      by_cases hlink : x.link = l
      · subst hlink
        rcases hself hu with hunanswered | ⟨hdone, habsent⟩
        · refine hanswered ?_
          rw [hlogon]
          exact hunanswered
        · obtain ⟨-, hpresent, hstill, -, -⟩ := hleft.console x.link
          rw [hlogon] at hpresent hstill
          refine ⟨Bool.eq_false_iff.2 fun h => ?_, fun h => ?_⟩
          · rw [hdone] at hstill
            cases hstill h
          · rw [hpresent, habsent] at h
            cases h
      · refine hanswered ?_
        rw [helse _ hlink]
        exact hu

/-! ### The three ends of a logon (R29, R32, R33) -/

theorem loggedOn_heard {c : Cust} (h : LoggedOn l c s) : LoggedOn l c (heard l s) := who_heard.trans h

theorem exec_logoff {c : Cust} (hs : Listens l s) (hc : LoggedOn l c s) :
    exec (.logoff l) s = .next (endLogon l (told l 0x02 .ok .nothing (heard l s))) := by
  refine congrArg Host.Outcome.next ((consoleMessageFrom_of_loggedOn hs hc).trans ?_)
  rw [logoff, answer_of_present (heard_present hs.1)]

theorem exec_custodianIdleExpiry (hr : s.running = true) :
    exec (.custodianIdleExpiry l) s = .next (if (s.console l).idleDue then endLogon l s else s) :=
  congrArg Host.Outcome.next (if_pos hr)

/-- The link whose console has gone, with its logon still there. -/
def consoleGone (l : ConsoleLink) (s : State) : State :=
  s.setConsole l { s.console l with present := false, unanswered := false, rx := .idle, tx := [] }

theorem exec_consolePresentDeasserted (hr : s.running = true) (hp : (s.console l).present = true) :
    exec (.consolePresentDeasserted l) s = .next (endLogon l (consoleGone l s)) :=
  congrArg Host.Outcome.next ((if_neg (by simp [hp])).trans (if_neg (by simp [hr])))

theorem console_consoleGone : (consoleGone l s).console l =
    { s.console l with present := false, unanswered := false, rx := .idle, tx := [] } := Tab.get_set_self ..

theorem custodianGone_logoff {c : Cust} (hs : Listens l s) (hc : LoggedOn l c s) :
    ConsoleOut.answer 0x02 .ok .nothing ∈ ((endLogon l (told l 0x02 .ok .nothing (heard l s))).console l).tx
      ∧ CustodianGone l c s (endLogon l (told l 0x02 .ok .nothing (heard l s))) := by
  have hself : (told l 0x02 .ok .nothing (heard l s)).console l =
      { (heard l s).console l with tx := joinConsoleQueue ((heard l s).console l).tx (.answer 0x02 .ok .nothing) } := Tab.get_set_self ..
  have hon : LoggedOn l c (told l 0x02 .ok .nothing (heard l s)) := by
    rw [LoggedOn, hself]
    exact loggedOn_heard hc
  have hother : ∀ k, k ≠ l → (told l 0x02 .ok .nothing (heard l s)).console k = s.console k := fun k hk =>
    (Tab.get_set_other _ _ _ _ (Ne.symm hk)).trans (Tab.get_set_other _ _ _ _ (Ne.symm hk))
  have hquiet : (s.console l).unanswered ≠ true := by simp [hs.2]
  refine ⟨?_, custodianGone_endLogon rfl hother hon fun h => absurd h hquiet⟩
  rw [endLogon_of_loggedOn hon]
  refine ((told_custodianLeft c).console l).answers _ rfl ?_
  have hqueue : ((withoutLogon l (told l 0x02 .ok .nothing (heard l s))).console l).tx =
      joinConsoleQueue ((heard l s).console l).tx (.answer 0x02 .ok .nothing) := by
    rw [withoutLogon, State.console_setConsole, if_pos rfl, hself]
  rw [hqueue]
  exact mem_joinConsoleQueue_self ..

theorem custodianGone_departure {c : Cust} (hc : LoggedOn l c s) :
    (endLogon l (consoleGone l s)).console l =
        { present := false, logon := none, unanswered := false, rx := .idle, tx := [], sent := (s.console l).sent }
      ∧ CustodianGone l c s (endLogon l (consoleGone l s)) := by
  have hon : LoggedOn l c (consoleGone l s) := by
    rw [LoggedOn, console_consoleGone]
    exact hc
  have hother : ∀ k, k ≠ l → (consoleGone l s).console k = s.console k := fun k hk => Tab.get_set_other _ _ _ _ (Ne.symm hk)
  have hgone : (withoutLogon l (consoleGone l s)).console l =
      { present := false, logon := none, unanswered := false, rx := .idle, tx := [], sent := (s.console l).sent } := by
    rw [withoutLogon, State.console_setConsole, if_pos rfl, console_consoleGone]
  refine ⟨?_, custodianGone_endLogon rfl hother hon fun _ => .inr ?_⟩
  · rw [endLogon_of_loggedOn hon, ((told_custodianLeft c).console l).absent (by rw [hgone]) (by rw [hgone]), hgone]
  · rw [console_consoleGone]
    exact ⟨rfl, rfl⟩

end

end Sys2Proof.Machine

open Sys2Proof Sys2Proof.Machine Sys2Proof.Safety

/-- Settles O34: each end is `endLogon` on a state that differs from the one before at its own console alone. -/
theorem logonEnds : Obligations.LogonEnds := by
  intro l s
  refine ⟨fun c hc => ⟨fun hs => ?logoff, fun g hr hg => ⟨fun hdue => ?expiry, fun hdue => ?notDue⟩, fun hr hp => ?departure⟩, rfl,
    fun hr hp hn => ?empty, fun hr hn => ?noTimer⟩
  case logoff => exact ⟨_, exec_logoff hs hc, custodianGone_logoff hs hc⟩
  case expiry =>
    have hidle : (s.console l).idleDue = true := by simpa [Console.idleDue, hg, Timer.due] using hdue
    refine ⟨endLogon l s, ?_, custodianGone_endLogon rfl (fun _ _ => rfl) hc .inl⟩
    rw [exec_custodianIdleExpiry hr, if_pos hidle]
  case notDue =>
    have hidle : ¬(s.console l).idleDue = true := by simpa [Console.idleDue, hg, Timer.due] using hdue
    rw [exec_custodianIdleExpiry hr, if_neg hidle]
  case departure => exact ⟨_, exec_consolePresentDeasserted hr hp, custodianGone_departure hc⟩
  case empty =>
    rw [exec_consolePresentDeasserted hr hp, endLogon_of_none (by rw [console_consoleGone]; exact hn), consoleGone, ← hn]
  case noTimer => rw [exec_custodianIdleExpiry hr, if_neg (by simp [Console.idleDue, hn])]

end

section
/-! The OPENs (R42-R48; O35, O36): the conditions of each kind, and the ceremony that opens when they hold. -/

namespace Sys2Proof.Machine
open Sys2Proof.Safety

section
variable {s : State} {l : ConsoleLink} {who : Cust} {c : Instr} {kind : Byte} {params : CeremonyParams}

/-! ### An accepted OPEN (R42, R57) -/

theorem openedWork_eq (opener : Person) (params : CeremonyParams) (s : State) :
    openedWork opener params (windowLength s) = openedBy opener params s := by
  have haccept : ∀ g, openingAcceptance opener params g =
      if params.kind ≠ .assemble ∧ opener.group = g then some opener.cust else none := fun g => by
    unfold openingAcceptance
    by_cases hk : params.kind = .assemble <;> simp [hk]
  unfold openedWork openedBy
  rw [haccept, haccept]
  rfl

theorem windowLength_reserved (s : State) : windowLength (reserved .ceremony s) = windowLength s := by
  have hprofile : (reserved .ceremony s).profile = s.profile := by rw [State.profile, reserved_store_profile, State.profile]
  unfold windowLength
  rw [hprofile]

theorem console_reserved (h : ResHolder) (l : ConsoleLink) (s : State) : (reserved h s).console l = s.console l := by
  rw [State.console, reserved_consoles, State.console]

theorem startCeremony_eq {opener : Person} (hp : (s.console l).present = true) :
    startCeremony l opener params (reserved .ceremony s) = ceremonyOpened l opener params s := by
  have hpresent : ((reserved .ceremony s).console l).present = true := by rw [console_reserved]; exact hp
  unfold startCeremony ceremonyOpened
  dsimp only
  rw [windowLength_reserved, openedWork_eq]
  cases params with
  | assemble i cls length count keySet =>
    dsimp only
    rw [reserveSlot, reserved_slot, answer_of_present (by exact hpresent)]
  | erase | openLine | enrol | revoke | unlock => dsimp only; rw [answer_of_present (by exact hpresent)]

/-! ### An OPEN by what its kind's conditions say (R42) -/

theorem openingOf_heard (c : Instr) (p : Person) : openingOf c p (heard l s) = openingOf c p s := by
  cases c <;> rfl

section
variable (hc : consoleMessage? c = some (l, kind)) (ho : opens c = true) (hs : Listens l s) (hw : LoggedOn l who s)
  (hi : s.ceremony.run = .idle) (hz : s.line ≠ .zeroised)
include hc ho hs hw

theorem exec_opens :
    exec c s = .next (openCeremony l (personOf who s) (openingOf c (personOf who s) s) (heard l s)) := by
  obtain ⟨rfl, hn, hopen⟩ := personHandler_of_opens hc ho (personOf who s) (heard l s)
  rw [exec_person hc hn, consoleMessageFrom_of_loggedOn hs hw, hopen, openingOf_heard]

include hi hz

theorem exec_opens_refused {st : Status} (h : openingOf c (personOf who s) s = .refused st) :
    exec c s = .next (told l 0x04 st .nothing (heard l s)) := by
  rw [exec_opens hc ho hs hw, h, openCeremony_refused (s := heard l s) hi hz, answer_of_present (heard_present hs.1)]

theorem opensWith (h : openingOf c (personOf who s) s = .granted params) : OpensWith c l who params s := by
  have hpresent := heard_present hs.1
  refine ⟨fun hf => ?_, fun hf => ?_⟩
  · rw [exec_opens hc ho hs hw, h, openCeremony_full (s := heard l s) hi hz hf,
      answer_of_present (s := (heard l s).setFlag .journalHigh) hpresent]
    rfl
  · rw [exec_opens hc ho hs hw, h, openCeremony_granted (s := heard l s) hi hz hf, startCeremony_eq hpresent]

end

/-! ### ASSEMBLE (R12, R42, R43) -/

section
variable {slot cls length count : Nat} {keySet : Option Nat} {k : KeyClass} {i : SlotIx}

theorem keySetFits_iff : keySetFits k keySet = true ↔ (keySet ≠ none ↔ k = .baseDerivation) := by
  cases keySet <;> cases k <;> simp [keySetFits]

/-- The parameter check of an ASSEMBLE (R42). -/
theorem parametersFit_iff : ((length = 16 || length = 32) && (count = 2 || count = 3) && keySetFits k keySet) = true ↔
    (length = 16 ∨ length = 32) ∧ (count = 2 ∨ count = 3) ∧ (keySet ≠ none ↔ k = .baseDerivation) := by
  simp only [Bool.and_eq_true, Bool.or_eq_true, decide_eq_true_eq, keySetFits_iff, and_assoc]

theorem assembleOpening_of_noClass (h : classOf? cls = none) : assembleOpening slot cls length count keySet s = .refused .wrongState := by
  simp only [assembleOpening, h]

section
variable (hk : classOf? cls = some k)
include hk

theorem assembleOpening_of_badParameter
    (h : ¬((length = 16 ∨ length = 32) ∧ (count = 2 ∨ count = 3) ∧ (keySet ≠ none ↔ k = .baseDerivation)) ∨ s.line.takesKeys = false) :
    assembleOpening slot cls length count keySet s = .refused .wrongState := by
  simp only [assembleOpening, hk]
  split
  · rfl
  next hgood =>
    rw [Bool.not_eq_true', Bool.not_eq_false, parametersFit_iff] at hgood
    rw [h.resolve_left (not_not_intro hgood)]
    rfl

variable (hl : length = 16 ∨ length = 32) (hn : count = 2 ∨ count = 3) (hf : keySet ≠ none ↔ k = .baseDerivation)
  (hline : s.line.takesKeys = true)
include hl hn hf hline

theorem assembleOpening_of_refused {why : ReserveFailure} (h : reserveCheck slot (some k) s = .refused why) :
    assembleOpening slot cls length count keySet s = .refused why.toConsole := by
  simp only [assembleOpening, hk, parametersFit_iff.2 ⟨hl, hn, hf⟩, hline, h, Bool.not_true, Bool.false_eq_true, if_false]

theorem assembleOpening_of_granted (h : reserveCheck slot (some k) s = .granted i) :
    assembleOpening slot cls length count keySet s = .granted (.assemble i k length count keySet) := by
  simp only [assembleOpening, hk, parametersFit_iff.2 ⟨hl, hn, hf⟩, hline, h, Bool.not_true, Bool.false_eq_true, if_false]

end

end

/-! ### The other kinds (R44-R48) -/

theorem eraseOpening_of_noSlot {slot : Nat} (h : 64 ≤ slot) : eraseOpening slot s = .refused .notFound := by
  simp only [eraseOpening, slotIx_of_ge h]

/-- An ERASE takes a slot whose key is ACTIVE or EXHAUSTED. -/
theorem eraseOpening_of_slot (i : SlotIx) (s : State) : eraseOpening i.val s =
    if (s.slot i).content.held?.map Prod.fst ∈ [some .active, some .exhausted] then .granted (.erase i) else .refused .wrongState := by
  unfold eraseOpening
  rw [slotIx_of_val rfl]
  cases h : (s.slot i).content <;> simp [SlotContent.held?, h]

theorem openLineOpening_eq (s : State) :
    openLineOpening s = if s.line = .setup ∧ s.profile ≠ none then .granted .openLine else .refused .wrongState := by
  simp only [openLineOpening, Option.isSome_iff_ne_none]

section
variable {number group : Nat} {credential : List Byte} {cu : Cust} {e : CustEntry} {g : Group} {opener : Person}

theorem enrolOpening_of_noNumber (h : cust? number = none) : enrolOpening number group credential s = .refused .notFound := by
  simp only [enrolOpening, h]

theorem enrolOpening_of_taken (h : s.custodian cu ≠ none) : enrolOpening (cu.val + 1) group credential s = .refused .wrongState := by
  simp [enrolOpening, Option.isSome_iff_ne_none, h]

section
variable (hfree : s.custodian cu = none)
include hfree

theorem enrolOpening_of_noGroup (h : groupOf? group = none) : enrolOpening (cu.val + 1) group credential s = .refused .wrongState := by
  simp [enrolOpening, hfree, h]

theorem enrolOpening_of_free : enrolOpening (cu.val + 1) g.code credential s =
    if credentialValid credential then .granted (.enrol cu g (Config.digest credential)) else .refused .denied := by
  simp [enrolOpening, hfree]

end

theorem revokeOpening_of_noNumber (h : cust? number = none) : revokeOpening opener number s = .refused .notFound := by
  simp only [revokeOpening, h]

theorem revokeOpening_of_noEntry (h : s.custodian cu = none) : revokeOpening opener (cu.val + 1) s = .refused .notFound := by
  simp [revokeOpening, h]

theorem revokeOpening_of_entry (h : s.custodian cu = some e) : revokeOpening opener (cu.val + 1) s =
    if cu = opener.cust then .refused .wrongState
    else if groupHasOther e.group cu s then .granted (.revoke cu) else .refused .lastOfGroup := by
  simp [revokeOpening, h]

theorem groupHasOther_iff : groupHasOther g cu s = true ↔
    ∃ d f, d ≠ cu ∧ s.custodian d = some f ∧ f.group = g ∧ f.lock = .enrolled := by
  rw [groupHasOther, List.any_eq_true]
  refine ⟨fun ⟨d, _, hd⟩ => ?_, fun ⟨d, f, hne, hf, hg, hl⟩ => ⟨d, mem_allCustodians d, by simp [hne, hf, hg, hl]⟩⟩
  cases hf : s.custodian d with
  | none => simp [hf] at hd
  | some f =>
    simp only [hf, Bool.and_eq_true, bne_iff_ne, beq_iff_eq] at hd
    exact ⟨d, f, hd.1, hf, hd.2.1, hd.2.2⟩

theorem unlockOpening_of_noNumber (h : cust? number = none) : unlockOpening number s = .refused .notFound := by
  simp only [unlockOpening, h]

theorem unlockOpening_of_noEntry (h : s.custodian cu = none) : unlockOpening (cu.val + 1) s = .refused .notFound := by
  simp [unlockOpening, h]

theorem unlockOpening_of_entry (h : s.custodian cu = some e) :
    unlockOpening (cu.val + 1) s = if e.lock = .locked then .granted (.unlock cu) else .refused .wrongState := by
  simp [unlockOpening, h]

end

end

end Sys2Proof.Machine

open Sys2Proof Sys2Proof.Machine Sys2Proof.Safety

/-- Settles O35: the parameter check, the line and the Key Store's checks decide what `assembleOpening` gives. -/
theorem openAssembleReservesItsSlot : Obligations.OpenAssembleReservesItsSlot := by
  intro l who slot cls length count keySet s hs hw hi hz
  have hrefused {st : Status} (h : assembleOpening slot cls length count keySet s = .refused st) :=
    exec_opens_refused (c := .openAssemble l slot cls length count keySet) (st := st) rfl rfl hs hw hi hz h
  refine ⟨fun hbad => hrefused ?parameters, fun k hk hl hn hf hline => ?_⟩
  case parameters =>
    cases hk : classOf? cls with
    | none => exact assembleOpening_of_noClass hk
    | some k =>
      refine assembleOpening_of_badParameter hk ?_
      rcases hbad with h | ⟨h1, h2⟩ | ⟨h1, h2⟩ | ⟨c, hc, hfit⟩ | ⟨kept, hkept⟩
      · rw [hk] at h; cases h
      · exact .inl fun hgood => hgood.1.elim h1 h2
      · exact .inl fun hgood => hgood.2.1.elim h1 h2
      · rw [hk] at hc
        cases hc
        exact .inl fun hgood => hfit hgood.2.2
      · exact .inr (by rw [hkept]; rfl)
  have htakes : s.line.takesKeys = true := by
    cases hs : s.line with
    | zeroised => exact absurd hs hz
    | closing kept => exact absurd hs (hline kept)
    | setup | live | paused => rfl
  have hreserve {why : ReserveFailure} (h : reserveCheck slot (some k) s = .refused why) :=
    hrefused (assembleOpening_of_refused hk hl hn hf htakes h)
  refine ⟨fun hslot => hreserve (reserveCheck_of_noSlot hslot), fun i hslot => ⟨fun hbad => ?unfit, fun r hempty hr hwrite hadmits => ?_⟩⟩
  case unfit =>
    by_cases hempty : (s.slot i).content = .empty
    · cases hr : regionOf i s with
      | none => exact hreserve (reserveCheck_of_noRegion hslot hempty hr)
      | some r =>
        have hno : ¬(r.ceremonyWritable = true ∧ r.admits k = true) := by
          rcases hbad with h | h | ⟨r', hr', h⟩
          · exact absurd hempty h
          · rw [hr] at h; cases h
          · rw [hr] at hr'
            cases hr'
            exact h
        cases hwrite : r.ceremonyWritable with
        | false => exact hreserve (why := .notWritable) (reserveCheck_of_unwritable hslot hempty hr (by simp [writerFailure, hwrite]))
        | true =>
          have hadmits : r.admits k = false := by simpa [hwrite] using hno
          exact hreserve (why := .classNotHeld)
            (reserveCheck_of_unwritable hslot hempty hr (by simp [writerFailure, hwrite, hadmits]))
    · exact hreserve (reserveCheck_of_occupied hslot hempty)
  have hwritable := reserveCheck_of_writable (cls := some k) hslot hempty hr (by simp [writerFailure, hwrite, hadmits])
  refine ⟨fun hgen => hreserve (why := .spent) (hwritable.trans (if_neg (by omega))), fun hgen => ?full, fun hgen => ?opened⟩
  all_goals
    obtain ⟨hfull, hopened⟩ := opensWith (c := .openAssemble l slot cls length count keySet) rfl rfl hs hw hi hz
      (assembleOpening_of_granted hk hl hn hf htakes (hwritable.trans (if_pos hgen)))
  case full => exact hfull
  case opened => exact hopened

/-- Settles O36: each kind's conditions by the lemmas on its opening; what follows them is the same for every kind. -/
theorem openOtherKinds : Obligations.OpenOtherKinds := by
  intro l who s hs hw hi hz
  have hrefused (c : Instr) (st : Status) (hc : consoleMessage? c = some (l, 0x04)) (ho : opens c = true)
      (h : openingOf c (personOf who s) s = .refused st) := exec_opens_refused hc ho hs hw hi hz h
  have hopens (c : Instr) (params : CeremonyParams) (hc : consoleMessage? c = some (l, 0x04)) (ho : opens c = true)
      (h : openingOf c (personOf who s) s = .granted params) := opensWith hc ho hs hw hi hz h
  refine ⟨fun slot hslot => hrefused _ _ rfl rfl (eraseOpening_of_noSlot hslot), fun i => ⟨fun hh => ?erase, fun hh => ?noErase⟩,
    fun hl hp => ?openLine, fun hno => ?noLine, fun number group credential hn => ?noEnrol,
    fun cu group credential => ⟨fun hno => ?unfit, fun g hfree hg => ?enrol⟩, fun number hn => ?nobody, fun cu e he => ?entry⟩
  case erase => exact hopens _ _ rfl rfl ((eraseOpening_of_slot i s).trans (if_pos hh))
  case noErase => exact hrefused _ _ rfl rfl ((eraseOpening_of_slot i s).trans (if_neg hh))
  case openLine => exact hopens _ _ rfl rfl ((openLineOpening_eq s).trans (if_pos ⟨hl, hp⟩))
  case noLine => exact hrefused _ _ rfl rfl ((openLineOpening_eq s).trans (if_neg fun h => hno.elim (· h.1) h.2))
  case noEnrol => exact hrefused _ _ rfl rfl (enrolOpening_of_noNumber (cust?_eq_none hn))
  case unfit =>
    by_cases hfree : s.custodian cu = none
    · obtain ⟨hA, hB⟩ := hno.resolve_left (not_not_intro hfree)
      exact hrefused _ _ rfl rfl (enrolOpening_of_noGroup hfree (groupOf?_eq_none hA hB))
    · exact hrefused _ _ rfl rfl (enrolOpening_of_taken hfree)
  case enrol =>
    subst hg
    refine ⟨fun hbad => ?_, fun hmin hmax => ?_⟩
    · exact hrefused _ _ rfl rfl ((enrolOpening_of_free hfree).trans (if_neg (by rw [credentialValid_iff]; omega)))
    · exact hopens _ _ rfl rfl ((enrolOpening_of_free hfree).trans (if_pos (credentialValid_iff.2 ⟨hmin, hmax⟩)))
  case nobody =>
    have hnone : cust? number = none ∨ ∃ cu : Cust, number = cu.val + 1 ∧ s.custodian cu = none := by
      rcases hn with h | h | h
      · exact .inl (cust?_eq_none (.inl h))
      · exact .inl (cust?_eq_none (.inr h))
      · exact .inr h
    rcases hnone with hnumber | ⟨cu, rfl, hcu⟩
    · exact ⟨hrefused _ _ rfl rfl (revokeOpening_of_noNumber hnumber), hrefused _ _ rfl rfl (unlockOpening_of_noNumber hnumber)⟩
    · exact ⟨hrefused _ _ rfl rfl (revokeOpening_of_noEntry hcu), hrefused _ _ rfl rfl (unlockOpening_of_noEntry hcu)⟩
  case entry =>
    have hrevoke := revokeOpening_of_entry (opener := personOf who s) he
    have hunlock := unlockOpening_of_entry he
    refine ⟨fun hself => ?_, fun hother hlast => ?_, fun hother hsome => ?_, fun hlock => ?_, fun hlock => ?_⟩
    · exact hrefused _ _ rfl rfl (hrevoke.trans (if_pos hself))
    · have hnone : ¬groupHasOther e.group cu s = true := fun h => by
        obtain ⟨d, f, hd, hf, hg, hl⟩ := groupHasOther_iff.1 h
        rw [hlast d f hd hf hg] at hl
        cases hl
      exact hrefused _ _ rfl rfl (hrevoke.trans ((if_neg hother).trans (if_neg hnone)))
    · exact hopens _ _ rfl rfl (hrevoke.trans ((if_neg hother).trans (if_pos (groupHasOther_iff.2 hsome))))
    · exact hrefused _ _ rfl rfl (hunlock.trans (if_neg (by rw [hlock]; nofun)))
    · exact hopens _ _ rfl rfl (hunlock.trans (if_pos hlock))

end

section
/-! REJECT, CANCEL and the window (R55-R57; O43), and the COMPONENT of an ASSEMBLE (R49, R50; O37). -/

namespace Sys2Proof.Machine
open Sys2Proof.Safety

section
variable {s v : State} {l k : ConsoleLink} {who : Cust} {w : CeremonyWork} {reason : AbortReason} {leaver : Option Cust}

/-! ### An abort on a state that differs from `s` in its consoles -/

theorem abortCeremony_of_consoles (hv : { v with consoles := s.consoles } = s) :
    { abortCeremony reason leaver w v with consoles := s.consoles } = abortedTo reason w s := by
  have haborted := congrArg (fun y : State => { y with consoles := s.consoles }) (abortCeremony_abortedTo reason leaver w v)
  rw [abortedTo_consoles, hv] at haborted
  exact haborted

theorem mem_abortCeremony {a : ConsoleOut} (ha : a.isAnswer = true) (h : a ∈ (v.console l).tx) :
    a ∈ ((abortCeremony reason leaver w v).console l).tx :=
  ((told_abortCeremony (s := v) reason leaver w).console l).answers a ha h

/-- The answer just given stands in its link's queue. -/
theorem mem_told {kind : Byte} {st : Status} {body : AnswerBody} :
    ConsoleOut.answer kind st body ∈ ((told l kind st body s).console l).tx := by
  rw [told, State.console_setConsole, if_pos rfl]
  exact mem_joinConsoleQueue_self ..

theorem unanswered_told {kind : Byte} {st : Status} {body : AnswerBody} :
    ((told l kind st body (heard l s)).console k).unanswered = (s.console k).unanswered := by
  by_cases hk : l = k
  · subst hk
    rw [told, State.console_setConsole, if_pos rfl, heard_console_self]
  · rw [told, State.console_setConsole, if_neg hk, heard, State.console_setConsole, if_neg hk]

theorem abortedComponentStatus_of_other (x : UnderCheck) (h : reason ≠ .zeroised) :
    abortedComponentStatus reason none x = .wrongState := by
  rw [abortedComponentStatus, if_neg h, if_neg nofun]

/-- A COMPONENT under check is answered WRONG_STATE at an abort that is neither a departure nor a zeroise (R58). -/
theorem componentAnswered_of_unanswered {x : UnderCheck} (hx : w.underCheck = some x) (hr : reason ≠ .zeroised)
    (hv : (v.console x.link).unanswered = (s.console x.link).unanswered) :
    ComponentAnswered .wrongState x s (abortCeremony reason none w v) := fun hu => by
  have hanswered := componentAnswered_abortCeremony (s := v) (reason := reason) (leaver := none) hx
  rw [abortedComponentStatus_of_other x hr] at hanswered
  exact hanswered (hv.trans hu)

/-! ### REJECT, CANCEL and the window (R55, R56, R57) -/

theorem takesAcceptance_iff : w.takesAcceptance = true ↔ awaitsAcceptance w := by
  unfold CeremonyWork.takesAcceptance awaitsAcceptance
  cases w.phase <;> simp

section
variable (hs : Listens l s) (hc : LoggedOn l who s)
include hs hc

theorem exec_reject : exec (.reject l) s = .next (rejectCeremony l (heard l s)) :=
  congrArg Host.Outcome.next (consoleMessageFrom_of_loggedOn hs hc)

theorem exec_cancel : exec (.cancel l) s = .next (cancelCeremony l (personOf who s) (heard l s)) :=
  congrArg Host.Outcome.next (consoleMessageFrom_of_loggedOn hs hc)

theorem exec_component (value : KeyBytes) (check : Kcv) :
    exec (.component l value check) s = .next (giveComponent l (personOf who s) value check (heard l s)) :=
  congrArg Host.Outcome.next (consoleMessageFrom_of_loggedOn hs hc)

end

section
variable (hp : (s.console l).present = true)
include hp

theorem rejectCeremony_of_awaits (hw : s.ceremony.run = .work w) (ha : awaitsAcceptance w) :
    rejectCeremony l s = abortCeremony .rejected none w (told l 0x07 .ok .nothing s) := by
  simp only [rejectCeremony, hw, takesAcceptance_iff.2 ha, if_true, answer_of_present hp]

theorem rejectCeremony_of_not_awaits (h : ∀ w, s.ceremony.run = .work w → ¬awaitsAcceptance w) :
    rejectCeremony l s = told l 0x07 .wrongState .nothing s := by
  unfold rejectCeremony
  split
  next w hw => rw [if_neg (mt takesAcceptance_iff.1 (h w hw)), answer_of_present hp]
  next => exact answer_of_present hp

theorem cancelCeremony_of_opener {p : Person} (hw : s.ceremony.run = .work w) (ho : w.opener.cust = p.cust) (hd : w.phase ≠ .draining) :
    cancelCeremony l p s = abortCeremony .cancelled none w (told l 0x08 .ok .nothing s) := by
  simp only [cancelCeremony, hw, if_pos (And.intro ho hd), answer_of_present hp]

theorem cancelCeremony_of_other {p : Person} (h : ∀ w, s.ceremony.run = .work w → w.opener.cust ≠ p.cust ∨ w.phase = .draining) :
    cancelCeremony l p s = told l 0x08 .wrongState .nothing s := by
  unfold cancelCeremony
  split
  next w hw => rw [if_neg fun hx => (h w hw).elim (· hx.1) hx.2, answer_of_present hp]
  next => exact answer_of_present hp

end

theorem exec_windowExpiry (hr : s.running = true) : exec .windowExpiry s = .next (windowExpired s) :=
  congrArg Host.Outcome.next (if_pos hr)

theorem windowExpired_of_window {timer : Timer} (hw : s.ceremony.run = .work w) (ht : w.window = some timer) :
    windowExpired s = if timer.limit ≤ timer.count then abortCeremony .timeout none w s else s := by
  simp only [windowExpired, hw, CeremonyWork.windowDue, ht, Timer.due, decide_eq_true_eq]

theorem windowExpired_of_none (h : ∀ w, s.ceremony.run = .work w → w.window = none) : windowExpired s = s := by
  unfold windowExpired
  split
  next w hw => rw [if_neg (by simp [CeremonyWork.windowDue, h w hw])]
  next => rfl

/-! ### A bad entry (R49, R50) -/

theorem abortedTo_setCeremony (reason : AbortReason) (w : CeremonyWork) (run : CeremonyRun) (s : State) :
    abortedTo reason w (s.setCeremony run) = abortedTo reason w s := by
  have hjob := withdrawJob_engine (s := s) (t := s.setCeremony run) 8 rfl
  have hplace := jobPlace_congr (s := s) (t := s.setCeremony run) 8 rfl
  unfold abortedTo
  rw [hjob, hplace]
  cases w.params with
  | assemble slot cls length count keySet =>
    have hslot : State.slot slot (s.setCeremony run) = s.slot slot := rfl
    simp only [hslot]
    split <;> rfl
  | erase | openLine | enrol | revoke | unlock => rfl

/-- An abort looks at what the ceremony is for and at who opened it, and at nothing of its progress. -/
theorem abortedTo_congr (reason : AbortReason) {w' : CeremonyWork} (hp : w'.params = w.params) (ho : w'.opener = w.opener) (s : State) :
    abortedTo reason w' s = abortedTo reason w s := by
  unfold abortedTo
  rw [hp, ho]

/-- The work with one more bad entry. -/
def CeremonyWork.withBadEntry (w : CeremonyWork) : CeremonyWork := { w with underCheck := none, badEntries := w.badEntries + 1 }

theorem badEntry_of_few (h : w.badEntries + 1 < 3) :
    badEntry w s = noticeAll (openNotice w.withBadEntry .failed) (s.setCeremony (.work w.withBadEntry)) := if_pos h

theorem badEntry_of_third (h : 3 ≤ w.badEntries + 1) :
    badEntry w s = abortCeremony .tooManyBad none w.withBadEntry (s.setCeremony (.work w.withBadEntry)) := if_neg (by
      have hcount : w.withBadEntry.badEntries = w.badEntries + 1 := rfl
      exact Nat.not_lt.2 h)

theorem badEntry_abortedTo (hv : { v with consoles := s.consoles } = s) (h : 3 ≤ w.badEntries + 1) :
    { badEntry w v with consoles := s.consoles } = abortedTo .tooManyBad w s := by
  have hframe : { v.setCeremony (.work w.withBadEntry) with consoles := s.consoles } = s.setCeremony (.work w.withBadEntry) :=
    (congrArg (State.setCeremony (.work w.withBadEntry)) hv :)
  have haborted := abortCeremony_of_consoles (s := s.setCeremony (.work w.withBadEntry)) (reason := .tooManyBad) (leaver := none)
    (w := w.withBadEntry) hframe
  rw [badEntry_of_third h]
  rw [abortedTo_setCeremony, abortedTo_congr (w := w) (w' := w.withBadEntry) .tooManyBad rfl rfl] at haborted
  exact haborted

theorem told_setCeremony (run : CeremonyRun) : ConsolesTold s (s.setCeremony run) := .of_eq rfl

theorem told_badEntry : ConsolesTold s (badEntry w s) := by
  by_cases h : w.badEntries + 1 < 3
  · rw [badEntry_of_few h]
    exact (told_setCeremony _).trans (told_noticeAll _)
  · rw [badEntry_of_third (Nat.not_lt.1 h)]
    exact (told_setCeremony _).trans (told_abortCeremony ..)

/-! ### COMPONENT (R49) -/

section
variable {p : Person} {value : KeyBytes} {check : Kcv} {length count : Nat}

theorem coverageFails_iff (count : Nat) (held : List Component) (p : Person) :
    coverageFails count held p = true ↔ count - (held.length + 1) < groupsLacking held p := by
  have hcovers : ∀ g, covers held g = true ↔ ∃ x ∈ held, x.who.group = g := fun g => by simp [covers]
  have hlacks : ∀ g, (if covers held g || p.group == g then 0 else 1) =
      if p.group = g ∨ (∃ x ∈ held, x.who.group = g) then 0 else (1 : Nat) := fun g => by
    simp only [Bool.or_eq_true, hcovers, beq_iff_eq, or_comm]
  unfold coverageFails groupsLacking
  simp only [hlacks, decide_eq_true_eq]

theorem giveComponent_of_closed (hp : (s.console l).present = true)
    (h : ∀ w, s.ceremony.run = .work w → ¬(w.phase = .gathering ∧ w.params.kind = .assemble)) :
    giveComponent l p value check s = told l 0x05 .wrongState .nothing s := by
  unfold giveComponent
  split
  next w hw =>
    split
    next hphase hparams => exact absurd ⟨hphase, by rw [hparams]; rfl⟩ (h w hw)
    next => exact answer_of_present hp
  next => exact answer_of_present hp

theorem giveComponent_of_gathering {slot : SlotIx} {cls : KeyClass} {keySet : Option Nat} (hw : s.ceremony.run = .work w)
    (hphase : w.phase = .gathering) (hparams : w.params = .assemble slot cls length count keySet) :
    giveComponent l p value check s = componentChecked l p value check length count w s := by
  simp only [giveComponent, hw, hphase, hparams]

theorem contributed_iff : (w.held.any fun c => c.who.cust == p.cust) = true ↔ ∃ x ∈ w.held, x.who.cust = p.cust := by simp

theorem componentChecked_of_busy (h : w.underCheck ≠ none) :
    componentChecked l p value check length count w s = answer l 0x05 .busy .nothing s :=
  if_pos (Option.isSome_iff_ne_none.2 h)

theorem componentChecked_of_free (h : w.underCheck = none) : componentChecked l p value check length count w s =
    if w.held.any fun c => c.who.cust == p.cust then answer l 0x05 .alreadyContributed .nothing s
    else if coverageFails count w.held p then answer l 0x05 .sameGroup .nothing s
    else if value.length ≠ length then badEntry w (answer l 0x05 .badCheck .nothing s)
    else takeComponent l p value check w s := if_neg (by simp [h])

theorem takeComponent_eq : takeComponent l p value check w s =
    { ((s.setConsole l { s.console l with unanswered := true }).setCeremony
        (.work { w with underCheck := some { who := p, value := value, check := check, link := l } })) with
      engine := requested 8 (.checkComponent value check) s.engine } := requestJob_eq ..

/-- With nothing under check, a bad entry only counts. -/
theorem withBadEntry_of_free (h : w.underCheck = none) : w.withBadEntry = { w with badEntries := w.badEntries + 1 } := by
  rw [CeremonyWork.withBadEntry, ← h]

end

end

end Sys2Proof.Machine

open Sys2Proof Sys2Proof.Machine Sys2Proof.Safety

/-- Settles O43: each is an abort of the open ceremony, after the answer that its message gets. -/
theorem rejectCancelAndWindow : Obligations.RejectCancelAndWindow := by
  intro s
  refine ⟨fun l who hs hc => ⟨fun w hw ha => ?reject, fun hno => ?noReject, fun w hw ho hd => ?cancel, fun hno => ?noCancel⟩,
    fun hr => ⟨fun w timer hw ht => ?window, fun hno => ?noWindow⟩⟩
  case reject =>
    rw [exec_reject hs hc, rejectCeremony_of_awaits (s := heard l s) (heard_present hs.1) hw ha]
    exact ⟨_, rfl, abortCeremony_of_consoles rfl, mem_abortCeremony rfl mem_told⟩
  case noReject => rw [exec_reject hs hc, rejectCeremony_of_not_awaits (s := heard l s) (heard_present hs.1) hno]
  case cancel =>
    rw [exec_cancel hs hc, cancelCeremony_of_opener (s := heard l s) (heard_present hs.1) hw ho hd]
    exact ⟨_, rfl, abortCeremony_of_consoles rfl, mem_abortCeremony rfl mem_told,
      fun x hx => componentAnswered_of_unanswered hx nofun unanswered_told⟩
  case noCancel => rw [exec_cancel hs hc, cancelCeremony_of_other (s := heard l s) (p := personOf who s) (heard_present hs.1) hno]
  case window =>
    rw [exec_windowExpiry hr, windowExpired_of_window hw ht]
    refine ⟨fun hdue => ?_, fun hdue => by rw [if_neg (by omega)]⟩
    rw [if_pos hdue]
    exact ⟨_, rfl, abortCeremony_of_consoles rfl, fun x hx => componentAnswered_of_unanswered hx nofun rfl⟩
  case noWindow => rw [exec_windowExpiry hr, windowExpired_of_none hno]

/-- Settles O37: the checks of R49 in their order; the third bad entry is an abort, and a good one waits for its job. -/
theorem componentGoesUnderCheck : Obligations.ComponentGoesUnderCheck := by
  intro l who value check s hs hc
  have hpresent := heard_present hs.1
  rw [exec_component hs hc]
  refine ⟨fun hno => ?closed, fun w slot cls length count keySet hw hphase hparams => ?_⟩
  case closed => rw [giveComponent_of_closed (s := heard l s) hpresent hno]
  rw [giveComponent_of_gathering (s := heard l s) hw hphase hparams]
  refine ⟨fun hbusy => ?busy, fun hfree => ?_⟩
  case busy => rw [componentChecked_of_busy hbusy, answer_of_present hpresent]
  rw [componentChecked_of_free hfree]
  refine ⟨fun hgave => ?contributed, fun hnew => ?_⟩
  case contributed => rw [if_pos (contributed_iff.2 hgave), answer_of_present hpresent]
  rw [if_neg fun h => by obtain ⟨x, hx, he⟩ := contributed_iff.1 h; exact hnew x hx he]
  refine ⟨fun hlacks => ?sameGroup, fun hcovers => ?_⟩
  case sameGroup => rw [if_pos ((coverageFails_iff ..).2 hlacks), answer_of_present hpresent]
  rw [if_neg (mt (coverageFails_iff ..).1 (Nat.not_lt.2 hcovers))]
  refine ⟨fun hlength hfew => ?bad, fun hlength hthird => ?third, fun hlength => ?taken⟩
  case bad =>
    rw [if_pos hlength, answer_of_present hpresent, badEntry_of_few hfew, withBadEntry_of_free hfree]
  case third =>
    rw [if_pos hlength, answer_of_present hpresent]
    exact ⟨_, rfl, badEntry_abortedTo rfl hthird, (told_badEntry.console l).answers _ rfl mem_told⟩
  case taken => rw [if_neg (not_not_intro hlength), takeComponent_eq]; rfl

end

section
/-! The completions of the ceremony's jobs: CHECK_COMPONENT_DONE and COMBINE_DONE (R50, R51, R60, R138, R141, R142; O38, O39). -/

namespace Sys2Proof.Machine
open Sys2Proof.Safety

section
variable {s t v : State} {job : Job} {w : CeremonyWork} {x : UnderCheck} {value : KeyBytes} {check : Kcv} {slot : SlotIx}
  {cls : KeyClass} {length count : Nat} {keySet : Option Nat}

/-! ### The combined key (R138, R142) -/

theorem beNat_injective {a b : List Byte} (hl : a.length = b.length) (h : beNat a = beNat b) : a = b := by
  rw [← beBytes_beNat a, ← beBytes_beNat b, hl, h]

/-- Components of one length in the order of their values: the order does not depend on how they were held. -/
theorem sortKeys_dedup_eq {l m : List KeyBytes} {n : Nat} (hl : ∀ k ∈ l, k.length = n) (h : ∀ k, k ∈ l ↔ k ∈ m) :
    sortKeys l.dedup = sortKeys m.dedup := by
  have hperm : (sortKeys l.dedup).Perm (sortKeys m.dedup) :=
    (sortKeys_perm _).trans (((List.perm_ext_iff_of_nodup l.nodup_dedup m.nodup_dedup).2 fun k => by simpa using h k).trans
      (sortKeys_perm _).symm)
  refine hperm.eq_of_pairwise (fun a b ha hb hab hba => ?_) (sortKeys_sorted _) (sortKeys_sorted _)
  have hmem : ∀ k ∈ sortKeys l.dedup, k.length = n := fun k hk => hl k (List.mem_dedup.1 ((sortKeys_perm _).mem_iff.1 hk))
  exact beNat_injective ((hmem a ha).trans (hmem b (hperm.mem_iff.2 hb)).symm) (le_antisymm hab hba)

theorem headD_length {l : List KeyBytes} {n : Nat} (hne : l ≠ []) (hl : ∀ k ∈ l, k.length = n) : (l.head?.getD []).length = n := by
  cases l with
  | nil => exact absurd rfl hne
  | cons k rest => exact hl k (List.mem_cons_self ..)

/-- The combined key is a function of the set of components, and as long as they are. -/
theorem combineKeys_of_same {l m : List KeyBytes} {n : Nat} (hne : l ≠ []) (hl : ∀ k ∈ l, k.length = n) (h : ∀ k, k ∈ l ↔ k ∈ m) :
    combineKeys l = combineKeys m ∧ (combineKeys l).length = n := by
  have hm : ∀ k ∈ m, k.length = n := fun k hk => hl k ((h k).2 hk)
  have hne' : m ≠ [] := by
    obtain ⟨k, hk⟩ := List.exists_mem_of_ne_nil l hne
    exact List.ne_nil_of_mem ((h k).1 hk)
  unfold combineKeys
  rw [headD_length hne hl, headD_length hne' hm, sortKeys_dedup_eq hl h]
  exact ⟨rfl, by rw [List.length_map, List.length_range]⟩

/-! ### Orphaned jobs (R60) -/

theorem settleCeremony_jobTaken {kind : CeremonyKind} {opener : Person} (h : s.ceremony.run = .settling kind opener) :
    settleCeremony (jobTaken s) = orphanSettled kind opener s := by
  have hrun : (jobTaken s).ceremony.run = .settling kind opener := h
  unfold settleCeremony
  rw [hrun]
  rfl

theorem checkComponentHandled_orphaned (h : job.orphaned = true) : checkComponentHandled job s = settleCeremony s := if_pos h

theorem combineHandled_orphaned (h : job.orphaned = true) : combineHandled job s = settleCeremony s := if_pos h

theorem exec_checkComponentDone (hr : s.running = true) (hj : s.engine.running = some job)
    (hjob : job.inputs = .checkComponent value check) :
    exec .checkComponentDone s = .next (grantNext (checkComponentHandled job (jobTaken s))) :=
  congrArg Host.Outcome.next (completeJob_of_running hr hj (by rw [hjob]; rfl))

theorem exec_combineDone {components : List KeyBytes} (hr : s.running = true) (hj : s.engine.running = some job)
    (hjob : job.inputs = .combine components) :
    exec .combineDone s = .next (grantNext (combineHandled job (jobTaken s))) :=
  congrArg Host.Outcome.next (completeJob_of_running hr hj (by rw [hjob]; rfl))

/-! ### The check of a component (R50, R141) -/

section
variable (ho : job.orphaned = false) (hz : job.zeroised = false)
include ho hz

theorem combineHandled_of_work {components : List KeyBytes} (hjob : job.inputs = .combine components)
    (hw : s.ceremony.run = .work w) (hp : w.phase = .combining) :
    combineHandled job s =
      noticeAll (openNotice { w with
          phase := .verifying, held := []
          combined := some { key := combineKeys components, kcv := Config.kcv (combineKeys components) } } .combined)
        (s.setCeremony (.work { w with
          phase := .verifying, held := []
          combined := some { key := combineKeys components, kcv := Config.kcv (combineKeys components) } })) := by
  simp only [combineHandled, ho, hz, hw, hp, hjob, Bool.false_eq_true, if_false]

theorem checkComponentHandled_of_work (hjob : job.inputs = .checkComponent value check) (hw : s.ceremony.run = .work w)
    (hx : w.underCheck = some x) (hp : w.params = .assemble slot cls length count keySet) :
    checkComponentHandled job s =
      if Config.kcv value = check then componentPassed x count w s else badEntry w (answerWithheld x.link .badCheck .nothing s) := by
  simp only [checkComponentHandled, ho, hz, hw, hx, hp, hjob, Bool.false_eq_true, if_false]

end

theorem answerWithheld_of_present {l : ConsoleLink} {st : Status} {body : AnswerBody} (hu : (s.console l).unanswered = true)
    (hp : (s.console l).present = true) :
    answerWithheld l st body s = told l 0x05 st body (s.setConsole l { s.console l with unanswered := false }) := by
  rw [answerWithheld, if_pos hu, answer_of_present]
  rw [State.console_setConsole, if_pos rfl]
  exact hp

theorem loggedOn_congr (h : ∀ l, (t.console l).logon = (s.console l).logon) (c : Cust) : loggedOn c t = loggedOn c s := by
  simp only [loggedOn, h]

/-- The work once the component under check has joined those held. -/
def CeremonyWork.withHeld (w : CeremonyWork) (x : UnderCheck) : CeremonyWork :=
  { w with underCheck := none, held := w.held ++ [{ who := x.who, value := x.value }] }

/-- The work once the last component is held: the combination begins, and the contributors who are logged on are bound. -/
def CeremonyWork.withAllHeld (w : CeremonyWork) (x : UnderCheck) (s : State) : CeremonyWork :=
  { w.withHeld x with
    phase := .combining
    bound := ((w.withHeld x).held.map fun c => c.who.cust).filter fun c => loggedOn c s }

theorem componentPassed_of_few (h : (w.withHeld x).held.length < count) :
    componentPassed x count w s =
      noticeAll (openNotice (w.withHeld x) .passed)
        ((answerWithheld x.link .ok (.component (w.withHeld x).held.length (count - (w.withHeld x).held.length)) s).setCeremony
          (.work (w.withHeld x))) := if_pos h

theorem componentPassed_of_last (h : count ≤ (w.withHeld x).held.length) :
    componentPassed x count w s =
      noticeAll (openNotice (w.withAllHeld x (answerWithheld x.link .ok
          (.component (w.withHeld x).held.length (count - (w.withHeld x).held.length)) s)) .lastPassed)
        (joinPending ceremonyRequester (.combine ((w.withHeld x).held.map Component.value))
          ((answerWithheld x.link .ok (.component (w.withHeld x).held.length (count - (w.withHeld x).held.length)) s).setCeremony
            (.work (w.withAllHeld x (answerWithheld x.link .ok
              (.component (w.withHeld x).held.length (count - (w.withHeld x).held.length)) s))))) := if_neg (Nat.not_lt.2 h)

/-- The withheld answer reaches a console that is there, and changes no logon. -/
theorem logon_answered {l : ConsoleLink} {st : Status} {body : AnswerBody} (k : ConsoleLink) :
    ((told l 0x05 st body (s.setConsole l { s.console l with unanswered := false })).console k).logon = (s.console k).logon := by
  by_cases hk : l = k
  · subst hk
    rw [told, State.console_setConsole, if_pos rfl, State.console_setConsole, if_pos rfl]
  · rw [told, State.console_setConsole, if_neg hk, State.console_setConsole, if_neg hk]

theorem withAllHeld_congr (h : ∀ l, (t.console l).logon = (s.console l).logon) : w.withAllHeld x t = w.withAllHeld x s := by
  simp only [CeremonyWork.withAllHeld, loggedOn_congr h]

/-! ### The third bad entry (R50, R58) -/

theorem jobPlace_jobTaken (r : Fin 10) (s : State) : jobPlace r (jobTaken s) ≠ .running := by
  unfold jobPlace
  split
  · nofun
  · nofun

/-- An abort that comes with the completion of its job leaves the context IDLE, and the store as any abort does. -/
theorem abortedTo_jobTaken (reason : AbortReason) (w : CeremonyWork) (s : State) :
    (abortedTo reason w (jobTaken s)).ceremony =
        { run := .idle, last := some { kind := w.params.kind, aborted := some reason, named := w.params.named } }
      ∧ (abortedTo reason w (jobTaken s)).store = (abortedTo reason w s).store
      ∧ (abortedTo reason w (jobTaken s)).flags.getLsbD 10 = true := by
  refine ⟨?_, ?_, ?_⟩
  · rw [abandonTarget_abortedTo, if_neg (jobPlace_jobTaken 8 s)]
  · unfold abortedTo
    cases w.params with
    | assemble slot cls length count keySet =>
      have hslot : (jobTaken s).slot slot = s.slot slot := rfl
      simp only [hslot]
      split <;> rfl
    | erase | openLine | enrol | revoke | unlock => rfl
  · rw [abandonTarget_abortedTo]
    simp

end

end Sys2Proof.Machine

open Sys2Proof Sys2Proof.Machine Sys2Proof.Safety

/-- Settles O38: an orphaned job settles the ceremony; otherwise the component joins those held or is a bad entry, and the answer that
was withheld for it is given. -/
theorem checkComponentDoneJudges : Obligations.CheckComponentDoneJudges := by
  intro s job value check hr hj hjob
  rw [exec_checkComponentDone hr hj hjob]
  refine ⟨fun kind opener ho hw => ?orphan, fun w x slot cls length count keySet ho hz hw hx hp hu hpresent => ?_⟩
  case orphan => rw [checkComponentHandled_orphaned ho, settleCeremony_jobTaken hw]
  rw [checkComponentHandled_of_work (s := jobTaken s) ho hz hjob hw hx hp]
  have hanswer (st : Status) (body : AnswerBody) := answerWithheld_of_present (s := jobTaken s) (st := st) (body := body) hu hpresent
  refine ⟨fun hmatch hfew => ?few, fun hmatch hall => ?last, fun hno hfew => ?bad, fun hno hthird => ?third⟩
  case few => rw [if_pos hmatch, componentPassed_of_few hfew, hanswer]; rfl
  case last =>
    rw [if_pos hmatch, componentPassed_of_last hall, hanswer, withAllHeld_congr logon_answered]
    rfl
  case bad => rw [if_neg hno, badEntry_of_few hfew, hanswer]; rfl
  case third =>
    obtain ⟨hceremony, hstore, hflag⟩ := abortedTo_jobTaken .tooManyBad w s
    rw [if_neg hno, hanswer]
    have haborted := badEntry_abortedTo (s := jobTaken s)
      (v := told x.link 0x05 .badCheck .nothing ((jobTaken s).setConsole x.link { (jobTaken s).console x.link with unanswered := false }))
      rfl hthird
    have htold := (told_badEntry (w := w) (s := told x.link 0x05 .badCheck .nothing
      ((jobTaken s).setConsole x.link { (jobTaken s).console x.link with unanswered := false }))).console x.link
    rw [hp] at hceremony
    refine ⟨_, rfl, ?_, ?_, ?_, ?_⟩
    · rw [grantNext_frame]
      exact htold.answers _ rfl mem_told
    · rw [grantNext_frame]
      exact (congrArg State.ceremony haborted :).trans hceremony
    · rw [grantNext_frame]
      exact (congrArg State.store haborted :).trans hstore
    · rw [grantNext_frame]
      exact (congrArg (fun y : State => y.flags.getLsbD 10) haborted :).trans hflag

/-- Settles O39: an orphaned job settles the ceremony; otherwise the combined key is shown by its KCV. -/
theorem combineDoneShowsTheKcv : Obligations.CombineDoneShowsTheKcv := by
  refine ⟨fun s job components hr hj hjob => ?_, fun l m n hne hl h => combineKeys_of_same hne hl h⟩
  rw [exec_combineDone hr hj hjob]
  refine ⟨fun kind opener ho hw => ?orphan, fun w ho hz hw hp => ?work⟩
  case orphan => rw [combineHandled_orphaned ho, settleCeremony_jobTaken hw]
  case work => rw [combineHandled_of_work (s := jobTaken s) ho hz hjob hw hp]

end

section
/-! ACCEPT (R16, R17, R35, R52-R54; O40-O42): its checks, the acceptance that is held, and the six completions. -/

namespace Sys2Proof.Machine
open Sys2Proof.Safety

section
variable {s t v : State} {l k : ConsoleLink} {who other cu : Cust} {w : CeremonyWork} {p : Person} {pair : Pair} {slot : SlotIx}

/-! ### The checks (R52) -/

theorem exec_accept (hs : Listens l s) (hc : LoggedOn l who s) :
    exec (.accept l) s = .next (acceptCeremony l (personOf who s) (heard l s)) :=
  congrArg Host.Outcome.next (consoleMessageFrom_of_loggedOn hs hc)

theorem accepted_iff : w.accepted cu = true ↔ w.acceptA = some cu ∨ w.acceptB = some cu := by
  simp [CeremonyWork.accepted]

theorem acceptRefusal_of_not_awaits (h : ¬awaitsAcceptance w) : acceptRefusal p w s = some .wrongState :=
  if_pos (by rw [Bool.not_eq_true', ← Bool.not_eq_true]; exact mt takesAcceptance_iff.1 h)

section
variable (ha : awaitsAcceptance w)
include ha

theorem acceptRefusal_of_awaits : acceptRefusal p w s =
    if w.accepted p.cust then some .alreadyContributed
    else if (w.acceptanceOf p.group).isSome then some .sameGroup
    else revokeAcceptRefusal p w.params s := if_neg (by simp [takesAcceptance_iff.2 ha])

theorem acceptRefusal_of_accepted (h : w.acceptA = some p.cust ∨ w.acceptB = some p.cust) :
    acceptRefusal p w s = some .alreadyContributed := by
  rw [acceptRefusal_of_awaits ha, if_pos (accepted_iff.2 h)]

section
variable (hA : w.acceptA ≠ some p.cust) (hB : w.acceptB ≠ some p.cust)
include hA hB

theorem acceptRefusal_of_new : acceptRefusal p w s =
    if (w.acceptanceOf p.group).isSome then some .sameGroup else revokeAcceptRefusal p w.params s := by
  rw [acceptRefusal_of_awaits ha, if_neg fun h => (accepted_iff.1 h).elim hA hB]

theorem acceptRefusal_of_sameGroup (h : w.acceptanceOf p.group ≠ none) : acceptRefusal p w s = some .sameGroup := by
  rw [acceptRefusal_of_new ha hA hB, if_pos (Option.isSome_iff_ne_none.2 h)]

theorem acceptRefusal_of_lacking (h : w.acceptanceOf p.group = none) : acceptRefusal p w s = revokeAcceptRefusal p w.params s := by
  rw [acceptRefusal_of_new ha hA hB, if_neg (by simp [h])]

end

end

theorem revokeAcceptRefusal_of_other {params : CeremonyParams} (h : ∀ c, params ≠ .revoke c) : revokeAcceptRefusal p params s = none := by
  cases params with
  | revoke c => exact absurd rfl (h c)
  | assemble | erase | openLine | enrol | unlock => rfl

theorem revokeAcceptRefusal_of_self : revokeAcceptRefusal p (.revoke p.cust) s = some .wrongState := if_pos rfl

theorem revokeAcceptRefusal_of_last (hc : cu ≠ p.cust)
    (h : ∀ d f, d ≠ cu → s.custodian d = some f → f.group = (personOf cu s).group → f.lock = .locked) :
    revokeAcceptRefusal p (.revoke cu) s = some .lastOfGroup := by
  have hnone : ¬groupHasOther (personOf cu s).group cu s = true := fun ho => by
    obtain ⟨d, f, hd, hf, hg, hl⟩ := groupHasOther_iff.1 ho
    rw [h d f hd hf hg] at hl
    cases hl
  exact (if_neg (Ne.symm hc)).trans (if_neg hnone)

theorem revokeAcceptRefusal_of_more (hc : cu ≠ p.cust)
    (h : ∃ d f, d ≠ cu ∧ s.custodian d = some f ∧ f.group = (personOf cu s).group ∧ f.lock = .enrolled) :
    revokeAcceptRefusal p (.revoke cu) s = none := (if_neg (Ne.symm hc)).trans (if_pos (groupHasOther_iff.2 h))

/-! ### The acceptance (R52, R53) -/

theorem acceptCeremony_of_closed (h : ∀ w, s.ceremony.run ≠ .work w) : acceptCeremony l p s = answer l 0x06 .wrongState .nothing s := by
  unfold acceptCeremony
  split
  next w hw => exact absurd hw (h w)
  next => rfl

section
variable (hw : s.ceremony.run = .work w)
include hw

theorem acceptCeremony_of_refused {st : Status} (h : acceptRefusal p w s = some st) :
    acceptCeremony l p s = answer l 0x06 st .nothing s := by
  simp only [acceptCeremony, hw, h]

theorem acceptCeremony_of_held (h : acceptRefusal p w s = none) (ha : (w.withAcceptance p).approvers = none) :
    acceptCeremony l p s =
      noticeAll (openNotice (w.withAcceptance p) .acceptanceHeld)
        ((answer l 0x06 .ok .nothing s).setCeremony (.work (w.withAcceptance p))) := by
  simp only [acceptCeremony, hw, h, ha]

theorem acceptCeremony_of_complete (h : acceptRefusal p w s = none) (ha : (w.withAcceptance p).approvers = some pair) :
    acceptCeremony l p s = completeCeremony (w.withAcceptance p) pair (answer l 0x06 .ok .nothing s) := by
  simp only [acceptCeremony, hw, h, ha]

end

@[simp] theorem combined_withAcceptance (p : Person) (w : CeremonyWork) : (w.withAcceptance p).combined = w.combined := by
  unfold CeremonyWork.withAcceptance
  cases p.group <;> rfl

/-- The first acceptance is held alone. -/
theorem approvers_of_first (hA : w.acceptA = none) (hB : w.acceptB = none) : (w.withAcceptance p).approvers = none := by
  unfold CeremonyWork.withAcceptance CeremonyWork.approvers
  cases p.group <;> simp [hA, hB]

/-- The other group's acceptance and the sender's are the two that approve. -/
theorem approvers_of_second (h : w.acceptanceOf (otherGroup p.group) = some other) :
    (w.withAcceptance p).approvers = some (approvedBy p other) := by
  revert h
  unfold CeremonyWork.withAcceptance CeremonyWork.approvers approvedBy CeremonyWork.acceptanceOf
  cases p.group <;> (intro h; simp only [otherGroup] at h; simp [h])

/-! ### The completions, apart from the consoles (R13, R16, R17, R35, R53, R54) -/

/-- A completion on a state that differs from `s` in its consoles. -/
theorem finishCeremony_completed (w : CeremonyWork) (c : Tab Console 2) (v : State) :
    { finishCeremony w .completed .idle v with consoles := c } = { v with
      ceremony := { run := .idle, last := some { kind := w.params.kind, aborted := none, named := w.params.named } }
      consoles := c, flags := v.flags ||| 0x400#12 } := by
  rw [finishCeremony_eq]

theorem completeCeremony_of_enrol {g : Group} {digest : Digest} (hp : w.params = .enrol cu g digest) :
    completeCeremony w pair v = finishCeremony w .completed .idle
      (changeCustodian .enrol cu pair (some { group := g, digest := digest, lock := .enrolled, fails := 0 }) v) := by
  simp only [completeCeremony, hp]

theorem completeCeremony_of_unlock {e : CustEntry} (hp : w.params = .unlock cu) (he : v.custodian cu = some e) :
    completeCeremony w pair v = finishCeremony w .completed .idle
      (changeCustodian .unlock cu pair (some { e with lock := .enrolled, fails := 0 }) v) := by
  simp only [completeCeremony, hp, he, Option.map_some]

section
variable (hv : { v with consoles := s.consoles } = s)
include hv

theorem completeCeremony_assemble {cls : KeyClass} {length count : Nat} {keySet : Option Nat} {combined : CombinedKey} {use : KeyUse}
    (hp : w.params = .assemble slot cls length count keySet) (hcombined : w.combined = some combined)
    (huse : newKeyUse cls keySet = some use) (hslot : (s.slot slot).content = .assembling .ceremony) :
    { completeCeremony w pair v with consoles := s.consoles } =
      (completedWith (.keyInstalled slot ((s.slot slot).generation + 1) cls combined.kcv (.ceremony pair)) w.params s).setSlot slot
        { s.slot slot with
          content := .active { use := use, length := length, material := combined.key, kcv := combined.kcv }
          generation := (s.slot slot).generation + 1 } := by
  have hsame : v.slot slot = s.slot slot := (congrArg (State.slot slot) hv :)
  have hcls : use.cls = cls := by
    revert huse
    cases cls <;> cases keySet <;> simp only [newKeyUse, Option.some.injEq, reduceCtorEq, false_implies] <;> rintro rfl <;> rfl
  have hinstalled : completeCeremony w pair v = finishCeremony w .completed .idle
      (writeRecord .ceremony (.keyInstalled slot ((s.slot slot).generation + 1) cls combined.kcv (.ceremony pair))
        (v.setSlot slot { s.slot slot with
          content := .active { use := use, length := length, material := combined.key, kcv := combined.kcv }
          generation := (s.slot slot).generation + 1 })) := by
    simp only [completeCeremony, hp, installAssembled, huse, hcombined, installKey, hsame, hslot, if_true, hcls]
  rw [hinstalled, finishCeremony_completed, ← hv]
  rfl

theorem completeCeremony_erased (hp : w.params = .erase slot) (ha : w.approvers = some pair) (hu : (s.slot slot).inUse = 0) :
    { completeCeremony w pair v with consoles := s.consoles } =
      (completedWith (.keyErased slot (s.slot slot).generation pair) w.params s).setSlot slot { s.slot slot with content := .empty } := by
  have hsame : v.slot slot = s.slot slot := (congrArg (State.slot slot) hv :)
  have herased : completeCeremony w pair v = finishCeremony w .completed .idle
      (writeRecord .ceremony (.keyErased slot (s.slot slot).generation pair)
        ((v.setCeremony (.work w)).setSlot slot { s.slot slot with content := .empty })) := by
    have hslot : (v.setCeremony (.work w)).slot slot = s.slot slot := hsame
    have hrun : (v.setCeremony (.work w)).ceremony.run = .work w := rfl
    simp only [completeCeremony, hp, approveErase, hsame, hu, if_true, completeErasure, hslot, hrun, ha]
  rw [herased, finishCeremony_completed, ← hv]
  rfl

theorem completeCeremony_draining {key : HeldKey} (hp : w.params = .erase slot) (hu : (s.slot slot).inUse ≠ 0)
    (hk : (s.slot slot).content.key? = some key) :
    { completeCeremony w pair v with consoles := s.consoles } =
      (s.setSlot slot { s.slot slot with content := .erasing key }).setCeremony (.work { w with phase := .draining, window := none }) := by
  have hsame : v.slot slot = s.slot slot := (congrArg (State.slot slot) hv :)
  have hdraining : completeCeremony w pair v = noticeAll (openNotice { w with phase := .draining, window := none } .drainBegun)
      ((v.setSlot slot { s.slot slot with content := .erasing key }).setCeremony (.work { w with phase := .draining, window := none })) := by
    simp only [completeCeremony, hp, approveErase, hsame, hu, if_false, hk]
  rw [hdraining, noticeAll_frame, ← hv]
  rfl

theorem completeCeremony_openLine (hp : w.params = .openLine) (hl : s.line = .setup) :
    { completeCeremony w pair v with consoles := s.consoles } =
      { completedWith (.lineOpened pair) w.params s with line := .live, stream := none, flags := s.flags ||| 0x600#12 } := by
  have hline : (writeRecord .ceremony (.lineOpened pair) v).line ≠ .live := by
    have hsame : (writeRecord .ceremony (.lineOpened pair) v).line = s.line := (congrArg State.line hv :)
    rw [hsame, hl]
    nofun
  have hopened : completeCeremony w pair v = finishCeremony w .completed .idle
      { setLine .live (writeRecord .ceremony (.lineOpened pair) v) with stream := none } := by
    simp only [completeCeremony, hp]
  have hflags : v.flags ||| 0x200#12 ||| 0x400#12 = s.flags ||| 0x600#12 := by
    have hsame : v.flags = s.flags := (congrArg State.flags hv :)
    rw [hsame, BitVec.or_assoc]
    rfl
  rw [hopened, finishCeremony_completed, setLine_of_ne hline, ← hflags, ← hv]
  rfl

theorem completeCeremony_changed {action : CustodianAction} {entry : Option CustEntry}
    (h : completeCeremony w pair v = finishCeremony w .completed .idle (changeCustodian action cu pair entry v)) :
    { completeCeremony w pair v with consoles := s.consoles } =
      (completedWith (.custodianChanged action cu pair) w.params s).setCustodian cu entry := by
  rw [h, finishCeremony_completed, ← hv]
  rfl

end

/-! ### The completions, at the consoles -/

theorem told_changeCustodian (action : CustodianAction) (c : Cust) (pair : Pair) (x : Option CustEntry) :
    ConsolesTold s (changeCustodian action c pair x s) := .of_eq rfl

theorem told_completeErasure : ConsolesTold s (completeErasure slot s) := by
  unfold completeErasure
  dsimp only
  split
  · split
    · refine ConsolesTold.trans (.of_eq ?_) (told_finishCeremony ..)
      rfl
    · exact .of_eq rfl
  · exact .of_eq rfl

/-- The completion of an ASSEMBLE or an ERASE only tells the consoles things. -/
theorem told_completeCeremony (h : w.params.kind = .assemble ∨ w.params.kind = .erase) : ConsolesTold s (completeCeremony w pair s) := by
  unfold completeCeremony
  cases hp : w.params with
  | assemble slot cls length count keySet =>
    refine ConsolesTold.trans (.of_eq ?_) (told_finishCeremony ..)
    unfold installAssembled
    split
    · rw [installKey_frame]
    · rfl
  | erase slot =>
    unfold approveErase
    dsimp only
    split
    · exact (told_setCeremony _).trans told_completeErasure
    · refine ConsolesTold.trans (.of_eq ?_) (told_noticeAll _)
      split <;> rfl
  | openLine | enrol | revoke | unlock => rw [hp] at h; rcases h with h | h <;> cases h

theorem changed_answers {action : CustodianAction} {entry : Option CustEntry} {a : ConsoleOut}
    (h : completeCeremony w pair v = finishCeremony w .completed .idle (changeCustodian action cu pair entry v))
    (ha : a.isAnswer = true) (hm : a ∈ (v.console l).tx) : a ∈ ((completeCeremony w pair v).console l).tx := by
  rw [h]
  exact (((told_changeCustodian action cu pair entry).trans (told_finishCeremony ..)).console l).answers a ha hm

theorem opened_answers {a : ConsoleOut} (hp : w.params = .openLine) (ha : a.isAnswer = true) (hm : a ∈ (v.console l).tx) :
    a ∈ ((completeCeremony w pair v).console l).tx := by
  have hconsoles : ConsolesTold v { setLine .live (writeRecord .ceremony (.lineOpened pair) v) with stream := none } := .of_eq (by
    unfold setLine
    split <;> rfl)
  simp only [completeCeremony, hp]
  exact ((hconsoles.trans (told_finishCeremony ..)).console l).answers a ha hm

/-- An answer leaves every logon with its custodian. -/
theorem who_told {kind : Byte} {st : Status} {body : AnswerBody} :
    ((told l kind st body (heard l s)).console k).logon.map Logon.who = (s.console k).logon.map Logon.who := by
  refine Eq.trans ?_ (who_heard (l := l))
  by_cases hk : l = k
  · subst hk
    rw [told, State.console_setConsole, if_pos rfl]
  · rw [told, State.console_setConsole, if_neg hk]

/-! ### The logons of a revoked custodian (R35) -/

/-- From `s` to `t`, logons have ended and nothing else: the queues hold the answers they held. -/
structure LogonsEnded (s t : State) : Prop where
  frame : t = { s with consoles := t.consoles }
  answers : ∀ l a, a.isAnswer = true → a ∈ (s.console l).tx → a ∈ (t.console l).tx

theorem LogonsEnded.refl (s : State) : LogonsEnded s s := ⟨rfl, fun _ _ _ => id⟩

theorem LogonsEnded.trans {u : State} (h : LogonsEnded s t) (g : LogonsEnded t u) : LogonsEnded s u where
  frame := g.frame.trans (congrArg (fun x : State => { x with consoles := u.consoles }) h.frame :)
  answers l a ha hm := g.answers l a ha (h.answers l a ha hm)

theorem logonsEnded_withoutLogon (l : ConsoleLink) (s : State) : LogonsEnded s (withoutLogon l s) where
  frame := rfl
  answers k a _ hm := by
    rw [withoutLogon, State.console_setConsole]
    split
    next hk => subst hk; exact hm
    next => exact hm

/-- With no ceremony open nobody is bound to one. -/
theorem logonsEnded_endLogonIf (hr : ∀ w, s.ceremony.run ≠ .work w) (c : Cust) (l : ConsoleLink) : LogonsEnded s (endLogonIf c l s) := by
  unfold endLogonIf
  split
  next hc =>
    rw [endLogon_of_loggedOn hc, custodianLeft_of_unbound (s := withoutLogon l s) fun w hw => absurd hw (hr w)]
    exact logonsEnded_withoutLogon l s
  next => exact .refl s

theorem logonsEnded_endLogonsOf (hr : ∀ w, s.ceremony.run ≠ .work w) (c : Cust) : LogonsEnded s (endLogonsOf c s) := by
  have hfirst := logonsEnded_endLogonIf hr c 0
  have hrun : (endLogonIf c 0 s).ceremony = s.ceremony := by rw [hfirst.frame]
  rw [endLogonsOf_eq]
  exact hfirst.trans (logonsEnded_endLogonIf (hrun ▸ hr) c 1)

section
variable (hp : w.params = .revoke cu)
include hp

theorem completeCeremony_of_revoke : completeCeremony w pair v =
    endLogonsOf cu (finishCeremony w .completed .idle (changeCustodian .revoke cu pair none v)) := by
  simp only [completeCeremony, hp]

theorem logonsEnded_revoke : LogonsEnded (finishCeremony w .completed .idle (changeCustodian .revoke cu pair none v))
    (completeCeremony w pair v) := by
  rw [completeCeremony_of_revoke hp]
  refine logonsEnded_endLogonsOf (fun x hx => ?_) cu
  rw [run_finishCeremony] at hx
  cases hx

theorem revoked_answers {a : ConsoleOut} (ha : a.isAnswer = true) (h : a ∈ (v.console l).tx) :
    a ∈ ((completeCeremony w pair v).console l).tx :=
  (logonsEnded_revoke hp).answers l a ha
    ((((told_changeCustodian .revoke cu pair none).trans (told_finishCeremony ..)).console l).answers a ha h)

/-- The revoked custodian is logged on nowhere, while the part runs. -/
theorem not_loggedOn_revoked (hr : v.running = true) (k : ConsoleLink) : ¬LoggedOn k cu (completeCeremony w pair v) := by
  have hrunning : (completeCeremony w pair v).running = true := by
    have hended := (logonsEnded_revoke (pair := pair) (v := v) hp).frame
    rw [finishCeremony_eq] at hended
    exact (congrArg State.running hended :).trans hr
  rw [completeCeremony_of_revoke hp] at hrunning ⊢
  exact not_loggedOn_endLogonsOf hrunning k

theorem completeCeremony_revoke (hv : { v with consoles := s.consoles } = s) : { completeCeremony w pair v with consoles := s.consoles } =
    (completedWith (.custodianChanged .revoke cu pair) w.params s).setCustodian cu none := by
  have hended := (logonsEnded_revoke (pair := pair) (v := v) hp).frame
  have hframe := (congrArg (fun x : State => { x with consoles := s.consoles }) hended :)
  refine hframe.trans ?_
  dsimp only
  rw [finishCeremony_eq, ← hv]
  rfl

end

end

end Sys2Proof.Machine

open Sys2Proof Sys2Proof.Machine Sys2Proof.Safety

/-- Settles O40: the checks of R52 in their order, and an acceptance that is the first is held. -/
theorem acceptChecksAndHolds : Obligations.AcceptChecksAndHolds := by
  intro l who s hs hc
  have hpresent := heard_present hs.1
  rw [exec_accept hs hc]
  have hrefused (w : CeremonyWork) (st : Status) (hw : s.ceremony.run = .work w)
      (h : acceptRefusal (personOf who s) w s = some st) :
      (.next (acceptCeremony l (personOf who s) (heard l s)) : Host.Outcome State Fault Refusal) =
        .next (told l 0x06 st .nothing (heard l s)) := by
    rw [acceptCeremony_of_refused (s := heard l s) hw h, answer_of_present hpresent]
  refine ⟨fun hno => ?closed, fun w hw ha => ⟨fun hold => ?contributed, fun hA hB => ⟨fun hgroup => ?sameGroup, fun hlacks => ?_⟩⟩⟩
  case closed =>
    cases hrun : s.ceremony.run with
    | work w => exact hrefused w _ hrun (acceptRefusal_of_not_awaits (hno w hrun))
    | idle | settling =>
      have hclosed : ∀ w, (heard l s).ceremony.run ≠ .work w := fun w h => by
        have hwork : s.ceremony.run = .work w := h
        rw [hrun] at hwork
        cases hwork
      rw [acceptCeremony_of_closed hclosed, answer_of_present hpresent]
  case contributed => exact hrefused w _ hw (acceptRefusal_of_accepted ha hold)
  case sameGroup => exact hrefused w _ hw (acceptRefusal_of_sameGroup ha hA hB hgroup)
  have hrevoke := acceptRefusal_of_lacking (s := s) (p := personOf who s) ha hA hB hlacks
  refine ⟨fun hself => ?self, fun c hp hne hlast => ?last, fun hp hA' hB' => ?held⟩
  case self =>
    rw [hself] at hrevoke
    exact hrefused w .wrongState hw (hrevoke.trans revokeAcceptRefusal_of_self)
  case last =>
    rw [hp] at hrevoke
    exact hrefused w .lastOfGroup hw (hrevoke.trans (revokeAcceptRefusal_of_last hne hlast))
  case held =>
    have hnone : acceptRefusal (personOf who s) w (heard l s) = none := hrevoke.trans (revokeAcceptRefusal_of_other hp)
    rw [acceptCeremony_of_held (s := heard l s) hw hnone (approvers_of_first hA' hB'), answer_of_present hpresent]

/-- Settles O41: with both acceptances held the ceremony completes, and what it writes apart from the consoles is the row of R53 or R54
for its kind. -/
theorem acceptCompletesKeyCeremonies : Obligations.AcceptCompletesKeyCeremonies := by
  intro l who other s w hs hc hw ha hA hB hlacks hother hkind
  have hpair := approvers_of_second (p := personOf who s) hother
  have hkept := params_withAcceptance (personOf who s) w
  have hnone : acceptRefusal (personOf who s) w (heard l s) = none :=
    (acceptRefusal_of_lacking ha hA hB hlacks).trans
      (revokeAcceptRefusal_of_other fun c hp => by rw [hp] at hkind; rcases hkind with h | h <;> cases h)
  have hcomplete := acceptCeremony_of_complete (l := l) (s := heard l s) hw hnone hpair
  rw [answer_of_present (heard_present hs.1)] at hcomplete
  rw [exec_accept hs hc, hcomplete]
  have hv : { told l 0x06 .ok .nothing (heard l s) with consoles := s.consoles } = s := rfl
  have hanswer := mem_told (l := l) (kind := 0x06) (st := .ok) (body := .nothing) (s := heard l s)
  have hwho := fun k => who_told (l := l) (k := k) (kind := 0x06) (st := .ok) (body := .nothing) (s := s)
  generalize told l 0x06 .ok .nothing (heard l s) = v at *
  have htold := told_completeCeremony (s := v) (pair := approvedBy (personOf who s) other) (hkept.symm ▸ hkind)
  refine ⟨_, rfl, (htold.console l).answers _ rfl hanswer, fun k => ?logon,
    fun slot cls length count keySet combined use hp hcombined huse hslot => ?assemble, fun slot hp hu => ?erased,
    fun slot key hp hu hk => ?draining⟩
  case logon => rw [(htold.console k).logon, hwho]
  case assemble =>
    rw [completeCeremony_assemble hv (hkept.trans hp) ((combined_withAcceptance ..).trans hcombined) huse hslot, hkept]
  case erased => rw [completeCeremony_erased hv (hkept.trans hp) hpair hu, hkept]
  case draining => exact completeCeremony_draining hv (hkept.trans hp) hu hk

/-- Settles O42: the same completion for the other kinds; a revocation also ends the logons of the custodian revoked. -/
theorem acceptCompletesOtherCeremonies : Obligations.AcceptCompletesOtherCeremonies := by
  intro l who other s w hs hc hw ha hA hB hlacks hother
  have hpair := approvers_of_second (p := personOf who s) hother
  have hkept := params_withAcceptance (personOf who s) w
  have hcomplete (hnone : revokeAcceptRefusal (personOf who s) w.params s = none) :=
    acceptCeremony_of_complete (l := l) (s := heard l s) hw ((acceptRefusal_of_lacking ha hA hB hlacks).trans hnone) hpair
  rw [answer_of_present (heard_present hs.1)] at hcomplete
  refine ⟨_, exec_accept hs hc, fun hp hl => ?openLine, fun c g digest hp => ?enrol, fun c e hp he => ?unlock,
    fun c d f hp hne hd hf hg hl => ?revoke⟩
  all_goals
    have hv : { told l 0x06 .ok .nothing (heard l s) with consoles := s.consoles } = s := rfl
    have hanswer := mem_told (l := l) (kind := 0x06) (st := .ok) (body := .nothing) (s := heard l s)
    have hruns : (told l 0x06 .ok .nothing (heard l s)).running = true := hs.1.1
  case openLine =>
    rw [hcomplete (revokeAcceptRefusal_of_other (by rw [hp]; nofun))]
    generalize told l 0x06 .ok .nothing (heard l s) = v at *
    refine ⟨opened_answers (hkept.trans hp) rfl hanswer, ?_⟩
    rw [completeCeremony_openLine hv (hkept.trans hp) hl, hkept]
  case enrol =>
    rw [hcomplete (revokeAcceptRefusal_of_other (by rw [hp]; nofun))]
    generalize told l 0x06 .ok .nothing (heard l s) = v at *
    have hchanged := completeCeremony_of_enrol (v := v) (pair := approvedBy (personOf who s) other) (hkept.trans hp)
    refine ⟨changed_answers hchanged rfl hanswer, ?_⟩
    rw [completeCeremony_changed hv hchanged, hkept]
  case unlock =>
    rw [hcomplete (revokeAcceptRefusal_of_other (by rw [hp]; nofun))]
    generalize told l 0x06 .ok .nothing (heard l s) = v at *
    have hentry : v.custodian c = some e := (congrArg (State.custodian c) hv).trans he
    have hchanged := completeCeremony_of_unlock (pair := approvedBy (personOf who s) other) (hkept.trans hp) hentry
    refine ⟨changed_answers hchanged rfl hanswer, ?_⟩
    rw [completeCeremony_changed hv hchanged, hkept]
  case revoke =>
    rw [hcomplete (by rw [hp]; exact revokeAcceptRefusal_of_more hne ⟨d, f, hd, hf, hg, hl⟩)]
    generalize told l 0x06 .ok .nothing (heard l s) = v at *
    refine ⟨revoked_answers (hkept.trans hp) rfl hanswer, ?_, fun k => not_loggedOn_revoked (hkept.trans hp) hruns k⟩
    rw [completeCeremony_revoke (hkept.trans hp) hv, hkept]

end

section
/-! What a bench message meets (R150, R151, R170, R199-R201; O46), and HELLO (R115, R117, R118, R154-R157; O47). -/

namespace Sys2Proof.Machine
open Sys2Proof.Safety

section
variable {s u v : State} {p : Port} {c : Instr} {serial : Serial} {model : ModelCode} {e : Entry} {i : RegIx} {r : Recipe} {st : Status}

/-! ### A message in a context that does not take it (R151) -/

theorem refusal_eq (c : PortContext) : c.refusal = untakenCode c := by
  cases c with
  | draining reason mark => cases mark <;> rfl
  | off | vacant | attached | identified | preparing | offered | finished => rfl

theorem untakenCode_restarted (t : Timer) (c : PortContext) : untakenCode (restarted t c) = untakenCode c := by
  cases c <;> rfl

theorem takenIn_restarted (c : Instr) (t : Timer) (x : PortContext) : takenIn c (restarted t x) = takenIn c x := by
  cases c <;> cases x <;> rfl

theorem hello_of_untaken (ht : takenIn (.hello p serial model) (s.ctx p) = false) :
    hello p serial model s = verdict p (s.ctx p).refusal s := by
  unfold hello
  split
  next hx => simp [hx, takenIn] at ht
  next => rfl

theorem fetchStep_of_untaken {index : Nat} (ht : takenIn (.fetch p index) (s.ctx p) = false) :
    fetchStep p index s = verdict p (s.ctx p).refusal s := by
  unfold fetchStep
  split
  next hx => simp [hx, takenIn] at ht
  next => rfl

theorem confirm_of_untaken {index : Nat} {kcv : Kcv} (ht : takenIn (.confirm p index kcv) (s.ctx p) = false) :
    confirm p index kcv s = verdict p (s.ctx p).refusal s := by
  unfold confirm
  split
  next hx _ => simp [hx, takenIn] at ht
  next => rfl

theorem bye_of_untaken (ht : takenIn (.bye p) (s.ctx p) = false) : bye p s = verdict p (s.ctx p).refusal s := by
  unfold bye
  split
  next hx => simp [hx, takenIn, inSession] at ht
  next hx => simp [hx, takenIn, inSession] at ht
  next hx => simp [hx, takenIn, inSession] at ht
  next => rfl

/-- The kinds that a context takes are those whose handler looks at it and finds its own state. -/
theorem benchHandler_untaken (hc : benchMessage? c = some p) (hbad : c ≠ .benchBadMessage p) (ht : takenIn c (s.ctx p) = false) :
    benchHandler c s = verdict p (untakenCode (s.ctx p)) s := by
  rw [← refusal_eq]
  cases c <;> simp only [benchMessage?, reduceCtorEq, Option.some.injEq] at hc <;> subst hc
  case benchBadMessage => exact absurd rfl hbad
  case hello => exact hello_of_untaken ht
  case fetch => exact fetchStep_of_untaken ht
  case confirm => exact confirm_of_untaken ht
  case bye => exact bye_of_untaken ht

theorem exec_bench_hears (hc : benchMessage? c = some p) (hs : Hears p s) : exec c s = .next (benchHandler c (heardAt p s)) := by
  rw [exec_bench hc, benchMessage_of_hears hs]

/-! ### HELLO before the registry (R154, R155) -/

theorem helloRefused_of_present (hp : (s.bench p).present = true) : helloRefused p st s = refusedTerminal p st s := by
  rw [helloRefused, verdict_of_present hp, refusedTerminal]

theorem hello_of_attached (ha : s.ctx p = .attached) : hello p serial model s = helloTaken p serial model s := by
  simp only [hello, ha]

theorem helloTaken_of_paused (hl : s.line = .paused) : helloTaken p serial model s = verdict p .paused s := by
  simp only [helloTaken, hl]

theorem helloTaken_of_closed (hlive : s.line ≠ .live) (hpaused : s.line ≠ .paused) :
    helloTaken p serial model s = verdict p .notLive s := by
  cases hl : s.line with
  | live => exact absurd hl hlive
  | paused => exact absurd hl hpaused
  | setup | closing | zeroised => simp only [helloTaken, hl]

section
variable (hl : s.line = .live)
include hl

theorem helloTaken_of_badSerial (hv : serialValid serial = false) :
    helloTaken p serial model s = helloRefused p .unknownTerminal s := by
  simp only [helloTaken, hl, hv, Bool.false_eq_true, if_false]

theorem helloTaken_of_live (hv : serialValid serial = true) : helloTaken p serial model s = helloFound p serial model s := by
  simp only [helloTaken, hl, hv, if_true]

end

/-! ### What the registry hands a HELLO (R117) -/

/-- What a HELLO without a session is told of its terminal. -/
theorem helloFound_of_refused {code : Status} (h : (findForHello serial model s = (.complete, v) ∧ code = .alreadyComplete)
    ∨ (findForHello serial model s = (.rejected, v) ∧ code = .rejectedTerminal)
    ∨ (findForHello serial model s = (.absent, v) ∧ code = .unknownTerminal)
    ∨ (findForHello serial model s = (.noRecipe, v) ∧ code = .modelMismatch)
    ∨ (findForHello serial model s = (.rowFull, v) ∧ code = .registryFull)) :
    helloFound p serial model s = helloRefused p code v := by
  rcases h with ⟨h, rfl⟩ | ⟨h, rfl⟩ | ⟨h, rfl⟩ | ⟨h, rfl⟩ | ⟨h, rfl⟩ <;> simp only [helloFound, h]

section
variable (he : entryOf s.registry serial = some e)
include he

theorem helloFound_of_bound (hb : e.boundPort.isSome = true) :
    helloFound p serial model s = helloRefused p .duplicateSerial (s.setFlag .duplicateSerial) := by
  obtain ⟨q, hq⟩ := Option.isSome_iff_exists.1 hb
  simp only [helloFound, findForHello, he, hq]

theorem findForHello_of_unbound (hb : e.boundPort = none) : findForHello serial model s =
    (if e.state = .complete then .complete else if e.state = .rejected then .rejected else .entry e, s) := by
  cases hs : e.state <;> simp [findForHello, he, hb, hs]

end

section
variable (he : entryOf s.registry serial = none)
include he

theorem findForHello_of_closedPolicy (h : ∀ pr, s.profile = some pr → pr.params.policy = .manifestOnly) :
    findForHello serial model s = (.absent, s) := by
  cases hp : s.profile with
  | none => simp [findForHello, he, hp]
  | some pr => simp [findForHello, he, hp, h pr hp]

section
variable {pr : Profile} (hp : s.profile = some pr) (ho : pr.params.policy = .openPolicy)
include hp ho

theorem findForHello_of_noRecipe (hr : recipeForModel model s = none) : findForHello serial model s = (.noRecipe, s) := by
  simp [findForHello, he, hp, ho, hr]

theorem findForHello_of_rowFull (hr : recipeForModel model s = some r)
    (hi : insertEntry (newEntry serial .discovered (some r.number)) s.registry = none) :
    findForHello serial model s = (.rowFull, s) := by
  simp [findForHello, he, hp, ho, hr, hi]

theorem findForHello_of_inserted {ins : Inserted} (hr : recipeForModel model s = some r)
    (hi : insertEntry (newEntry serial .discovered (some r.number)) s.registry = some ins) :
    findForHello serial model s = (.entry (newEntry serial .discovered (some r.number)), s.setRegistry ins.registry) := by
  simp [findForHello, he, hp, ho, hr, hi]

end

end

/-! ### The recipe and the binding (R118, R156, R157) -/

theorem recipeAllowed_iff {n : Fin 16} : recipeAllowed p n s = true ↔ allowedAt p n s := by
  unfold recipeAllowed allowedAt
  cases s.profile <;> simp

theorem resolveRecipe_of_none (h : resolvedRecipe e model s = none) :
    resolveRecipe e model s = .refused (if e.recipe = none then .modelMismatch else .recipeNotAllowed) := by
  unfold resolvedRecipe at h
  unfold resolveRecipe
  cases hn : e.recipe <;> rw [hn] at h <;> simp_all

theorem resolveRecipe_of_some (h : resolvedRecipe e model s = some r) : resolveRecipe e model s = .recipe r := by
  unfold resolvedRecipe at h
  unfold resolveRecipe
  cases hn : e.recipe <;> rw [hn] at h <;> simp_all

theorem checkRecipe_of_some (h : resolvedRecipe e model s = some r) : checkRecipe p e model s =
    if !recipeAllowed p r.number s then .refused .recipeNotAllowed
    else if r.model ≠ model then .refused .modelMismatch
    else if e.state = .expected ∨ e.version = some r.version then .recipe r
    else .refused .recipeChanged := by
  simp only [checkRecipe, resolveRecipe_of_some h]

theorem holdsEveryStep_iff {d : BitVec 12} {count : Nat} : holdsEveryStep d count = true ↔ ∀ k, k < count → d.getLsbD k = true := by
  simp [holdsEveryStep, missingSteps, List.filter_eq_nil_iff]

section
variable (hf : findForHello serial model s = (.entry e, v))
include hf

theorem helloFound_of_unfit (h : checkRecipe p e model v = .refused st) : helloFound p serial model s = helloRefused p st v := by
  simp only [helloFound, hf, h]

theorem helloFound_of_fit (h : checkRecipe p e model v = .recipe r) : helloFound p serial model s = bindSession p e r v := by
  simp only [helloFound, hf, h]

end

section
variable (hplaced : RegistryPlaced s) (he : s.registry.get i = some e) (hp : (s.bench p).present = true)
include hplaced he hp

theorem bindSession_of_complete (h : ∀ k, k < r.steps.length → e.delivered.getLsbD k = true) :
    bindSession p e r s = refusedTerminal p .alreadyComplete
      (s.setRegistry (s.registry.set i (some { e with state := .complete, unboundSince := none }))) := by
  have hentry : modifyEntry e.serial Entry.completedAtBind s.registry = s.registry.set i (some e.completedAtBind) :=
    modifyEntry_of_placed hplaced he rfl
  simp only [bindSession, holdsEveryStep_iff.2 h, if_true, hentry]
  exact helloRefused_of_present hp

theorem bindSession_of_missing (h : ∃ k, k < r.steps.length ∧ e.delivered.getLsbD k = false) :
    bindSession p e r s = sentTo p
      (.welcome r.number r.version r.steps.length ((List.range r.steps.length).filter fun k => !e.delivered.getLsbD k))
      ((s.setRegistry (s.registry.set i (some (e.bound p r)))).setCtx p (.identified
        { serial := e.serial, recipe := r.number, version := r.version, stepCount := r.steps.length, cover := r.cover }
        (sessionTimer s))) := by
  have hentry : modifyEntry e.serial (Entry.bound p r) s.registry = s.registry.set i (some (e.bound p r)) :=
    modifyEntry_of_placed hplaced he rfl
  have hmissing : ¬holdsEveryStep e.delivered r.steps.length = true := fun hall => by
    obtain ⟨k, hk, hd⟩ := h
    rw [holdsEveryStep_iff.1 hall k hk] at hd
    cases hd
  unfold bindSession
  dsimp only
  rw [if_neg hmissing, hentry]
  refine pushBench_of_present ?_
  rw [State.setCtx, State.bench_setBench, if_pos rfl]
  exact hp

end

/-- The entry that a HELLO has found or inserted is judged as R156 and R157 say. -/
theorem helloJudged (hf : findForHello serial model s = (.entry e, v)) (hplaced : RegistryPlaced v) (he : v.registry.get i = some e)
    (hp : (v.bench p).present = true) : HelloJudged p model i e v (helloFound p serial model s) := by
  have hunfit {st : Status} (h : checkRecipe p e model v = .refused st) : helloFound p serial model s = refusedTerminal p st v :=
    (helloFound_of_unfit hf h).trans (helloRefused_of_present hp)
  have hallowed {r : Recipe} (ha : allowedAt p r.number v) : ¬(!recipeAllowed p r.number v) = true := by
    rw [recipeAllowed_iff.2 ha]
    nofun
  have hfit {r : Recipe} (hr : resolvedRecipe e model v = some r) (ha : allowedAt p r.number v) (hm : r.model = model)
      (hs : e.state = .expected ∨ e.version = some r.version) : helloFound p serial model s = bindSession p e r v :=
    helloFound_of_fit hf ((checkRecipe_of_some hr).trans
      ((if_neg (hallowed ha)).trans ((if_neg (not_not_intro hm)).trans (if_pos hs))))
  refine ⟨fun hr => hunfit ?_, fun r hr ha => hunfit ?_, fun r hr ha hm => hunfit ?_, fun r hr ha hm hs hver => hunfit ?_,
    fun r hr ha hm hs hall => ?_, fun r hr ha hm hs hmissing => ?_⟩
  · simp only [checkRecipe, resolveRecipe_of_none hr]
  · exact (checkRecipe_of_some hr).trans (if_pos (by simpa using mt recipeAllowed_iff.1 ha))
  · exact (checkRecipe_of_some hr).trans ((if_neg (hallowed ha)).trans (if_pos hm))
  · exact (checkRecipe_of_some hr).trans ((if_neg (hallowed ha)).trans ((if_neg (not_not_intro hm)).trans
      (if_neg fun h => h.elim hs hver)))
  · rw [hfit hr ha hm hs, bindSession_of_complete hplaced he hp hall]
  · rw [hfit hr ha hm hs, bindSession_of_missing hplaced he hp hmissing]
    rfl

/-! ### HELLO on the live line: an entry of the serial (R154, R156), and none (R117) -/

theorem findForHello_of_get (hplaced : RegistryPlaced s) (he : s.registry.get i = some e) (hs : e.state ≠ .loading) :
    findForHello e.serial model s =
      (if e.state = .complete then .complete else if e.state = .rejected then .rejected else .entry e, s) := by
  obtain ⟨-, -, hbound⟩ := hplaced i e he
  exact findForHello_of_unbound (entryOf_of_get hplaced he) (Option.not_isSome_iff_eq_none.1 (mt hbound.2 hs))

section
variable (hl : s.line = .live) (hv : serialValid e.serial = true) (hplaced : RegistryPlaced s) (he : s.registry.get i = some e)
  (hp : (s.bench p).present = true)
include hl hv hplaced he hp

theorem helloTaken_of_loading (hs : e.state = .loading) :
    helloTaken p e.serial model s = refusedTerminal p .duplicateSerial (s.setFlag .duplicateSerial) := by
  obtain ⟨-, -, hbound⟩ := hplaced i e he
  rw [helloTaken_of_live hl hv, helloFound_of_bound (entryOf_of_get hplaced he) (hbound.1 hs)]
  exact helloRefused_of_present (s := s.setFlag .duplicateSerial) hp

theorem helloTaken_of_complete (hs : e.state = .complete) :
    helloTaken p e.serial model s = refusedTerminal p .alreadyComplete s := by
  have hfind := findForHello_of_get (model := model) hplaced he (by simp [hs])
  rw [if_pos hs] at hfind
  rw [helloTaken_of_live hl hv, helloFound_of_refused (.inl ⟨hfind, rfl⟩), helloRefused_of_present hp]

theorem helloTaken_of_rejected (hs : e.state = .rejected) :
    helloTaken p e.serial model s = refusedTerminal p .rejectedTerminal s := by
  have hfind := findForHello_of_get (model := model) hplaced he (by simp [hs])
  rw [if_neg (by simp [hs]), if_pos hs] at hfind
  rw [helloTaken_of_live hl hv, helloFound_of_refused (.inr (.inl ⟨hfind, rfl⟩)), helloRefused_of_present hp]

theorem helloTaken_of_unfinished (hs : e.state = .expected ∨ e.state = .partialLoad) :
    HelloJudged p model i e s (helloTaken p e.serial model s) := by
  have hstate : e.state ≠ .loading ∧ e.state ≠ .complete ∧ e.state ≠ .rejected := by
    rcases hs with hs | hs <;> simp [hs]
  obtain ⟨hloading, hcomplete, hrejected⟩ := hstate
  have hfind := findForHello_of_get (model := model) hplaced he hloading
  rw [if_neg hcomplete, if_neg hrejected] at hfind
  rw [helloTaken_of_live hl hv]
  exact helloJudged hfind hplaced he hp

end

section
variable (hl : s.line = .live) (hv : serialValid serial = true) (hp : (s.bench p).present = true)
  (hnone : ∀ i e, s.registry.get i = some e → e.serial ≠ serial)
include hl hv hp hnone

theorem helloTaken_of_closedPolicy (h : ∀ pr, s.profile = some pr → pr.params.policy = .manifestOnly) :
    helloTaken p serial model s = refusedTerminal p .unknownTerminal s := by
  rw [helloTaken_of_live hl hv, helloFound_of_refused
    (.inr (.inr (.inl ⟨findForHello_of_closedPolicy (entryOf_of_absent hnone) h, rfl⟩))), helloRefused_of_present hp]

section
variable {pr : Profile} (hpr : s.profile = some pr) (ho : pr.params.policy = .openPolicy)
include hpr ho

theorem helloTaken_of_noRecipe (hr : recipeForModel model s = none) :
    helloTaken p serial model s = refusedTerminal p .modelMismatch s := by
  rw [helloTaken_of_live hl hv, helloFound_of_refused
    (.inr (.inr (.inr (.inl ⟨findForHello_of_noRecipe (entryOf_of_absent hnone) hpr ho hr, rfl⟩)))), helloRefused_of_present hp]

theorem helloTaken_of_rowFull (hr : recipeForModel model s = some r) (hfull : RowFull serial s.registry) :
    helloTaken p serial model s = refusedTerminal p .registryFull s := by
  have hi : insertEntry (newEntry serial .discovered (some r.number)) s.registry = none := insertEntry_of_full hfull
  rw [helloTaken_of_live hl hv, helloFound_of_refused
    (.inr (.inr (.inr (.inr ⟨findForHello_of_rowFull (entryOf_of_absent hnone) hpr ho hr hi, rfl⟩)))), helloRefused_of_present hp]

/-- A serial with a place in its row: the entry is inserted there and judged (R114, R117, R156). -/
theorem helloTaken_of_inserted {way : Fin 4} (hplaced : RegistryPlaced s) (hr : recipeForModel model s = some r)
    (hway : FreeWay serial way s.registry ∨ ∃ old, VictimWay serial way old s.registry) :
    HelloJudged p model (position (rowOf serial) way) (newEntry serial .discovered (some r.number))
      (s.setRegistry (s.registry.set (position (rowOf serial) way) (some (newEntry serial .discovered (some r.number)))))
      (helloTaken p serial model s) := by
  generalize hnew : newEntry serial .discovered (some r.number) = new
  have hserial : new.serial = serial := by rw [← hnew]; rfl
  generalize hset : s.registry.set (position (rowOf serial) way) (some new) = reg
  have hins : ∃ ins, insertEntry new s.registry = some ins ∧ ins.registry = reg := by
    subst hset
    rcases hway with hway | ⟨old, hway⟩ <;> rw [← hserial] at hway ⊢
    exacts [⟨_, insertEntry_of_free hway, rfl⟩, ⟨_, insertEntry_of_victim hway, rfl⟩]
  obtain ⟨ins, hins, hreg⟩ := hins
  have hfind : findForHello serial model s = (.entry new, s.setRegistry reg) := by
    rw [findForHello_of_inserted (entryOf_of_absent hnone) hpr ho hr (hnew.symm ▸ hins), hnew, hreg]
  have hplaced' : RegistryPlaced (s.setRegistry reg) := by
    refine registryPlaced_iff.2 (hset ▸ (registryPlaced_iff.1 hplaced).insert ?_ (mem_rowPositions.2 ⟨way, ?_⟩)
      (hnew ▸ settled_newEntry ..))
    · exact hserial.symm ▸ lookupSerial_of_absent hnone
    · rw [hserial]
  have hget : (s.setRegistry reg).registry.get (position (rowOf serial) way) = some new := by
    subst hset
    exact (Tab.get_set ..).trans (if_pos rfl)
  rw [helloTaken_of_live hl hv]
  exact helloJudged hfind hplaced' hget hp

end

end

end

end Sys2Proof.Machine

open Sys2Proof Sys2Proof.Machine Sys2Proof.Safety

/-- Settles O46: the receiver discards what a port without a terminal or with a full queue gets; every other message is taken and,
where its context does not take it, answered with the context's code. -/
theorem benchMessagesByState : Obligations.BenchMessagesByState := by
  intro c p s hc hr
  refine ⟨fun hdiscard => ?_, fun hs hbad ht => ?_, fun hs => ?_⟩
  · rw [exec_bench hc, benchMessage_discarded hr hdiscard]
  · have hctx : (heardAt p s).ctx p = restarted (sessionTimer s) (s.ctx p) := heardAt_ctx_self p s
    have huntaken : takenIn c ((heardAt p s).ctx p) = false := by rw [hctx, takenIn_restarted, ht]
    rw [exec_bench_hears hc hs, benchHandler_untaken hc hbad huntaken, hctx, untakenCode_restarted,
      verdict_of_present (heardAt_present hs)]
  · rw [exec_bench_hears rfl hs]
    exact congrArg Host.Outcome.next (verdict_of_present (heardAt_present hs))

/-- Settles O47: HELLO reads the line, the serial, the registry and the recipe in this order; each case is a lemma about
`helloTaken` in the state after the receiver took the message. -/
theorem helloOpensOrRefuses : Obligations.HelloOpensOrRefuses := by
  intro p serial model s hs ha hplaced
  have hpresent := heardAt_present hs
  have hctx : (heardAt p s).ctx p = .attached := by rw [heardAt_ctx_self, ha]; rfl
  have hexec : exec (.hello p serial model) s = .next (helloTaken p serial model (heardAt p s)) :=
    (exec_bench_hears rfl hs).trans (congrArg Host.Outcome.next (hello_of_attached hctx))
  rw [hexec]
  have hline : (heardAt p s).line = s.line := heardAt_line p s
  have hreg : (heardAt p s).registry = s.registry := heardAt_registry p s
  have hprofile : (heardAt p s).profile = s.profile := heardAt_profile p s
  have hflags : { heardAt p s with flags := s.flags ||| 0x040#12 } = (heardAt p s).setFlag .duplicateSerial := rfl
  have hrecipe : recipeForModel model s = recipeForModel model (heardAt p s) := by simp only [recipeForModel, hprofile]
  unfold RegistryPlaced at hplaced
  rw [← hreg] at hplaced
  dsimp only
  rw [hflags, hrecipe, ← hline, ← hreg, ← hprofile]
  generalize heardAt p s = u at *
  refine ⟨fun hl => ?_, fun hlive hpaused => ?_, fun hl hbad => ?_, fun hl hlow hhigh => ?_⟩
  · rw [helloTaken_of_paused hl, verdict_of_present hpresent]
  · rw [helloTaken_of_closed hlive hpaused, verdict_of_present hpresent]
  · rw [helloTaken_of_badSerial hl (serialValid_eq_false hbad), helloRefused_of_present hpresent]
  · have hv : serialValid serial = true := by simp [serialValid, hlow, hhigh]
    refine ⟨fun i e he hser => ?_, fun hnone => ⟨fun hpolicy => ?_, fun pr hpr ho => ⟨fun hr => ?_, fun r hr => ?_⟩⟩⟩
    · subst hser
      exact ⟨fun h => congrArg _ (helloTaken_of_loading hl hv hplaced he hpresent h),
        fun h => congrArg _ (helloTaken_of_complete hl hv hplaced he hpresent h),
        fun h => congrArg _ (helloTaken_of_rejected hl hv hplaced he hpresent h),
        fun h => ⟨_, rfl, helloTaken_of_unfinished hl hv hplaced he hpresent h⟩⟩
    · rw [helloTaken_of_closedPolicy hl hv hpresent hnone hpolicy]
    · rw [helloTaken_of_noRecipe hl hv hpresent hnone hpr ho hr]
    · exact ⟨fun hfull => congrArg _ (helloTaken_of_rowFull hl hv hpresent hnone hpr ho hr hfull),
        fun way hway => ⟨_, rfl, helloTaken_of_inserted hl hv hpresent hnone hpr ho hplaced hr hway⟩⟩

end

section
/-! FETCH: its checks, its reservation and its admission (R8-R10, R149, R158-R160; O48). -/

namespace Sys2Proof.Machine
open Sys2Proof.Safety

section
variable {s t u : State} {p : Port} {kind : StepType} {source cover : SlotIx} {k c : HeldKey} {d : Option (Nat × Nat)}
  {ss : Session} {index : Nat} {st : RecipeStep} {r : Recipe} {code : Status} {i : RegIx} {e : Entry}

/-! ### The admission, check by check (R9) -/

theorem admitStep_of_ungranted (hg : ¬granted source p s) : admitStep p kind source cover s = .refused .notPermitted := by
  rw [← grantsPort_iff] at hg
  simp [admitStep, hg]

section
variable (hg : granted source p s)
include hg

theorem admitStep_of_exhausted (hk : kind = .derived) (hx : (s.slot source).content = .exhausted k) :
    admitStep p kind source cover s = .refused .counterExhausted := by
  rw [← grantsPort_iff] at hg
  simp [admitStep, hg, hk, hx]

theorem admitStep_of_unfit (hx : ¬(kind = .derived ∧ ∃ k, (s.slot source).content = .exhausted k))
    (hfit : ¬∃ k d, (s.slot source).content = .active k ∧ SourceFits kind k d) :
    admitStep p kind source cover s = .refused .slotUnavailable := by
  rw [← grantsPort_iff] at hg
  unfold admitStep
  rw [if_neg (by simp [hg])]
  split
  next hc => exact absurd ⟨rfl, _, hc⟩ hx
  next k hc => exact if_neg fun hu => hfit ⟨k, none, hc, .inl ⟨rfl, hu, rfl⟩⟩
  next k hc =>
    split
    next keySet next hu => exact absurd ⟨k, _, hc, .inr ⟨rfl, keySet, next, hu, rfl⟩⟩ hfit
    next => rfl
  next => rfl

theorem admitStep_of_fits (hk : (s.slot source).content = .active k) (hfit : SourceFits kind k d) :
    admitStep p kind source cover s = admitCover p source cover k d s := by
  rw [← grantsPort_iff] at hg
  rcases hfit with ⟨rfl, hu, rfl⟩ | ⟨rfl, keySet, next, hu, rfl⟩ <;> simp [admitStep, hg, hk, hu]

end

theorem admitCover_of_ungranted (hg : ¬granted cover p s) : admitCover p source cover k d s = .refused .notPermitted := by
  rw [← grantsPort_iff] at hg
  simp [admitCover, hg]

theorem admitCover_of_unfit (hg : granted cover p s) (hc : ¬∃ c, (s.slot cover).content = .active c ∧ c.use = .transport) :
    admitCover p source cover k d s = .refused .slotUnavailable := by
  rw [← grantsPort_iff] at hg
  unfold admitCover
  rw [if_neg (by simp [hg])]
  split
  next c hx => exact if_neg fun hu => hc ⟨c, hx, hu⟩
  next => rfl

theorem admitCover_of_fits (hg : granted cover p s) (hc : (s.slot cover).content = .active c) (hu : c.use = .transport) :
    admitCover p source cover k d s = .admitted
      { source := k, sourceGen := (s.slot source).generation, cover := c, coverGen := (s.slot cover).generation, derivation := d }
      (allocated source k d (bothRaised source cover s)) := by
  rw [← grantsPort_iff] at hg
  cases d <;> simp [admitCover, hg, hc, hu, allocated, bothRaised]

/-! ### The state that an admission leaves (R8, R10) -/

theorem granted_reserved {h : ResHolder} : granted source p (reserved h s) ↔ granted source p s := by
  unfold granted
  rw [reserved_regionOf]

theorem bothRaised_of_ne (hne : source ≠ cover) : bothRaised source cover s =
    (s.setSlot source { s.slot source with inUse := (s.slot source).inUse + 1 }).setSlot cover
      { s.slot cover with inUse := (s.slot cover).inUse + 1 } := by
  simp [bothRaised, raiseInUse, State.slot_setSlot, hne]

theorem withinLowMargin_congr {n : Nat} (h : t.profile = s.profile) : withinLowMargin n t = withinLowMargin n s := by
  rw [withinLowMargin, withinLowMargin, h]

theorem withNextCounter_eq {keySet next : Nat} : withNextCounter k keySet (next + 1) =
    if next = 1048575 then .exhausted { k with use := .baseDerivation keySet (next + 1) }
    else .active { k with use := .baseDerivation keySet (next + 1) } := by
  simp [withNextCounter, counterEnd_eq]

/-- The admission of a step, written with the rules of the Key Store, is the specification's. -/
theorem allocated_bothRaised (hne : source ≠ cover) (hk : (s.slot source).content = .active k) :
    allocated source k d (bothRaised source cover (reserved (.bench p) s)) = admitted p source cover d s := by
  cases d with
  | none =>
    unfold allocated admitted
    rw [bothRaised_of_ne hne, reserved_slot, reserved_slot]
    rfl
  | some x =>
    obtain ⟨keySet, next⟩ := x
    have hslot : (bothRaised source cover (reserved (.bench p) s)).slot source
        = { s.slot source with inUse := (s.slot source).inUse + 1 } := by
      rw [slot_bothRaised hne, if_pos rfl, if_neg (Ne.symm hne), reserved_slot]
    unfold allocated admitted
    dsimp only [Option.elim]
    rw [allocateCounter, hslot, counterEvents_eq (Nat.succ_pos next), bothRaised_of_ne hne, reserved_slot, reserved_slot,
      withNextCounter_eq, withinLowMargin_congr (s := s) (by simp)]
    simp only [hk, SlotContent.key?, Nat.succ_eq_add_one, Nat.reduceEqDiff]

/-! ### The reservation and the start of the step (R159, R160) -/

theorem stepJob_eq {a : Admission} :
    stepJob a st = prepareInputs a.source.material a.cover.material a.derivation st.terminalSlot st.usage := by
  unfold stepJob prepareInputs
  rfl

section
variable (hp : (s.bench p).present = true)
include hp

theorem admitFetch_of_high (ho : 511 ≤ s.journal.occupancy) :
    admitFetch p ss index st s = verdictTo p .wait (s.setFlag .journalHigh) := by
  simp only [admitFetch, requestReservation_refused ho]
  exact verdict_of_present (s := s.setFlag .journalHigh) hp

variable (ho : s.journal.occupancy < 511)
include ho

theorem admitFetch_of_refused (hres : ResHolder.bench p ∉ s.journal.reservations)
    (h : admitStep p st.kind st.source ss.cover (reserved (.bench p) s) = .refused code) :
    admitFetch p ss index st s = verdictTo p code { s with flags := (reserved (.bench p) s).flags } := by
  simp only [admitFetch, requestReservation_granted ho, h, returnReservation_reserved hres]
  exact verdict_of_present (s := { s with flags := (reserved (.bench p) s).flags }) hp

end

theorem admitted_engine : (admitted p source cover d s).engine = s.engine := by
  unfold admitted
  cases d <;> simp

section
variable (ho : s.journal.occupancy < 511)
include ho

/-- A step that the Key Store admits is recorded, its job requested, and the port is PREPARING. -/
theorem admitFetch_of_fits (hg : granted st.source p s) (hk : (s.slot st.source).content = .active k)
    (hfit : SourceFits st.kind k d) (hgc : granted ss.cover p s) (hc : (s.slot ss.cover).content = .active c)
    (hu : c.use = .transport) : admitFetch p ss index st s =
      { (((admitted p st.source ss.cover d s).setStep p (some
          { facts :=
              { port := p, serial := ss.serial, recipe := ss.recipe, version := ss.version, index := index
                terminalSlot := st.terminalSlot, source := st.source, sourceGen := (s.slot st.source).generation
                cover := ss.cover, coverGen := (s.slot ss.cover).generation, counter := d.map Prod.snd }
            usage := st.usage
            keySet := d.map Prod.fst
            expected := none })).setCtx p (.preparing ss)) with
        engine := requested (benchRequester p) (prepareInputs k.material c.material d st.terminalSlot st.usage) s.engine } := by
  have hne : st.source ≠ ss.cover := fun he =>
    sourceFits_not_transport hfit ((SlotContent.active.inj (hk.symm.trans (he ▸ hc))).symm ▸ hu)
  rw [← granted_reserved (h := .bench p)] at hg hgc
  rw [← reserved_slot (.bench p)] at hk hc
  have hadmit := (admitStep_of_fits (cover := ss.cover) hg hk hfit).trans (admitCover_of_fits hgc hc hu)
  rw [reserved_slot] at hk
  rw [allocated_bothRaised hne hk, reserved_slot, reserved_slot] at hadmit
  simp only [admitFetch, requestReservation_granted ho, hadmit, startStep, requestJob_eq, stepJob_eq, stepRecord]
  rw [State.setCtx_engine, State.setStep_engine, admitted_engine]

end

/-! ### The checks before the reservation (R158) -/

theorem sessionStep_of_some (hi : index < ss.stepCount) (hr : recipeNumbered ss.recipe s = some r)
    (hst : r.steps[index]? = some st) : sessionStep ss index s = some st := by
  simp [sessionStep, hi, hr, hst]

theorem sessionStep_of_none (h : ss.stepCount ≤ index ∨ ∀ r, recipeNumbered ss.recipe s = some r → r.steps.length ≤ index) :
    sessionStep ss index s = none := by
  rcases h with h | h
  · simp [sessionStep, Nat.not_lt.2 h]
  · cases hr : recipeNumbered ss.recipe s with
    | none => simp [sessionStep, hr]
    | some r => simp [sessionStep, hr, h r hr]

theorem stepDelivered_of_get (hplaced : RegistryPlaced s) (he : s.registry.get i = some e) (hs : e.serial = ss.serial) :
    stepDelivered ss.serial index s = e.delivered.getLsbD index := by
  rw [stepDelivered, ← hs, entryOf_of_get hplaced he]

section
variable {timer : Timer} (hx : s.ctx p = .identified ss timer)
include hx

theorem fetchStep_of_identified : fetchStep p index s = fetchTaken p ss index s := by
  simp only [fetchStep, hx]

end

section
variable (hl : s.line = .live)
include hl

theorem fetchTaken_of_live : fetchTaken p ss index s = (sessionStep ss index s).elim (verdict p .noSuchStep s)
    fun st => if stepDelivered ss.serial index s then verdict p .alreadyDelivered s else admitFetch p ss index st s := by
  rw [fetchTaken, if_neg (not_not_intro hl)]
  cases sessionStep ss index s <;> rfl

end

end

end Sys2Proof.Machine

open Sys2Proof Sys2Proof.Machine Sys2Proof.Safety

/-- Settles O48: FETCH checks the line, the step and its delivery, then takes the reservation, then the source, then the cover;
each case is a lemma about `fetchTaken` or `admitFetch` in the state after the receiver took the message. -/
theorem fetchAdmitsOrRefuses : Obligations.FetchAdmitsOrRefuses := by
  intro p index ss timer s hs hx hplaced hres
  have hpresent := heardAt_present hs
  have hctx : (heardAt p s).ctx p = .identified ss (sessionTimer s) := by rw [heardAt_ctx_self, hx]; rfl
  have hexec : exec (.fetch p index) s = .next (fetchTaken p ss index (heardAt p s)) :=
    (exec_bench_hears rfl hs).trans (congrArg Host.Outcome.next (fetchStep_of_identified hctx))
  have hflags : (reserved (.bench p) (heardAt p s)).flags = (reserved (.bench p) s).flags := by
    rw [reserved_flags, reserved_flags]
    rfl
  have hhigh : { heardAt p s with flags := s.flags ||| 0x008#12 } = (heardAt p s).setFlag .journalHigh := rfl
  have hrecipe : recipeNumbered ss.recipe s = recipeNumbered ss.recipe (heardAt p s) := by
    simp only [recipeNumbered, heardAt_profile]
  have hgranted (i : SlotIx) : granted i p s ↔ granted i p (heardAt p s) := by simp only [granted, regionOf, heardAt_profile]
  unfold RegistryPlaced at hplaced
  rw [← heardAt_registry p s] at hplaced
  rw [← heardAt_journal p s] at hres
  dsimp only
  rw [hexec, hhigh, ← hflags, hrecipe, ← heardAt_line p s, ← heardAt_registry p s, ← heardAt_journal p s,
    ← heardAt_engine p s]
  simp only [hgranted, ← heardAt_slot p _ s]
  generalize heardAt p s = u at *
  refine ⟨fun hl => ?_, fun hl => ⟨fun hnone => ?_, fun r st i e hi hr hst he hse => ?_⟩⟩
  · rw [fetchTaken, if_pos hl, verdict_of_present hpresent]
  · rw [fetchTaken_of_live hl, sessionStep_of_none hnone]
    exact congrArg _ (verdict_of_present hpresent)
  rw [fetchTaken_of_live hl, sessionStep_of_some hi hr hst, Option.elim, stepDelivered_of_get hplaced he hse]
  refine ⟨fun hd => ?_, fun hd => ?_⟩
  · rw [if_pos hd, verdict_of_present hpresent]
  rw [if_neg (by simp [hd])]
  refine ⟨fun ho => ?_, fun ho => ?_⟩
  · rw [admitFetch_of_high hpresent ho]
  have hrefused {code : Status} (h : admitStep p st.kind st.source ss.cover (reserved (.bench p) u) = .refused code) :=
    congrArg (Host.Outcome.next (φ := Fault) (ρ := Refusal)) (admitFetch_of_refused (index := index) hpresent ho hres h)
  refine ⟨fun hg => hrefused (admitStep_of_ungranted (mt granted_reserved.1 hg)), fun hg => ?_⟩
  have hgr := (granted_reserved (h := .bench p)).2 hg
  refine ⟨fun hk ⟨k, hc⟩ => hrefused (admitStep_of_exhausted hgr hk (k := k) (by rw [reserved_slot, hc])),
    fun hnx hnf => hrefused (admitStep_of_unfit hgr (by rwa [reserved_slot]) (by rwa [reserved_slot])),
    fun k d hk hfit => ?_⟩
  have hcover := admitStep_of_fits (cover := ss.cover) hgr ((congrArg Slot.content (reserved_slot ..)).trans hk) hfit
  refine ⟨fun hgc => hrefused (hcover.trans (admitCover_of_ungranted (mt granted_reserved.1 hgc))),
    fun hgc => ⟨fun hnc => hrefused (hcover.trans (admitCover_of_unfit (granted_reserved.2 hgc) (by rwa [reserved_slot]))),
      fun c hc hu => ?_⟩⟩
  exact congrArg _ (admitFetch_of_fits ho hg hk hfit hgc hc hu)

end

section
/-! The receivers and the transmit queues (R199, R201; O51). -/

namespace Sys2Proof.Machine
open Sys2Proof.Safety

section
variable {s : State} {k : LinkId} {x : Byte} {bytes rest : List Byte} {gap : Nat} {kind len : Byte}

theorem judgeBytes_of_front (h : bytes.length < 2) : judgeBytes bytes = .short := by
  unfold judgeBytes
  split
  next => simp at h
  next => rfl

theorem judgeBytes_of_short (h : rest.length < len.toNat + 2) : judgeBytes (kind :: len :: rest) = .short := by
  simp only [judgeBytes, h, if_true]

theorem judgeBytes_of_bad (h : rest.length = len.toNat + 2)
    (hcrc : rest.drop len.toNat ≠ beBytes 2 (crc16 (kind :: len :: rest.take len.toNat)).toNat) :
    judgeBytes (kind :: len :: rest) = .bad := by
  have htail : (rest.drop len.toNat).length = 2 := by simp [h]
  have hne : beNat (rest.drop len.toNat) ≠ (crc16 (kind :: len :: rest.take len.toNat)).toNat := fun he =>
    hcrc (by rw [← he, ← htail, beBytes_beNat])
  unfold judgeBytes
  dsimp only
  rw [if_neg (by omega), if_neg hne]

theorem receiveByte_of_idle (hr : receiver k s = .idle) :
    receiveByte k x s = if x = 0xA5 then setReceiver k (.assembling [] 0) s else s := by
  simp only [receiveByte, hr]
  rfl

section
variable (hr : receiver k s = .assembling bytes gap)
include hr

theorem receiveByte_of_short (h : judgeBytes (bytes ++ [x]) = .short) :
    receiveByte k x s = setReceiver k (.assembling (bytes ++ [x]) 0) s := by
  simp only [receiveByte, hr, h]

theorem receiveByte_of_bad (h : judgeBytes (bytes ++ [x]) = .bad) : receiveByte k x s = setReceiver k .idle s := by
  simp only [receiveByte, hr, h]

end

/-! ### The rows of the serial links while the part runs -/

section
variable (hrun : s.running = true)
include hrun

theorem exec_linkByteReceived : exec (.linkByteReceived k x) s = .next (receiveByte k x s) := congrArg Host.Outcome.next (if_pos hrun)

theorem exec_linkBadFrame : exec (.linkBadFrame k) s = .next (setReceiver k .idle s) := congrArg Host.Outcome.next (if_pos hrun)

theorem exec_transmitDone : exec (.transmitDone k) s = .next (transmitDone k s) := congrArg Host.Outcome.next (if_pos hrun)

theorem exec_receiverTimeout : exec (.receiverTimeout k) s = .next (if (receiver k s).due then setReceiver k .idle s else s) :=
  congrArg Host.Outcome.next (by rw [hrun, Bool.true_and])

end

end

end Sys2Proof.Machine

open Sys2Proof Sys2Proof.Machine Sys2Proof.Safety

/-- Settles O51: each row of a serial link by the receiver's state, the bytes collected and the transmit queue. -/
theorem receiversAndTransmitters : Obligations.ReceiversAndTransmitters := by
  intro k s hrun
  refine ⟨exec_linkBadFrame hrun, fun bytes gap hr hgap => ?_, fun hr => ?_, fun hr => ⟨?_, fun x hx => ?_⟩,
    fun bytes gap x hr => ⟨fun hfront => ?_, fun kind len rest hb => ⟨fun hshort => ?_, fun hwhole hcrc => ?_⟩⟩,
    fun l hk => ?_, fun p hk => ?_⟩
  · rw [exec_receiverTimeout hrun, if_pos (by simp [hr, Receiver.due, hgap])]
  · have hdue : (receiver k s).due = false := by
      rcases hr with hr | ⟨bytes, gap, hr, hgap⟩ <;> rw [hr]
      · rfl
      · simpa [Receiver.due] using hgap
    rw [exec_receiverTimeout hrun, hdue]
    rfl
  · rw [exec_linkByteReceived hrun, receiveByte_of_idle hr, if_pos rfl]
  · rw [exec_linkByteReceived hrun, receiveByte_of_idle hr, if_neg hx]
  · rw [exec_linkByteReceived hrun, receiveByte_of_short hr (judgeBytes_of_front hfront)]
  · rw [exec_linkByteReceived hrun, receiveByte_of_short hr (hb ▸ judgeBytes_of_short hshort)]
  · rw [exec_linkByteReceived hrun, receiveByte_of_bad hr (hb ▸ judgeBytes_of_bad hwhole hcrc)]
  · subst hk
    rw [exec_transmitDone hrun]
    exact ⟨fun h => by simp only [transmitDone, h], fun m rest h => by simp only [transmitDone, h]⟩
  · subst hk
    rw [exec_transmitDone hrun]
    exact ⟨fun h => by simp only [transmitDone, h], fun m rest h => by simp only [transmitDone, h]⟩

end

section
/-! CONFIRM: how a step in flight ends, and what the entry, the context and the terminal then hold (R119, R120, R162-R164; O49). -/

namespace Sys2Proof.Machine
open Sys2Proof.Safety

section
variable {s t u w : State} {p : Port} {f : Event} {ps : PendingStep} {ss : Session} {body : RecordBody} {m : BenchOut}
  {c : PortContext} {i : RegIx} {e e' : Entry} {index : Nat} {kcv : Kcv}

/-! ### The flags (R203) -/

/-- An event is flagged. -/
def flagged (f : Event) (s : State) : Bool := s.flags.getLsbD f.index

theorem index_lt (f : Event) : f.index < 12 := by cases f <;> decide

theorem flagged_setFlag_self (f : Event) (s : State) : flagged f (s.setFlag f) = true := by
  rw [flagged, State.setFlag, BitVec.getLsbD_or, Event.only, BitVec.getLsbD_twoPow, decide_eq_true (index_lt f)]
  simp

theorem flagged_setFlag_other {g : Event} (h : g.index ≠ f.index) (s : State) : flagged f (s.setFlag g) = flagged f s := by
  rw [flagged, State.setFlag, BitVec.getLsbD_or, Event.only, BitVec.getLsbD_twoPow, decide_eq_false h]
  simp [flagged]

theorem flagged_congr (h : t.flags = s.flags) : flagged f t = flagged f s := by rw [flagged, h, flagged]

section
variable (hf : Event.ceremonyEnd.index ≠ f.index)
include hf

theorem flagged_finishCeremony (w : CeremonyWork) (result : CeremonyResult) (run : CeremonyRun) :
    flagged f (finishCeremony w result run s) = flagged f s := by
  rw [finishCeremony_eq]
  exact (flagged_congr rfl).trans (flagged_setFlag_other (g := .ceremonyEnd) hf s)

theorem flagged_completeErasure (i : SlotIx) : flagged f (completeErasure i s) = flagged f s := by
  unfold completeErasure
  dsimp only
  split
  · split
    · exact flagged_finishCeremony hf ..
    · rfl
  · rfl

theorem flagged_lowerInUse (i : SlotIx) : flagged f (lowerInUse i s) = flagged f s := by
  unfold lowerInUse
  dsimp only
  split
  · split
    · exact flagged_completeErasure hf i
    · rfl
  · rfl

theorem flagged_endStep (p : Port) (ps : PendingStep) (body : RecordBody) : flagged f (endStep p ps body s) = flagged f s :=
  (flagged_lowerInUse hf _).trans (flagged_lowerInUse hf _)

end

/-! ### A step that ended (R162) -/

/-- From `s` to `w` a step in flight has ended in a record, and nothing else has changed but the registry. -/
structure StepClosed (p : Port) (ps : PendingStep) (body : RecordBody) (s w : State) : Prop where
  released : StepReleased ps.facts s w
  recorded : s.journal.reservations.Nodup → StepRecorded p body s w
  benches : w.benches = s.benches
  custodians : w.store.custodians = s.store.custodians
  profile : w.profile = s.profile
  line : w.line = s.line
  engine : w.engine = s.engine
  responses : w.responses = s.responses
  done : flagged .terminalDone w = flagged .terminalDone s
  fault : flagged .terminalFault w = flagged .terminalFault s

theorem stepClosed_endStep (p : Port) (ps : PendingStep) (body : RecordBody) (s : State) :
    StepClosed p ps body s (endStep p ps body s) where
  released := (endStep_spec p ps body s).1
  recorded := (endStep_spec p ps body s).2
  benches := by simp
  custodians := by simp
  profile := by simp
  line := by simp
  engine := by simp
  responses := by simp
  done := flagged_endStep (by decide) ..
  fault := flagged_endStep (by decide) ..

theorem StepClosed.setRegistry (h : StepClosed p ps body s w) (r : Registry) : StepClosed p ps body s (w.setRegistry r) :=
  ⟨h.released, h.recorded, h.benches, h.custodians, h.profile, h.line, h.engine, h.responses, h.done, h.fault⟩

theorem StepClosed.of_setRegistry {r : Registry} (h : StepClosed p ps body (s.setRegistry r) w) : StepClosed p ps body s w :=
  ⟨h.released, h.recorded, h.benches, h.custodians, h.profile, h.line, h.engine, h.responses, h.done, h.fault⟩

theorem StepClosed.bench (h : StepClosed p ps body s w) (q : Port) : w.bench q = s.bench q := by
  rw [State.bench, h.benches, State.bench]

/-! ### A port that turns to another context and is told so -/

/-- From `w` to `t` the port is in the context, its terminal is sent the message, and at most flags have changed besides. -/
structure Turned (p : Port) (c : PortContext) (m : BenchOut) (w t : State) : Prop where
  store : t.store = w.store
  line : t.line = w.line
  engine : t.engine = w.engine
  responses : t.responses = w.responses
  others : ∀ q, q ≠ p → t.bench q = w.bench q
  ctx : t.ctx p = c
  tx : (t.bench p).tx = (w.bench p).tx ++ [m]

theorem turned_sentTo : Turned p c m w (sentTo p m (w.setCtx p c)) where
  store := rfl
  line := rfl
  engine := rfl
  responses := rfl
  others q hq := by simp [sentTo, State.setCtx, State.bench_setBench, Ne.symm hq]
  ctx := by simp [sentTo, State.setCtx, State.ctx]
  tx := by simp [sentTo, State.setCtx]

theorem Turned.setFlag (h : Turned p c m w t) (f : Event) : Turned p c m w (t.setFlag f) :=
  ⟨h.store, h.line, h.engine, h.responses, h.others, h.ctx, h.tx⟩

theorem present_setCtx (hp : (w.bench p).present = true) : ((w.setCtx p c).bench p).present = true := by
  rw [State.setCtx, State.bench_setBench, if_pos rfl]
  exact hp

theorem pushBench_setCtx (hp : (w.bench p).present = true) : pushBench p m (w.setCtx p c) = sentTo p m (w.setCtx p c) :=
  pushBench_of_present (present_setCtx hp)

theorem pushBench_setFlag_setCtx (hp : (w.bench p).present = true) :
    pushBench p m ((w.setCtx p c).setFlag f) = (sentTo p m (w.setCtx p c)).setFlag f :=
  (pushBench_of_present (s := (w.setCtx p c).setFlag f) (present_setCtx hp)).trans rfl

/-! ### The entry that a CONFIRM judges (R119, R120) -/

/-- The state of an entry that a function has moved on. -/
theorem entryStateIs_of_set {st : EntryState} (hplaced : RegistryPlaced s) (he : s.registry.get i = some e) (hl : e.Later e')
    (hw : w.registry = s.registry.set i (some e')) : entryStateIs st e.serial w = (e'.state == st) := by
  have hplaced' : RegistryPlaced w :=
    registryPlaced_iff.2 (hw ▸ (RegMoves.set (he ▸ .later hl)).placed (registryPlaced_iff.1 hplaced))
  have hget : w.registry.get i = some e' := by rw [hw, Tab.get_set, if_pos rfl]
  rw [entryStateIs, ← hl.serial, entryOf_of_get hplaced' hget]

/-- The session goes on (R163, R164). -/
def goesOn (p : Port) (ss : Session) (m : BenchOut) (w : State) : State := sentTo p m (w.setCtx p (.identified ss (sessionTimer w)))

/-- The terminal is done with (R163, R164). -/
def closesWith (p : Port) (m : BenchOut) (f : Event) (w : State) : State := (sentTo p m (w.setCtx p .finished)).setFlag f

theorem confirm_of_offered {timer : Timer} (hx : s.ctx p = .offered ss timer) (hs : s.step p = some ps) : confirm p index kcv s =
    if ps.facts.index ≠ index then verdict p .sequence s
    else if ps.expected = some kcv then confirmMatch p ss ps kcv s else confirmMismatch p ss ps s := by
  simp only [confirm, hx, hs]

section
variable {count retry : Nat}

theorem Entry.deliver_of_all (h : ∀ k, k < count → (e.delivered ||| BitVec.twoPow 12 index).getLsbD k = true) :
    e.deliver index count = { e with delivered := e.delivered ||| BitVec.twoPow 12 index, state := .complete, boundPort := none } := by
  simp only [Entry.deliver, holdsEveryStep_iff.2 h, if_true]

theorem Entry.deliver_of_missing (h : ¬∀ k, k < count → (e.delivered ||| BitVec.twoPow 12 index).getLsbD k = true) :
    e.deliver index count = { e with delivered := e.delivered ||| BitVec.twoPow 12 index } := by
  simp only [Entry.deliver, holdsEveryStep_iff, h, if_false]

theorem Entry.mismatch_of_limit (h : retry ≤ e.mismatches + 1) :
    e.mismatch retry = { e with mismatches := e.mismatches + 1, state := .rejected, boundPort := none } := by
  simp only [Entry.mismatch, h, if_true]

theorem Entry.mismatch_of_below (h : ¬retry ≤ e.mismatches + 1) : e.mismatch retry = { e with mismatches := e.mismatches + 1 } := by
  simp only [Entry.mismatch, h, if_false]

end

section
variable (hplaced : RegistryPlaced s) (he : s.registry.get i = some e) (hser : e.serial = ss.serial)
  (hp : (s.bench p).present = true)
include hplaced he hser hp

/-- A matching CONFIRM delivers the step, and whether the entry is then COMPLETE says how the port goes on (R163). -/
theorem confirmMatch_eq : ∃ w, StepClosed p ps (.delivered ps.facts kcv) s w
    ∧ w.registry = s.registry.set i (some (e.deliver ps.facts.index ss.stepCount))
    ∧ confirmMatch p ss ps kcv s = if (e.deliver ps.facts.index ss.stepCount).state = .complete
      then closesWith p (.verdict .ok true false) .terminalDone w else goesOn p ss (.verdict .ok false false) w := by
  have hentry : modifyEntry ss.serial (Entry.deliver ps.facts.index ss.stepCount) s.registry
      = s.registry.set i (some (e.deliver ps.facts.index ss.stepCount)) := modifyEntry_of_placed hplaced he hser
  unfold confirmMatch
  rw [hentry]
  dsimp only
  generalize hw : endStep p ps (.delivered ps.facts kcv)
    (s.setRegistry (s.registry.set i (some (e.deliver ps.facts.index ss.stepCount)))) = w
  have hclosed : StepClosed p ps (.delivered ps.facts kcv) s w := (hw ▸ stepClosed_endStep ..).of_setRegistry
  have hreg : w.registry = s.registry.set i (some (e.deliver ps.facts.index ss.stepCount)) := by
    rw [← hw]
    simp
  have hpresent : (w.bench p).present = true := (congrArg Bench.present (hclosed.bench p)).trans hp
  refine ⟨w, hclosed, hreg, ?_⟩
  rw [← hser, entryStateIs_of_set hplaced he (e.later_deliver ..) hreg, pushBench_setFlag_setCtx hpresent,
    pushBench_setCtx hpresent]
  simp only [beq_iff_eq]
  rfl

/-- A CONFIRM with another KCV voids the step, and whether the entry is then REJECTED says how the port goes on (R164). -/
theorem confirmMismatch_eq : ∃ w, StepClosed p ps (.voided ps.facts ps.expected .kcvMismatch) s w
    ∧ w.registry = s.registry.set i (some (e.mismatch (retryLimit s)))
    ∧ confirmMismatch p ss ps s = if (e.mismatch (retryLimit s)).state = .rejected
      then closesWith p (.verdict .kcvMismatch false true) .terminalFault w
      else goesOn p ss (.verdict .kcvMismatch false false) w := by
  unfold confirmMismatch
  dsimp only
  have hclosed := stepClosed_endStep p ps (.voided ps.facts ps.expected .kcvMismatch) s
  have hreg : (endStep p ps (.voided ps.facts ps.expected .kcvMismatch) s).registry = s.registry := by simp
  generalize endStep p ps (.voided ps.facts ps.expected .kcvMismatch) s = v at hclosed hreg ⊢
  have hentry : modifyEntry ss.serial (Entry.mismatch (retryLimit v)) v.registry
      = s.registry.set i (some (e.mismatch (retryLimit s))) := by
    rw [hreg, modifyEntry_of_placed hplaced he hser, retryLimit, hclosed.profile, retryLimit]
  rw [hentry]
  generalize hw : v.setRegistry (s.registry.set i (some (e.mismatch (retryLimit s)))) = w
  have hclosed : StepClosed p ps (.voided ps.facts ps.expected .kcvMismatch) s w := hw ▸ hclosed.setRegistry _
  have hreg : w.registry = s.registry.set i (some (e.mismatch (retryLimit s))) := hw ▸ rfl
  have hpresent : (w.bench p).present = true := (congrArg Bench.present (hclosed.bench p)).trans hp
  refine ⟨w, hclosed, hreg, ?_⟩
  rw [← hser, entryStateIs_of_set hplaced he (e.later_mismatch _) hreg, pushBench_setFlag_setCtx hpresent,
    pushBench_setCtx hpresent]
  simp only [beq_iff_eq]
  rfl

end

/-! ### What an answered CONFIRM leaves of the state before it -/

theorem Turned.released (h : Turned p c m w t) (hclosed : StepClosed p ps body (heardAt p s) w) : StepReleased ps.facts s t := by
  obtain ⟨hsplit, hothers, hsame⟩ := hclosed.released
  have hslot (i : SlotIx) : t.slot i = w.slot i := by rw [State.slot, h.store, State.slot]
  refine ⟨?_, ?_, ?_⟩ <;> simp only [hslot]
  exacts [hsplit, hothers, hsame]

theorem Turned.recorded (h : Turned p c m w t) (hclosed : StepClosed p ps body (heardAt p s) w)
    (hn : s.journal.reservations.Nodup) : StepRecorded p body s t := by
  obtain ⟨hstep, hrecords, hreturned⟩ := hclosed.recorded hn
  have hjournal : t.journal = w.journal := by rw [State.journal, h.store, State.journal]
  refine ⟨?_, ?_, ?_⟩
  · rw [State.step, h.store]
    exact hstep
  · rw [hjournal]
    exact hrecords
  · rw [hjournal]
    exact hreturned

theorem Turned.kept (h : Turned p c m w t) (hclosed : StepClosed p ps body (heardAt p s) w) :
    (∀ q, q ≠ p → t.bench q = s.bench q) ∧ t.line = s.line ∧ t.profile = s.profile
      ∧ t.store.custodians = s.store.custodians ∧ t.engine = s.engine ∧ t.responses = s.responses := by
  refine ⟨fun q hq => ?_, h.line.trans hclosed.line, ?_, ?_, h.engine.trans hclosed.engine, h.responses.trans hclosed.responses⟩
  · rw [h.others q hq, hclosed.bench]
    simp [heardAt, State.bench_setBench, Ne.symm hq]
  · rw [State.profile, h.store]
    exact hclosed.profile
  · rw [h.store]
    exact hclosed.custodians

theorem Turned.tx_heardAt (h : Turned p c m w t) (hclosed : StepClosed p ps body (heardAt p s) w) :
    (t.bench p).tx = (s.bench p).tx ++ [m] := by
  rw [h.tx, hclosed.bench, heardAt_bench_self]

/-- What every CONFIRM that ends the step keeps, before what its own case says. -/
theorem Turned.answers {X : Prop} (h : Turned p c m w t) (hclosed : StepClosed p ps body (heardAt p s) w) (hx : X) :
    StepReleased ps.facts s t ∧ (∀ q, q ≠ p → t.bench q = s.bench q) ∧ t.line = s.line ∧ t.profile = s.profile
      ∧ t.store.custodians = s.store.custodians ∧ t.engine = s.engine ∧ t.responses = s.responses ∧ X := by
  obtain ⟨hothers, hline, hprofile, hcustodians, hengine, hresponses⟩ := h.kept hclosed
  exact ⟨h.released hclosed, hothers, hline, hprofile, hcustodians, hengine, hresponses, hx⟩

theorem sessionTimer_congr (h : w.profile = s.profile) : sessionTimer w = { count := 0, limit := sessionIdleLimit s } := by
  rw [sessionTimer, sessionIdleLimit, sessionIdleLimit, h]

theorem turned_goesOn : Turned p (.identified ss (sessionTimer w)) m w (goesOn p ss m w) := turned_sentTo

theorem turned_closesWith : Turned p .finished m w (closesWith p m f w) := turned_sentTo.setFlag f

end

end Sys2Proof.Machine

open Sys2Proof Sys2Proof.Machine Sys2Proof.Safety

/-- Settles O49: the step in flight ends by `endStep`, and the entry after it says whether the session goes on. -/
theorem confirmEndsTheStep : Obligations.ConfirmEndsTheStep := by
  intro p index kcv ss timer ps s hs hx hstep
  have hpresent := heardAt_present hs
  have hctx : (heardAt p s).ctx p = .offered ss (sessionTimer s) := by rw [heardAt_ctx_self, hx]; rfl
  have hexec := (exec_bench_hears (c := .confirm p index kcv) rfl hs).trans
    (congrArg Host.Outcome.next (confirm_of_offered hctx ((heardAt_step p p s).trans hstep)))
  refine ⟨fun hi => ?_, fun i e hi hplaced hn he hser hloading => ?_⟩
  · rw [hexec, if_pos hi, verdict_of_present hpresent]
  rw [if_neg (not_not_intro hi)] at hexec
  unfold RegistryPlaced at hplaced
  rw [← heardAt_registry p s] at hplaced he
  have htimer {w : State} {body : RecordBody} (h : StepClosed p ps body (heardAt p s) w) :
      sessionTimer w = { count := 0, limit := sessionIdleLimit s } := sessionTimer_congr h.profile
  by_cases hk : ps.expected = some kcv
  · rw [if_pos hk] at hexec
    obtain ⟨w, hclosed, hreg, hmatch⟩ := confirmMatch_eq (kcv := kcv) (ps := ps) hplaced he hser hpresent
    rw [hmatch, hi] at hexec
    rw [hi] at hreg
    by_cases hall : ∀ k, k < ss.stepCount → (e.delivered ||| BitVec.twoPow 12 index).getLsbD k = true
    · rw [Entry.deliver_of_all hall] at hexec hreg
      rw [if_pos rfl] at hexec
      have hturn := turned_closesWith (p := p) (m := .verdict .ok true false) (f := .terminalDone) (w := w)
      refine ⟨_, hexec, hturn.answers hclosed ⟨fun _ => ⟨hturn.recorded hclosed hn, fun _ => ?_, fun ⟨k, hlt, hbit⟩ => ?_⟩, ?_⟩⟩
      · exact ⟨hreg, hturn.ctx, hturn.tx_heardAt hclosed, flagged_setFlag_self ..⟩
      · exact absurd (hall k hlt) (by rw [hbit]; decide)
      · exact fun h => absurd hk h
    · rw [Entry.deliver_of_missing hall] at hexec hreg
      rw [if_neg (by simp [hloading])] at hexec
      have hturn := turned_goesOn (p := p) (ss := ss) (m := .verdict .ok false false) (w := w)
      refine ⟨_, hexec, hturn.answers hclosed ⟨fun _ => ⟨hturn.recorded hclosed hn, fun h => absurd h hall, fun _ => ?_⟩, ?_⟩⟩
      · exact ⟨hreg, hturn.ctx.trans (congrArg _ (htimer hclosed)), hturn.tx_heardAt hclosed, hclosed.done⟩
      · exact fun h => absurd hk h
  · rw [if_neg hk] at hexec
    obtain ⟨w, hclosed, hreg, hmismatch⟩ := confirmMismatch_eq (ps := ps) hplaced he hser hpresent
    rw [hmismatch] at hexec
    have hretry : retryLimit (heardAt p s) = retryLimit s := by rw [retryLimit, heardAt_profile, retryLimit]
    rw [hretry] at hreg hexec
    by_cases hlimit : retryLimit s ≤ e.mismatches + 1
    · rw [Entry.mismatch_of_limit hlimit] at hexec hreg
      rw [if_pos rfl] at hexec
      have hturn := turned_closesWith (p := p) (m := .verdict .kcvMismatch false true) (f := .terminalFault) (w := w)
      refine ⟨_, hexec, hturn.answers hclosed ⟨fun h => absurd h hk, fun _ =>
        ⟨hturn.recorded hclosed hn, fun h => absurd hlimit (Nat.not_le.2 h), fun _ => ?_⟩⟩⟩
      exact ⟨hreg, hturn.ctx, hturn.tx_heardAt hclosed, flagged_setFlag_self ..⟩
    · rw [Entry.mismatch_of_below hlimit] at hexec hreg
      rw [if_neg (by simp [hloading])] at hexec
      have hturn := turned_goesOn (p := p) (ss := ss) (m := .verdict .kcvMismatch false false) (w := w)
      refine ⟨_, hexec, hturn.answers hclosed ⟨fun h => absurd h hk, fun _ =>
        ⟨hturn.recorded hclosed hn, fun _ => ?_, fun h => absurd h hlimit⟩⟩⟩
      exact ⟨hreg, hturn.ctx.trans (congrArg _ (htimer hclosed)), hturn.tx_heardAt hclosed, hclosed.fault⟩

end

section
/-! The common end of a session, with its step, its entry and its reason (R121, R153, R162, R165-R167, R171; O50). -/

namespace Sys2Proof.Machine
open Sys2Proof.Safety

section
variable {s t u w : State} {p q : Port} {ps : PendingStep} {ss : Session} {m : BenchOut} {reason : VoidReason} {next : PortContext}
  {r : Fin 10} {kcv : PendingStep → Option Kcv} {timer : Timer}

/-! ### Before the session ends: the step and its job (R166) -/

/-- From `s` to `w` at most a step, its job and its claims have ended. -/
structure Wound (s w : State) : Prop where
  registry : w.registry = s.registry
  benches : w.benches = s.benches
  custodians : w.store.custodians = s.store.custodians
  profile : w.profile = s.profile
  line : w.line = s.line
  importWork : w.importWork = s.importWork
  fault : flagged .terminalFault w = flagged .terminalFault s

theorem Wound.refl (s : State) : Wound s s := ⟨rfl, rfl, rfl, rfl, rfl, rfl, rfl⟩

theorem Wound.trans (h : Wound s t) (g : Wound t u) : Wound s u :=
  ⟨g.registry.trans h.registry, g.benches.trans h.benches, g.custodians.trans h.custodians, g.profile.trans h.profile,
    g.line.trans h.line, g.importWork.trans h.importWork, g.fault.trans h.fault⟩

theorem Wound.bench (h : Wound s w) (q : Port) : w.bench q = s.bench q := by rw [State.bench, h.benches, State.bench]

theorem wound_endStep (p : Port) (ps : PendingStep) (body : RecordBody) : Wound s (endStep p ps body s) where
  registry := by simp
  benches := by simp
  custodians := by simp
  profile := by simp
  line := by simp
  importWork := by simp
  fault := flagged_endStep (by decide) ..

theorem voidStep_of_none (h : s.step p = none) : voidStep p kcv reason s = s := by simp only [voidStep, h]

theorem voidStep_of_some (h : s.step p = some ps) :
    voidStep p kcv reason s = endStep p ps (.voided ps.facts (kcv ps) reason) s := by simp only [voidStep, h]

theorem wound_voidStep : Wound s (voidStep p kcv reason s) := by
  cases h : s.step p with
  | none =>
    rw [voidStep_of_none h]
    exact .refl s
  | some ps =>
    rw [voidStep_of_some h]
    exact wound_endStep ..

theorem wound_withdrawJob (r : Fin 10) : Wound s (withdrawJob r s) where
  registry := by rw [withdrawJob_frame]; rfl
  benches := by simp
  custodians := by simp
  profile := by rw [withdrawJob_frame]; rfl
  line := by simp
  importWork := by simp
  fault := flagged_congr (by simp)

theorem withdrawJob_of_running (h : jobPlace r s = .running) : withdrawJob r s =
    { s with engine := { s.engine with running := s.engine.running.map fun j => { j with orphaned := true } } } := by
  simp only [withdrawJob, h]

/-- A job withdrawn is not pending. -/
theorem waiting_withdrawJob : (withdrawJob r s).engine.waiting.get r = none := by
  have hpending : jobPlace r s ≠ .waiting → s.engine.waiting.get r = none := fun h => by
    by_contra hsome
    exact h (if_pos (Option.isSome_iff_ne_none.2 hsome))
  unfold withdrawJob
  split
  next h => exact hpending (by rw [h]; nofun)
  next h => exact (Tab.get_set ..).trans (if_pos rfl)
  next h => exact hpending (by rw [h]; nofun)

theorem stepReleased_before {facts : StepFacts} (h : StepReleased facts t u) (hs : t.store = s.store) : StepReleased facts s u := by
  have hslot (i : SlotIx) : t.slot i = s.slot i := by rw [State.slot, hs, State.slot]
  unfold StepReleased at h ⊢
  simpa only [hslot] using h

theorem stepRecorded_before {body : RecordBody} (h : StepRecorded p body t u) (hs : t.store = s.store) : StepRecorded p body s u := by
  have hjournal : t.journal = s.journal := by rw [State.journal, hs, State.journal]
  unfold StepRecorded at h ⊢
  simpa only [hjournal] using h

/-! ### The end itself (R167) -/

/-- The HALT of a reason that sends one. -/
def haltOf (reason : VoidReason) : List BenchOut := if reason.halts then [.halt reason] else []

theorem mem_haltOf : BenchOut.halt reason ∈ haltOf reason ↔ reason = .idleTimeout ∨ reason = .lineClosed ∨ reason = .zeroised := by
  cases reason <;> simp [haltOf, VoidReason.halts]

theorem finishSession_registry : (finishSession p ss reason next s).registry = modifyEntry ss.serial Entry.unbound s.registry := by
  unfold finishSession
  dsimp only
  split <;> simp [unbindSerial]

theorem bench_pushBench_other (h : q ≠ p) : (pushBench p m s).bench q = s.bench q := by
  unfold pushBench
  dsimp only
  split
  · rw [State.bench_setBench, if_neg (Ne.symm h)]
  · rfl

theorem bench_finishSession_other (h : q ≠ p) : (finishSession p ss reason next s).bench q = s.bench q := by
  unfold finishSession
  dsimp only
  split <;> simp [unbindSerial, bench_pushBench_other h, State.bench_setBench, State.setCtx, Ne.symm h]

theorem tx_finishSession (hp : (s.bench p).present = true) :
    ((finishSession p ss reason next s).bench p).tx = (s.bench p).tx ++ haltOf reason := by
  unfold finishSession
  dsimp only
  split
  next h => simp [unbindSerial, pushBench, State.setCtx, haltOf, h, hp]
  next h => simp [unbindSerial, State.setCtx, haltOf, h]

theorem flagged_setFlagIf (b : Bool) (f : Event) (s : State) : flagged f (s.setFlagIf b f) = (flagged f s || b) := by
  cases b with
  | true => exact (flagged_setFlag_self f s).trans (Bool.or_true _).symm
  | false => exact (Bool.or_false _).symm

theorem fault_finishSession :
    flagged .terminalFault (finishSession p ss reason next s) = (flagged .terminalFault s || decide (reason = .idleTimeout)) := by
  unfold finishSession
  rw [flagged_setFlagIf]
  congr 1
  refine flagged_congr ?_
  split <;> simp [unbindSerial]

/-- A session's end, once its step is dealt with. -/
theorem sessionEnded_finishSession (hw : Wound s w)
    (hnext : next = match s.ctx p with
      | .preparing _ =>
        if jobPlace (benchRequester p) s = .running then .draining reason (reason = .detached)
        else if reason = .detached then .vacant else .finished
      | _ => if reason = .detached then .vacant else .finished)
    (hoffered : ∀ ss' timer ps, s.ctx p = .offered ss' timer → s.step p = some ps →
      StepRecorded p (.voided ps.facts ps.expected reason) s w ∧ StepReleased ps.facts s w)
    (hwaiting : ∀ ss' ps, s.ctx p = .preparing ss' → jobPlace (benchRequester p) s ≠ .running → s.step p = some ps →
      StepRecorded p (.voided ps.facts none reason) s w ∧ StepReleased ps.facts s w
        ∧ w.engine.waiting.get (benchRequester p) = none)
    (hrunning : ∀ ss', s.ctx p = .preparing ss' → jobPlace (benchRequester p) s = .running →
      w.store.steps = s.store.steps ∧ w.store.slots = s.store.slots ∧ w.journal = s.journal
        ∧ w.engine.running = s.engine.running.map fun j => { j with orphaned := true }) :
    SessionEnded reason p ss s (finishSession p ss reason next w) := by
  have hjournal : (finishSession p ss reason next w).journal = w.journal := by
    simp [State.journal]
  have hslot (i : SlotIx) : (finishSession p ss reason next w).slot i = w.slot i := by simp [State.slot]
  have hstep : (finishSession p ss reason next w).step p = w.step p := by simp [State.step]
  have hrecorded {body : RecordBody} (h : StepRecorded p body s w) : StepRecorded p body s (finishSession p ss reason next w) := by
    unfold StepRecorded
    rw [hjournal, hstep]
    exact h
  have hreleased {facts : StepFacts} (h : StepReleased facts s w) : StepReleased facts s (finishSession p ss reason next w) := by
    unfold StepReleased
    simp only [hslot]
    exact h
  refine ⟨?_, fun q hq => ?_, ?_, ?_, ?_, ?_, fun hp => ?_, ?_, ?_⟩
  · rw [finishSession_registry, hw.registry]
  · rw [bench_finishSession_other hq, hw.bench]
  · rw [ctx_finishSession, if_pos rfl]
    exact hnext
  · intro ss' timer ps hx hs
    obtain ⟨hr, hl⟩ := hoffered ss' timer ps hx hs
    exact ⟨hrecorded hr, hreleased hl⟩
  · intro ss' ps hx hj hs
    obtain ⟨hr, hl, he⟩ := hwaiting ss' ps hx hj hs
    exact ⟨hrecorded hr, hreleased hl, by simpa using he⟩
  · intro ss' hx hj
    obtain ⟨hsteps, hslots, hj, he⟩ := hrunning ss' hx hj
    rw [hjournal]
    exact ⟨by simpa using hsteps, by simpa using hslots, hj, by simpa using he⟩
  · rw [tx_finishSession ((congrArg Bench.present (hw.bench p)).trans hp), hw.bench, List.mem_append, mem_haltOf]
  · exact fault_finishSession.trans (congrArg (· || _) hw.fault)
  · exact ⟨by simpa using hw.custodians, by simpa using hw.profile, by simpa using hw.line, by simpa using hw.importWork⟩

/-! ### The three states with a session (R166) -/

theorem endSession_of_identified (hx : s.ctx p = .identified ss timer) :
    endSession reason p s = finishSession p ss reason (endedContext reason) s := by
  simp only [endSession, hx]

theorem endSession_of_offered (hx : s.ctx p = .offered ss timer) : endSession reason p s =
    finishSession p ss reason (endedContext reason) (voidStep p PendingStep.expected reason s) := by
  simp only [endSession, hx]

theorem endSession_of_running (hx : s.ctx p = .preparing ss) (hj : jobPlace (benchRequester p) s = .running) :
    endSession reason p s =
      finishSession p ss reason (.draining reason (reason = .detached)) (withdrawJob (benchRequester p) s) := by
  simp only [endSession, hx, hj, if_true]

theorem endSession_of_waiting (hx : s.ctx p = .preparing ss) (hj : jobPlace (benchRequester p) s ≠ .running) :
    endSession reason p s = finishSession p ss reason (endedContext reason)
      (voidStep p (fun _ => none) reason (withdrawJob (benchRequester p) s)) := by
  simp only [endSession, hx, hj, if_false]

theorem sessionEnded_endSession (hss : sessionOf? (s.ctx p) = some ss) (hn : s.journal.reservations.Nodup) :
    SessionEnded reason p ss s (endSession reason p s) := by
  cases hx : s.ctx p <;> simp only [hx, sessionOf?, reduceCtorEq, Option.some.injEq] at hss <;> subst hss
  case identified =>
    rw [endSession_of_identified hx]
    exact sessionEnded_finishSession (.refl s) (by rw [hx]; rfl) (by simp [hx]) (by simp [hx]) (by simp [hx])
  case offered =>
    rw [endSession_of_offered hx]
    refine sessionEnded_finishSession wound_voidStep (by rw [hx]; rfl) (fun _ _ ps _ hs => ?_) (by simp [hx]) (by simp [hx])
    obtain ⟨hreleased, hrecorded⟩ := endStep_spec p ps (.voided ps.facts ps.expected reason) s
    rw [voidStep_of_some hs]
    exact ⟨hrecorded hn, hreleased⟩
  case preparing =>
    by_cases hj : jobPlace (benchRequester p) s = .running
    · rw [endSession_of_running hx hj]
      refine sessionEnded_finishSession (wound_withdrawJob _) (by simp only [hx, hj, if_true]) (by simp [hx]) (by simp [hj])
        fun _ _ _ => ?_
      rw [withdrawJob_of_running hj]
      exact ⟨rfl, rfl, rfl, rfl⟩
    · rw [endSession_of_waiting hx hj]
      refine sessionEnded_finishSession ((wound_withdrawJob _).trans wound_voidStep) (by simp only [hx, hj, if_false]; rfl)
        (by simp [hx]) (fun _ ps _ _ hs => ?_) (by simp [hj])
      have hstore : (withdrawJob (benchRequester p) s).store = s.store := by rw [withdrawJob_frame]
      have hwaiting : (withdrawJob (benchRequester p) s).engine.waiting.get (benchRequester p) = none := waiting_withdrawJob
      generalize withdrawJob (benchRequester p) s = v at hstore hwaiting ⊢
      obtain ⟨hreleased, hrecorded⟩ := endStep_spec p ps (.voided ps.facts none reason) v
      rw [voidStep_of_some ((congrArg (fun x : Store => x.steps.get p) hstore).trans hs)]
      exact ⟨stepRecorded_before (hrecorded (by rwa [State.journal, hstore])) hstore, stepReleased_before hreleased hstore,
        by simpa using hwaiting⟩

theorem present_finishSession : ((finishSession p ss reason next s).bench p).present = (s.bench p).present := by
  unfold finishSession
  dsimp only
  split
  · by_cases hp : (s.bench p).present = true <;> simp [unbindSerial, pushBench, State.setCtx, hp]
  · simp [unbindSerial, State.setCtx]

/-- A session's end leaves its terminal where it is. -/
theorem present_endSession (hss : sessionOf? (s.ctx p) = some ss) : ((endSession reason p s).bench p).present = (s.bench p).present := by
  have hkept {v : State} {ss : Session} {next : PortContext} (h : Wound s v) :
      ((finishSession p ss reason next v).bench p).present = (s.bench p).present :=
    present_finishSession.trans (congrArg Bench.present (h.bench p))
  cases hx : s.ctx p <;> simp only [hx, sessionOf?, reduceCtorEq] at hss
  case identified => exact endSession_of_identified hx ▸ hkept (.refl s)
  case offered => exact endSession_of_offered hx ▸ hkept wound_voidStep
  case preparing =>
    by_cases hj : jobPlace (benchRequester p) s = .running
    · exact endSession_of_running hx hj ▸ hkept (wound_withdrawJob _)
    · exact endSession_of_waiting hx hj ▸ hkept ((wound_withdrawJob _).trans wound_voidStep)

/-! ### The rows of the bench that end a session (R153, R165, R171) -/

theorem bye_of_session (hss : sessionOf? (s.ctx p) = some ss) : bye p s = verdict p .closed (endSession .abandoned p s) := by
  cases hx : s.ctx p <;> simp only [hx, sessionOf?, reduceCtorEq] at hss <;> simp only [bye, hx]

theorem sessionOf?_restarted {t : Timer} {c : PortContext} : sessionOf? (restarted t c) = sessionOf? c := by cases c <;> rfl

theorem contextDetached_of_session (hss : sessionOf? (s.ctx p) = some ss) : contextDetached p s = endSession .detached p s := by
  cases hx : s.ctx p <;> simp only [hx, sessionOf?, reduceCtorEq] at hss <;> simp only [contextDetached, hx]

/-- What the departure of the terminal makes of a context without a session (R153). -/
def goneContext : PortContext → PortContext
  | .attached => .vacant
  | .finished => .vacant
  | .draining reason _ => .draining reason true
  | c => c

theorem setCtx_of_ctx {c : PortContext} (h : s.ctx p = c) : s.setCtx p c = s := by
  rw [← h, State.setCtx]
  exact State.setBench_self ..

theorem endSession_of_none (hss : sessionOf? (s.ctx p) = none) : endSession reason p s = s := by
  cases hx : s.ctx p <;> simp only [hx, sessionOf?, reduceCtorEq] at hss <;> simp only [endSession, hx]

theorem contextDetached_of_none (hss : sessionOf? (s.ctx p) = none) : contextDetached p s = s.setCtx p (goneContext (s.ctx p)) := by
  have hkept := endSession_of_none (reason := .detached) hss
  cases hx : s.ctx p <;> simp only [hx, sessionOf?, reduceCtorEq] at hss
  case off | vacant =>
    refine Eq.trans ?_ (setCtx_of_ctx hx).symm
    simp only [contextDetached, hx, hkept]
  all_goals simp only [contextDetached, goneContext, hx]

theorem sessionIdleExpired_of_due (h : (s.ctx p).idleDue = true) : sessionIdleExpired p s = endSession .idleTimeout p s := if_pos h

theorem sessionIdleExpired_of_early (h : (s.ctx p).idleDue = false) : sessionIdleExpired p s = s := by
  rw [sessionIdleExpired, h]
  rfl

section
variable (hrun : s.running = true)
include hrun

theorem exec_sessionIdleExpiry : exec (.sessionIdleExpiry p) s = .next (sessionIdleExpired p s) :=
  congrArg Host.Outcome.next (if_pos hrun)

theorem exec_terminalPresentDeasserted (hp : (s.bench p).present = true) : exec (.terminalPresentDeasserted p) s =
    .next (contextDetached p (s.setBench p { s.bench p with present := false, rx := .idle, tx := [] })) := by
  refine congrArg Host.Outcome.next ?_
  simp only [terminalLeaves, hp, hrun, Bool.not_true, Bool.false_eq_true, if_false]

theorem exec_terminalPresentAsserted (hp : (s.bench p).present = false) : exec (.terminalPresentAsserted p) s =
    .next (s.setBench p
      { s.bench p with present := true, ctx := if s.ctx p = .vacant then .attached else s.ctx p }) := by
  refine congrArg Host.Outcome.next ?_
  have hctx : (s.bench p).ctx = s.ctx p := rfl
  by_cases hx : s.ctx p = .vacant
  · simp [terminalArrives, hp, hrun, hctx, hx, State.setCtx]
  · simp [terminalArrives, hp, hrun, hctx, hx]

end

end

end Sys2Proof.Machine

open Sys2Proof Sys2Proof.Machine Sys2Proof.Safety

/-- Settles O50: every way to end a session is `endSession` with its reason, in the state that the arrival leaves. -/
theorem sessionsEndByTheirReason : Obligations.SessionsEndByTheirReason := by
  intro p s
  dsimp only
  have hgone : (s.setBench p { s.bench p with present := false, rx := .idle, tx := [] }).ctx p = s.ctx p := by
    rw [State.ctx, State.bench_setBench_self]
    rfl
  refine ⟨fun ss hss hn => ⟨fun hs => ?_, fun timer hrun hx => ⟨fun hdue => ?_, fun hearly => ?_⟩, fun hrun hp => ?_⟩,
    fun hx hrun => ?_, fun hss hrun hp => ?_, exec_terminalPresentAsserted⟩
  · have hssu : sessionOf? ((heardAt p s).ctx p) = some ss := by rw [heardAt_ctx_self, sessionOf?_restarted, hss]
    refine ⟨endSession .abandoned p (heardAt p s), ?_, sessionEnded_endSession hssu hn⟩
    rw [exec_bench_hears rfl hs]
    refine congrArg Host.Outcome.next ((bye_of_session hssu).trans (verdict_of_present ?_))
    exact (present_endSession hssu).trans (heardAt_present hs)
  · refine ⟨_, (exec_sessionIdleExpiry hrun).trans (congrArg Host.Outcome.next (sessionIdleExpired_of_due ?_)),
      sessionEnded_endSession hss hn⟩
    rcases hx with hx | hx <;> rw [hx] <;> exact decide_eq_true hdue
  · rw [exec_sessionIdleExpiry hrun, sessionIdleExpired_of_early]
    rcases hx with hx | hx <;> rw [hx] <;> exact decide_eq_false (Nat.not_le.2 hearly)
  · rw [exec_terminalPresentDeasserted hrun hp, contextDetached_of_session (hgone.symm ▸ hss)]
    exact ⟨_, rfl, sessionEnded_endSession (hgone.symm ▸ hss) hn⟩
  · rw [exec_sessionIdleExpiry hrun, sessionIdleExpired_of_early]
    cases hc : s.ctx p with
    | identified ss timer => exact absurd hc (hx ss timer).1
    | offered ss timer => exact absurd hc (hx ss timer).2
    | off | vacant | attached | preparing | draining | finished => rfl
  · rw [exec_terminalPresentDeasserted hrun hp, contextDetached_of_none (hgone.symm ▸ hss), hgone]
    rfl

end

section
/-! A PREPARE job completes: the KEY of a waiting context, the drain of an orphaned one (R100, R137-R140, R144, R161, R168; O45). -/

namespace Sys2Proof.Machine
open Sys2Proof.Safety

section
variable {s t u : State} {p q : Port} {job : Job} {c : Instr} {ss : Session} {ps : PendingStep} {reason : VoidReason} {mark : Bool}
  {envelope : TerminalEnvelope} {kcv : Kcv} {tag : Byte} {source cover base : KeyBytes} {slot usage keySet counter : Nat}

/-! ### What the job hands over (R138-R140, R144) -/

/-- What an envelope and its KCV say of the key that they carry. -/
structure Carries (cover key : KeyBytes) (slot usage : Nat) (derivation : Option (Nat × Nat)) (envelope : TerminalEnvelope)
    (kcv : Kcv) : Prop where
  kcv : kcv = Config.kcv key
  slot : envelope.terminalSlot = slot
  usage : envelope.usage = usage
  length : envelope.length = key.length
  derivation : envelope.derivation = derivation
  wrapped : WrappedUnder cover envelope key

theorem carries_wrapKey (cover key : KeyBytes) (slot usage : Nat) (derivation : Option (Nat × Nat)) :
    Carries cover key slot usage derivation (wrapKey cover key slot usage derivation) (Config.kcv key) :=
  ⟨rfl, rfl, rfl, rfl, rfl, rfl, wrappedBytes_length .., recoveredKey_wrappedBytes .., rfl⟩

theorem length_deriveKey : (deriveKey base keySet counter).length = base.length := by simp [deriveKey]

/-- A PREPARE job hands over what its inputs ask for. -/
theorem prepareResult_carries (h : job.inputs.isPrepareShared = true ∨ job.inputs.isPrepareDerived = true) :
    ∃ envelope kcv, prepareResult job.inputs = some (envelope, kcv)
      ∧ (∀ source cover slot usage, job.inputs = .prepareShared source cover slot usage →
        Carries cover source slot usage none envelope kcv)
      ∧ ∀ base keySet counter cover slot usage, job.inputs = .prepareDerived base keySet counter cover slot usage →
        Carries cover (deriveKey base keySet counter) slot usage (some (keySet, counter)) envelope kcv := by
  cases hj : job.inputs <;> simp only [hj, JobInputs.isPrepareShared, JobInputs.isPrepareDerived, Bool.false_eq_true, or_false] at h
  case prepareShared =>
    refine ⟨_, _, rfl, fun source cover slot usage he => ?_, nofun⟩
    cases he
    exact carries_wrapKey ..
  case prepareDerived =>
    refine ⟨_, _, rfl, nofun, fun base keySet counter cover slot usage he => ?_⟩
    cases he
    exact carries_wrapKey ..

/-! ### The job is handed to its port (R137, R161) -/

theorem requesterPort_benchRequester : requesterPort (benchRequester p) = some p := by
  rw [requesterPort, dif_pos (by exact p.isLt)]
  rfl

theorem exec_prepareDone (hrun : s.running = true) (hj : s.engine.running = some job)
    (hc : c = .prepareSharedDone ∧ job.inputs.isPrepareShared = true ∨ c = .prepareDerivedDone ∧ job.inputs.isPrepareDerived = true) :
    exec c s = .next (grantNext (prepareHandled job (jobTaken s))) := by
  rcases hc with ⟨rfl, hf⟩ | ⟨rfl, hf⟩
  · exact congrArg Host.Outcome.next (completeJob_of_running hrun hj hf)
  · exact congrArg Host.Outcome.next (completeJob_of_running hrun hj hf)

section
variable (hr : job.requester = benchRequester p)
include hr

theorem prepareHandled_of_preparing (ho : job.orphaned = false) (hz : job.zeroised = false) (hx : s.ctx p = .preparing ss)
    (hres : prepareResult job.inputs = some (envelope, kcv)) : prepareHandled job s = offerStep p ss envelope kcv s := by
  simp only [prepareHandled, hr, requesterPort_benchRequester, ho, hz, hx, hres, Bool.false_eq_true, if_false]

theorem prepareHandled_of_orphaned (ho : job.orphaned = true) : prepareHandled job s = drainComplete p s := by
  simp only [prepareHandled, hr, requesterPort_benchRequester, ho, if_true]

end

theorem offerStep_of_some (hs : s.step p = some ps) (hp : (s.bench p).present = true) : offerStep p ss envelope kcv s =
    sentTo p (.key ps.facts.index envelope)
      ((s.setStep p (some { ps with expected := some kcv })).setCtx p (.offered ss (sessionTimer s))) := by
  simp only [offerStep, hs]
  exact pushBench_setCtx (w := s.setStep p (some { ps with expected := some kcv })) hp

/-! ### A drain that ends (R100, R168) -/

theorem drainedContext_eq {present mark : Bool} :
    drainedContext present mark = if present = false then .vacant else if mark then .attached else .finished := by
  cases present <;> rfl

theorem drainComplete_of_draining (hx : s.ctx p = .draining reason mark) (hs : s.step p = some ps) : drainComplete p s =
    closeFinish ((endStep p ps (.voided ps.facts none reason) s).setCtx p (drainedContext (s.bench p).present mark)) := by
  have hbench : (endStep p ps (.voided ps.facts none reason) s).bench p = s.bench p := by simp
  simp only [drainComplete, hx, voidStep_of_some hs, hbench]

theorem anyDraining_iff : anyDraining s = true ↔ ∃ q reason mark, s.ctx q = .draining reason mark := by
  simp only [anyDraining, List.any_eq_true]
  constructor
  · rintro ⟨q, -, hq⟩
    cases hx : s.ctx q <;> rw [hx] at hq <;> cases hq
    exact ⟨q, _, _, hx⟩
  · rintro ⟨q, reason, mark, hx⟩
    exact ⟨q, mem_allPorts q, by rw [hx]; rfl⟩

theorem closeFinish_of_open (h : ∀ tag, s.line ≠ .closing tag) : closeFinish s = s := by
  unfold closeFinish
  split
  next tag hl => exact absurd hl (h tag)
  next => rfl

theorem closeFinish_of_draining (h : anyDraining s = true) : closeFinish s = s := by
  unfold closeFinish
  split
  · exact if_pos h
  · rfl

theorem closeFinish_of_drained (hl : s.line = .closing tag) (h : anyDraining s = false) :
    closeFinish s = respond tag 0x12 .ok false .nothing (setLine .setup s) := by
  simp only [closeFinish, hl, h, Bool.false_eq_true, if_false]

/-- The close that waited for the last drain is answered, and no other line moves. -/
structure CloseAnswered (s t : State) : Prop where
  waits : anyDraining s = true → t.line = s.line ∧ t.responses = s.responses
  answers : ∀ tag, s.line = .closing tag → anyDraining s = false → t.line = .setup ∧ t.responses = s.responses ++
    [{ tag := tag, kind := 0x12, status := .ok, changed := false, body := .nothing }]
  otherwise : (∀ tag, s.line ≠ .closing tag) → t.line = s.line ∧ t.responses = s.responses

theorem closeAnswered_closeFinish (s : State) : CloseAnswered s (closeFinish s) where
  waits h := by rw [closeFinish_of_draining h]; exact ⟨rfl, rfl⟩
  answers tag hl h := by
    have hne : s.line ≠ .setup := by rw [hl]; nofun
    rw [closeFinish_of_drained hl h, setLine, if_neg hne]
    exact ⟨rfl, rfl⟩
  otherwise h := by rw [closeFinish_of_open h]; exact ⟨rfl, rfl⟩

theorem stepReleased_after {facts : StepFacts} (h : StepReleased facts s t) (hu : u.store = t.store) : StepReleased facts s u := by
  have hslot (i : SlotIx) : u.slot i = t.slot i := by rw [State.slot, hu, State.slot]
  unfold StepReleased at h ⊢
  simpa only [hslot] using h

theorem stepRecorded_after {body : RecordBody} (h : StepRecorded p body s t) (hu : u.store = t.store) : StepRecorded p body s u := by
  have hjournal : u.journal = t.journal := by rw [State.journal, hu, State.journal]
  have hstep : u.step p = t.step p := by rw [State.step, hu, State.step]
  unfold StepRecorded at h ⊢
  simpa only [hjournal, hstep] using h

/-- The completion of an orphaned job: the step ends for the reason kept, the context leaves DRAINING. -/
structure Drained (p : Port) (ps : PendingStep) (reason : VoidReason) (mark : Bool) (s t : State) : Prop where
  recorded : s.journal.reservations.Nodup → StepRecorded p (.voided ps.facts none reason) s t
  released : StepReleased ps.facts s t
  ctx : t.ctx p = if (s.bench p).present = false then .vacant else if mark then .attached else .finished
  others : ∀ q, q ≠ p → t.bench q = s.bench q
  closing : ∀ tag, s.line = .closing tag →
    ((∃ q reason' mark', t.ctx q = .draining reason' mark') → t.line = s.line ∧ t.responses = s.responses)
      ∧ ((∀ q reason' mark', t.ctx q ≠ .draining reason' mark') → t.line = .setup ∧ t.responses = s.responses ++
        [{ tag := tag, kind := 0x12, status := .ok, changed := false, body := .nothing }])
  otherwise : (∀ tag, s.line ≠ .closing tag) → t.line = s.line ∧ t.responses = s.responses

theorem drained_drainComplete (hx : s.ctx p = .draining reason mark) (hs : s.step p = some ps) :
    Drained p ps reason mark s (grantNext (drainComplete p s)) := by
  rw [drainComplete_of_draining hx hs]
  have hclosed := stepClosed_endStep p ps (.voided ps.facts none reason) s
  generalize endStep p ps (.voided ps.facts none reason) s = w at hclosed ⊢
  generalize hv : w.setCtx p (drainedContext (s.bench p).present mark) = v
  have hstore : (grantNext (closeFinish v)).store = w.store := by
    rw [grantNext_frame, closeFinish_frame, ← hv]
    rfl
  have hbench (q : Port) : (grantNext (closeFinish v)).bench q = v.bench q := by simp
  have hanswered := closeAnswered_closeFinish v
  have hline : (grantNext (closeFinish v)).line = (closeFinish v).line := by simp
  have hresponses : (grantNext (closeFinish v)).responses = (closeFinish v).responses := by simp
  generalize grantNext (closeFinish v) = t at hstore hbench hline hresponses ⊢
  have hctx (q : Port) : t.ctx q = v.ctx q := congrArg Bench.ctx (hbench q)
  have hvline : v.line = s.line := by rw [← hv]; exact hclosed.line
  have hvresponses : v.responses = s.responses := by rw [← hv]; exact hclosed.responses
  refine ⟨fun hn => stepRecorded_after (hclosed.recorded hn) hstore, stepReleased_after hclosed.released hstore, ?_,
    fun q hq => ?_, ?_, ?_⟩
  · rw [hctx, ← hv, ← drainedContext_eq, State.ctx_setCtx, if_pos rfl]
  · rw [hbench, ← hv, State.setCtx, State.bench_setBench, if_neg (Ne.symm hq), hclosed.bench]
  · simp only [hctx, hline, hresponses, ← hvline, ← hvresponses]
    refine fun tag htag => ⟨fun hd => hanswered.waits (anyDraining_iff.2 hd), fun hd => hanswered.answers tag htag ?_⟩
    rw [← Bool.not_eq_true, anyDraining_iff]
    exact fun ⟨q, reason, mark, h⟩ => hd q reason mark h
  · simp only [hline, hresponses, ← hvline, ← hvresponses]
    exact hanswered.otherwise

end

end Sys2Proof.Machine

open Sys2Proof Sys2Proof.Machine Sys2Proof.Safety

/-- Settles O45: the job is handed to its port, where it is offered, or where the drain that waited for it ends. -/
theorem prepareDoneOffersOrDrains : Obligations.PrepareDoneOffersOrDrains := by
  intro s job p c hrun hj hr hc
  rw [exec_prepareDone hrun hj hc]
  refine ⟨fun ss ps ho hz hx hs hp => ?_, fun reason mark ps ho hx hs hn => ?_⟩
  · obtain ⟨envelope, kcv, hres, hshared, hderived⟩ := prepareResult_carries (hc.imp And.right And.right)
    refine ⟨envelope, kcv, ?_, fun source cover slot usage h => ?_, fun base keySet counter cover slot usage h => ?_⟩
    · rw [prepareHandled_of_preparing (s := jobTaken s) hr ho hz hx hres, offerStep_of_some (s := jobTaken s) hs hp]
      rfl
    · obtain ⟨hkcv, hslot, husage, hlength, hderivation, hwrapped⟩ := hshared source cover slot usage h
      exact ⟨hkcv, hslot, husage, hlength, hderivation, hwrapped⟩
    · obtain ⟨hkcv, hslot, husage, hlength, hderivation, hwrapped⟩ := hderived base keySet counter cover slot usage h
      exact ⟨hkcv, hslot, husage, hlength.trans length_deriveKey, hderivation, hwrapped⟩
  · obtain ⟨hrecorded, hreleased, hctx, hothers, hclosing, hopen⟩ := drained_drainComplete (s := jobTaken s) hx hs
    rw [prepareHandled_of_orphaned hr ho]
    exact ⟨_, rfl, stepRecorded_before (hrecorded hn) rfl, stepReleased_before hreleased rfl, hctx, hothers, hclosing, hopen⟩

end

section
/-! Every session ends, port by port (R121, R130, R162, R166, R167, R173). -/

namespace Sys2Proof.Machine
open Sys2Proof.Safety

section
variable {s t u w : State} {p q : Port} {ps : PendingStep} {ss : Session} {m : BenchOut} {reason : VoidReason} {next : PortContext}
  {body b : RecordBody} {kcv : PendingStep → Option Kcv} {i : SlotIx}

/-! ### What grows, and what one port's end leaves another -/

/-- From `s` to `t` no record is lost, no message is taken back, no job is asked for, and the terminals stand as they were. -/
structure Grows (s t : State) : Prop where
  records : ∀ b ∈ recordBodies s, b ∈ recordBodies t
  sent : ∀ q, ∀ m ∈ (s.bench q).tx, m ∈ (t.bench q).tx
  waiting : ∀ r, s.engine.waiting.get r = none → t.engine.waiting.get r = none
  present : ∀ q, (t.bench q).present = (s.bench q).present

theorem Grows.refl (s : State) : Grows s s := ⟨fun _ h => h, fun _ _ h => h, fun _ h => h, fun _ => rfl⟩

theorem Grows.trans (h : Grows s t) (g : Grows t u) : Grows s u :=
  ⟨fun b hb => g.records b (h.records b hb), fun q m hm => g.sent q m (h.sent q m hm), fun r hr => g.waiting r (h.waiting r hr),
    fun q => (g.present q).trans (h.present q)⟩

/-- From `s` to `t` the port keeps its context, its step and the place of its job. -/
structure PortSame (p : Port) (s t : State) : Prop where
  ctx : t.ctx p = s.ctx p
  step : t.step p = s.step p
  place : jobPlace (benchRequester p) t = jobPlace (benchRequester p) s

theorem PortSame.refl (p : Port) (s : State) : PortSame p s s := ⟨rfl, rfl, rfl⟩

theorem PortSame.trans (h : PortSame p s t) (g : PortSame p t u) : PortSame p s u :=
  ⟨g.ctx.trans h.ctx, g.step.trans h.step, g.place.trans h.place⟩

/-! ### A step that ends, and its claims (R8, R11, R162) -/

theorem recordBodies_lowerInUse (h : b ∈ recordBodies s) (i : SlotIx) : b ∈ recordBodies (lowerInUse i s) := by
  obtain ⟨-, -, -, -, hrecords, -⟩ := lowerInUse_spec i s
  unfold recordBodies at h ⊢
  rcases hrecords with hr | ⟨-, -, n, g, pr, hr⟩ <;> rw [hr]
  · exact h
  · exact List.map_append ▸ List.mem_append_left _ h

theorem mem_recordBodies_endStep : body ∈ recordBodies (endStep p ps body s) :=
  recordBodies_lowerInUse (recordBodies_lowerInUse (by simp [recordBodies, writeRecord, Journal.append]) _) _

theorem recordBodies_endStep (h : b ∈ recordBodies s) : b ∈ recordBodies (endStep p ps body s) := by
  refine recordBodies_lowerInUse (recordBodies_lowerInUse ?_ _) _
  simpa [recordBodies, writeRecord, Journal.append] using .inl (by simpa [recordBodies] using h)

theorem inUse_lowerInUse (i j : SlotIx) : ((lowerInUse i s).slot j).inUse = (s.slot j).inUse - if i = j then 1 else 0 := by
  obtain ⟨hothers, hown, -⟩ := lowerInUse_spec i s
  split
  next h => exact h ▸ hown
  next h => exact congrArg Slot.inUse (hothers j h)

theorem inUse_endStep (j : SlotIx) : ((endStep p ps body s).slot j).inUse
    = (s.slot j).inUse - ((if ps.facts.source = j then 1 else 0) + if ps.facts.cover = j then 1 else 0) := by
  have hslot : ((writeRecord (.bench p) body s).setStep p none).slot j = s.slot j := by simp
  rw [endStep, inUse_lowerInUse, inUse_lowerInUse, hslot, Nat.sub_sub]

theorem inUse_voidStep (j : SlotIx) : ((voidStep p kcv reason s).slot j).inUse = (s.slot j).inUse - stepClaims s j p := by
  cases h : s.step p with
  | none => simp [voidStep_of_none h, stepClaims, h]
  | some ps => simp only [voidStep_of_some h, inUse_endStep, stepClaims, h]

theorem grows_voidStep : Grows s (voidStep p kcv reason s) where
  records b hb := by
    cases h : s.step p with
    | none => rwa [voidStep_of_none h]
    | some ps => rw [voidStep_of_some h]; exact recordBodies_endStep hb
  sent q m hm := by rwa [wound_voidStep.bench]
  waiting r hr := by simpa using hr
  present q := by rw [wound_voidStep.bench]

theorem portSame_voidStep (h : q ≠ p) : PortSame q s (voidStep p kcv reason s) where
  ctx := by simp
  step := by rw [step_voidStep, if_neg (Ne.symm h)]
  place := jobPlace_congr _ (by simp)

/-! ### A job withdrawn (R136) -/

theorem store_withdrawJob (r : Fin 10) : (withdrawJob r s).store = s.store := by rw [withdrawJob_frame]

theorem grows_withdrawJob (r : Fin 10) : Grows s (withdrawJob r s) where
  records b hb := by rwa [recordBodies, State.journal, store_withdrawJob]
  sent q m hm := by rwa [(wound_withdrawJob r).bench]
  waiting k hk := by
    unfold withdrawJob
    split
    · exact hk
    · by_cases h : r = k
      · exact (Tab.get_set ..).trans (if_pos h)
      · exact ((Tab.get_set ..).trans (if_neg h)).trans hk
    · exact hk
  present q := by rw [(wound_withdrawJob r).bench]

theorem benchRequester_injective (h : benchRequester p = benchRequester q) : p = q := Fin.ext (Fin.mk.inj h)

theorem jobPlace_withdrawJob_other {r k : Fin 10} (h : r ≠ k) : jobPlace k (withdrawJob r s) = jobPlace k s := by
  unfold withdrawJob
  split
  · rfl
  · simp only [jobPlace]
    rw [Tab.get_set, if_neg h]
  · simp only [jobPlace]
    cases s.engine.running <;> rfl

theorem portSame_withdrawJob (h : q ≠ p) : PortSame q s (withdrawJob (benchRequester p) s) where
  ctx := by simp
  step := by rw [State.step, store_withdrawJob, State.step]
  place := jobPlace_withdrawJob_other fun he => h (benchRequester_injective he).symm

/-! ### The end at one port (R166, R167) -/

theorem tx_finishSession_of_absent (hp : ¬(s.bench p).present = true) :
    ((finishSession p ss reason next s).bench p).tx = (s.bench p).tx := by
  unfold finishSession
  dsimp only
  split <;> simp [unbindSerial, pushBench, State.setCtx, hp]

theorem grows_finishSession : Grows s (finishSession p ss reason next s) where
  records b hb := by simpa [recordBodies, State.journal] using hb
  sent q m hm := by
    by_cases hq : q = p
    · subst hq
      by_cases hp : (s.bench q).present = true
      · rw [tx_finishSession hp]
        exact List.mem_append_left _ hm
      · rwa [tx_finishSession_of_absent hp]
    · rwa [bench_finishSession_other hq]
  waiting r hr := by simpa using hr
  present q := by
    by_cases hq : q = p
    · subst hq
      exact present_finishSession
    · rw [bench_finishSession_other hq]

theorem portSame_finishSession (h : q ≠ p) : PortSame q s (finishSession p ss reason next s) where
  ctx := by rw [ctx_finishSession, if_neg (Ne.symm h)]
  step := by simp [State.step]
  place := jobPlace_congr _ (by simp)

/-- What the end of the sessions asks of one port. -/
structure PortEnded (reason : VoidReason) (p : Port) (s t : State) : Prop where
  context : t.ctx p = endedBy reason s p
  offered : ∀ ss timer ps, s.ctx p = .offered ss timer → s.step p = some ps →
    t.step p = none ∧ RecordBody.voided ps.facts ps.expected reason ∈ recordBodies t
  waiting : ∀ ss ps, s.ctx p = .preparing ss → jobPlace (benchRequester p) s ≠ .running → s.step p = some ps →
    t.step p = none ∧ RecordBody.voided ps.facts none reason ∈ recordBodies t
      ∧ t.engine.waiting.get (benchRequester p) = none
  running : ∀ ss, s.ctx p = .preparing ss → jobPlace (benchRequester p) s = .running → t.step p = s.step p
  halted : inSession (s.ctx p) = true → (s.bench p).present = true → BenchOut.halt reason ∈ (t.bench p).tx

theorem endedBy_congr (h : PortSame p s t) : endedBy reason t p = endedBy reason s p := by
  rw [endedBy, endedBy, h.ctx, h.place]

theorem PortEnded.after (h : PortEnded reason p s t) (hs : PortSame p t u) (hg : Grows t u) : PortEnded reason p s u where
  context := hs.ctx.trans h.context
  offered ss timer ps hx hp := by
    obtain ⟨hstep, hrecord⟩ := h.offered ss timer ps hx hp
    exact ⟨hs.step.trans hstep, hg.records _ hrecord⟩
  waiting ss ps hx hj hp := by
    obtain ⟨hstep, hrecord, hnone⟩ := h.waiting ss ps hx hj hp
    exact ⟨hs.step.trans hstep, hg.records _ hrecord, hg.waiting _ hnone⟩
  running ss hx hj := hs.step.trans (h.running ss hx hj)
  halted hi hp := hg.sent p _ (h.halted hi hp)

theorem PortEnded.before (h : PortEnded reason p t u) (hs : PortSame p s t) (hp : (t.bench p).present = (s.bench p).present) :
    PortEnded reason p s u where
  context := h.context.trans (endedBy_congr hs)
  offered ss timer ps hx hstep := h.offered ss timer ps (hs.ctx.trans hx) (hs.step.trans hstep)
  waiting ss ps hx hj hstep := h.waiting ss ps (hs.ctx.trans hx) (by rwa [hs.place]) (hs.step.trans hstep)
  running ss hx hj := (h.running ss (hs.ctx.trans hx) (by rwa [hs.place])).trans hs.step
  halted hi hpresent := h.halted (by rwa [hs.ctx]) (hp.trans hpresent)

/-- One session's end, seen from its own port, from the others and from the part. -/
structure SweptAt (reason : VoidReason) (p : Port) (s t : State) : Prop where
  own : PortEnded reason p s t
  others : ∀ q, q ≠ p → PortSame q s t
  grows : Grows s t
  claims : ∀ i, (t.slot i).inUse = (s.slot i).inUse - if stepEnds s p then stepClaims s i p else 0

theorem slot_finishSession : (finishSession p ss reason next w).slot i = w.slot i := by simp [State.slot]

theorem recordBodies_finishSession : recordBodies (finishSession p ss reason next w) = recordBodies w := by
  simp [recordBodies, State.journal]

theorem step_voidStep_self : (voidStep p kcv reason s).step p = none := by rw [step_voidStep, if_pos rfl]

theorem mem_recordBodies_voidStep (h : s.step p = some ps) :
    RecordBody.voided ps.facts (kcv ps) reason ∈ recordBodies (voidStep p kcv reason s) := by
  rw [voidStep_of_some h]
  exact mem_recordBodies_endStep

section
variable (hh : reason.halts = true)
include hh

theorem endedContext_of_halts : endedContext reason = .finished := by
  rw [endedContext, if_neg]
  rintro rfl
  cases hh

theorem halted_finishSession (hw : Wound s w) (hp : (s.bench p).present = true) :
    BenchOut.halt reason ∈ ((finishSession p ss reason next w).bench p).tx := by
  rw [tx_finishSession ((congrArg Bench.present (hw.bench p)).trans hp), haltOf, if_pos hh]
  exact List.mem_append_right _ (List.mem_singleton_self _)

theorem sweptAt_endSession (p : Port) (s : State) : SweptAt reason p s (endSession reason p s) := by
  have hended := endedContext_of_halts hh
  cases hx : s.ctx p
  case identified ss timer =>
    rw [endSession_of_identified hx, hended]
    refine ⟨⟨?_, by simp [hx], by simp [hx], by simp [hx], fun _ hp => halted_finishSession hh (.refl s) hp⟩,
      fun q hq => portSame_finishSession hq, grows_finishSession, fun i => ?_⟩
    · rw [ctx_finishSession, if_pos rfl, endedBy, hx]
    · rw [slot_finishSession, stepEnds, hx]
      rfl
  case offered ss timer =>
    rw [endSession_of_offered hx, hended]
    refine ⟨⟨?_, fun _ _ ps _ hs => ⟨?_, ?_⟩, by simp [hx], by simp [hx], fun _ hp => halted_finishSession hh wound_voidStep hp⟩,
      fun q hq => (portSame_voidStep hq).trans (portSame_finishSession hq), grows_voidStep.trans grows_finishSession, fun i => ?_⟩
    · rw [ctx_finishSession, if_pos rfl, endedBy, hx]
    · rw [step_finishSession, step_voidStep_self]
    · rw [recordBodies_finishSession]
      exact mem_recordBodies_voidStep hs
    · rw [slot_finishSession, inUse_voidStep, stepEnds, hx]
      rfl
  case preparing ss =>
    by_cases hj : jobPlace (benchRequester p) s = .running
    · rw [endSession_of_running hx hj]
      refine ⟨⟨?_, by simp [hx], by simp [hj], fun _ _ _ => ?_, fun _ hp => halted_finishSession hh (wound_withdrawJob _) hp⟩,
        fun q hq => (portSame_withdrawJob hq).trans (portSame_finishSession hq), (grows_withdrawJob _).trans grows_finishSession,
        fun i => ?_⟩
      · rw [ctx_finishSession, if_pos rfl, endedBy, hx]
        have hne : reason ≠ .detached := by
          rintro rfl
          cases hh
        simp [hj, hne]
      · rw [step_finishSession, State.step, store_withdrawJob, State.step]
      · rw [slot_finishSession, State.slot, store_withdrawJob, stepEnds, hx]
        simp [hj, State.slot]
    · rw [endSession_of_waiting hx hj, hended]
      refine ⟨⟨?_, by simp [hx], fun _ ps _ _ hs => ⟨?_, ?_, ?_⟩, by simp [hj],
        fun _ hp => halted_finishSession hh ((wound_withdrawJob _).trans wound_voidStep) hp⟩,
        fun q hq => ((portSame_withdrawJob hq).trans (portSame_voidStep hq)).trans (portSame_finishSession hq),
        ((grows_withdrawJob _).trans grows_voidStep).trans grows_finishSession, fun i => ?_⟩
      · rw [ctx_finishSession, if_pos rfl, endedBy, hx]
        simp [hj]
      · rw [step_finishSession, step_voidStep_self]
      · rw [recordBodies_finishSession]
        exact mem_recordBodies_voidStep (by rw [State.step, store_withdrawJob]; exact hs)
      · exact grows_finishSession.waiting _ (grows_voidStep.waiting _ waiting_withdrawJob)
      · have hclaims : stepClaims (withdrawJob (benchRequester p) s) i p = stepClaims s i p := by
          rw [stepClaims, stepClaims, State.step, store_withdrawJob, State.step]
        rw [slot_finishSession, inUse_voidStep, hclaims, State.slot, store_withdrawJob, stepEnds, hx]
        simp [hj, State.slot]
  all_goals
    rw [endSession_of_none (by rw [hx]; rfl)]
    exact ⟨⟨by rw [endedBy, hx], by simp [hx], by simp [hx], by simp [hx], by simp [hx, inSession]⟩,
      fun q _ => .refl q s, .refl s, fun i => by simp [stepEnds, hx]⟩

end

end

end Sys2Proof.Machine
end

section
/-! The end of every session, over the ports in turn (R121, R162, R173, R174). -/

namespace Sys2Proof.Machine
open Sys2Proof.Safety

section
variable {s t u : State} {p q : Port} {ss : Session} {reason : VoidReason} {l : List Port} {x : Serial} {e : Entry} {i : RegIx}

/-! ### The entries of the sessions that end (R121) -/

/-- A session at one of the ports is of the serial. -/
def Sits (l : List Port) (s : State) (x : Serial) : Prop := ∃ p ∈ l, ∃ ss, sessionOf? (s.ctx p) = some ss ∧ ss.serial = x

/-- From `s` to `t` the entries of the sessions at these ports are unbound, and every other place is as it was. -/
structure RegSwept (l : List Port) (s t : State) : Prop where
  placed : RegistryPlaced t
  unbound : ∀ i e, s.registry.get i = some e → Sits l s e.serial → t.registry.get i = some e.unbound
  kept : ∀ i e, s.registry.get i = some e → ¬Sits l s e.serial → t.registry.get i = some e
  free : ∀ i, s.registry.get i = none → t.registry.get i = none

theorem Entry.unbound_unbound (e : Entry) : e.unbound.unbound = e.unbound := rfl

theorem registry_endSession (hss : sessionOf? (s.ctx p) = some ss) :
    (endSession reason p s).registry = modifyEntry ss.serial Entry.unbound s.registry := by
  cases hx : s.ctx p <;> simp only [hx, sessionOf?, reduceCtorEq, Option.some.injEq] at hss <;> subst hss
  case identified => rw [endSession_of_identified hx, finishSession_registry]
  case offered => rw [endSession_of_offered hx, finishSession_registry, wound_voidStep.registry]
  case preparing =>
    by_cases hj : jobPlace (benchRequester p) s = .running
    · rw [endSession_of_running hx hj, finishSession_registry, (wound_withdrawJob _).registry]
    · rw [endSession_of_waiting hx hj, finishSession_registry, wound_voidStep.registry, (wound_withdrawJob _).registry]

/-- A place after the entry of a serial has been changed. -/
theorem get_modifyEntry {f : Entry → Entry} (hp : RegistryPlaced s) (he : s.registry.get i = some e) :
    (modifyEntry x f s.registry).get i = some (if e.serial = x then f e else e) := by
  split
  next h => rw [modifyEntry_of_placed hp he h, Tab.get_set, if_pos rfl]
  next h =>
    unfold modifyEntry
    split
    · exact he
    next j hj =>
      obtain ⟨-, e', he', hs⟩ := lookupSerial_some hj
      have hne : j ≠ i := by
        rintro rfl
        exact h (by rw [← hs, Option.some.inj (he.symm.trans he')])
      rw [Tab.get_modify_other _ _ _ _ hne]
      exact he

theorem get_modifyEntry_of_none {f : Entry → Entry} (he : s.registry.get i = none) :
    (modifyEntry x f s.registry).get i = none := by
  unfold modifyEntry
  split
  · exact he
  next j hj =>
    obtain ⟨-, e', he', -⟩ := lookupSerial_some hj
    have hne : j ≠ i := by
      rintro rfl
      cases he.symm.trans he'
    rw [Tab.get_modify_other _ _ _ _ hne]
    exact he

theorem sits_singleton : Sits [p] s x ↔ ∃ ss, sessionOf? (s.ctx p) = some ss ∧ ss.serial = x := by simp [Sits]

theorem sits_of_session (hss : sessionOf? (s.ctx p) = some ss) : Sits [p] s x ↔ x = ss.serial := by
  rw [sits_singleton, hss]
  exact ⟨fun ⟨_, h, hx⟩ => by cases h; exact hx.symm, fun h => ⟨ss, rfl, h.symm⟩⟩

theorem regSwept_endSession (hp : RegistryPlaced s) (reason : VoidReason) (p : Port) : RegSwept [p] s (endSession reason p s) := by
  cases hss : sessionOf? (s.ctx p) with
  | none =>
    have hnone (x : Serial) : ¬Sits [p] s x := by rw [sits_singleton, hss]; rintro ⟨_, h, -⟩; cases h
    rw [endSession_of_none hss]
    exact ⟨hp, fun _ _ _ h => absurd h (hnone _), fun _ _ he _ => he, fun _ he => he⟩
  | some ss =>
    have hreg := registry_endSession (reason := reason) hss
    have hmoves : RegMoves s.registry (endSession reason p s).registry := hreg ▸ RegMoves.modifyEntry fun e _ => e.later_unbound
    refine ⟨registryPlaced_iff.2 (hmoves.placed (registryPlaced_iff.1 hp)), fun i e he h => ?_, fun i e he h => ?_, fun i he => ?_⟩
    · rw [hreg, get_modifyEntry hp he, if_pos ((sits_of_session hss).1 h)]
    · rw [hreg, get_modifyEntry hp he, if_neg (mt (sits_of_session hss).2 h)]
    · rw [hreg, get_modifyEntry_of_none he]

theorem sits_cons : Sits (p :: l) s x ↔ Sits [p] s x ∨ Sits l s x := by simp [Sits]

/-- A session ends at one port, then those at the rest. -/
theorem RegSwept.trans (h : RegSwept [p] s t) (g : RegSwept l t u) (hs : ∀ x, Sits l t x ↔ Sits l s x) : RegSwept (p :: l) s u where
  placed := g.placed
  unbound i e he hsits := by
    by_cases hp : Sits [p] s e.serial
    · have ht := h.unbound i e he hp
      by_cases hl : Sits l t e.serial
      · exact (g.unbound i _ ht hl).trans (congrArg some e.unbound_unbound)
      · exact g.kept i _ ht hl
    · have hl := (hs _).2 ((sits_cons.1 hsits).resolve_left hp)
      exact g.unbound i e (h.kept i e he hp) hl
  kept i e he hsits := by
    rw [sits_cons, not_or] at hsits
    obtain ⟨hp, hl⟩ := hsits
    exact g.kept i e (h.kept i e he hp) (mt (hs _).1 hl)
  free i he := g.free i (h.free i he)

/-! ### The ports in turn (R173, R174) -/

/-- What the ends of the sessions at these ports, in this order, ask of the part. -/
structure SweptOver (reason : VoidReason) (l : List Port) (s t : State) : Prop where
  own : ∀ p ∈ l, PortEnded reason p s t
  others : ∀ p, p ∉ l → PortSame p s t
  grows : Grows s t
  claims : ∀ i, (t.slot i).inUse = (s.slot i).inUse - (l.map fun p => if stepEnds s p then stepClaims s i p else 0).sum
  registry : RegistryPlaced s → RegSwept l s t

theorem stepEnds_congr (h : PortSame p s t) : stepEnds t p = stepEnds s p := by rw [stepEnds, stepEnds, h.ctx, h.place]

theorem stepClaims_congr {i : SlotIx} (h : PortSame p s t) : stepClaims t i p = stepClaims s i p := by
  rw [stepClaims, stepClaims, h.step]

/-- The sessions at ports that another's end leaves alone end after it as before it. -/
theorem SweptOver.cons (h : SweptAt reason p s t) (hreg : RegistryPlaced s → RegSwept [p] s t) (g : SweptOver reason l t u)
    (hp : p ∉ l) : SweptOver reason (p :: l) s u := by
  have hsame : ∀ q ∈ l, PortSame q s t := fun q hq => h.others q fun he => hp (he ▸ hq)
  refine ⟨fun q hq => ?_, fun q hq => ?_, h.grows.trans g.grows, fun i => ?_, fun hplaced => ?_⟩
  · rcases List.mem_cons.1 hq with rfl | hq
    · exact h.own.after (g.others q hp) g.grows
    · exact (g.own q hq).before (hsame q hq) (h.grows.present q)
  · rw [List.mem_cons, not_or] at hq
    obtain ⟨hne, hq⟩ := hq
    exact (h.others q hne).trans (g.others q hq)
  · have hrest : (l.map fun q => if stepEnds t q then stepClaims t i q else 0)
        = l.map fun q => if stepEnds s q then stepClaims s i q else 0 :=
      List.map_congr_left fun q hq => by rw [stepEnds_congr (hsame q hq), stepClaims_congr (hsame q hq)]
    rw [g.claims, h.claims, hrest, List.map_cons, List.sum_cons, Nat.sub_sub]
  · refine (hreg hplaced).trans (g.registry (hreg hplaced).placed) fun x => ?_
    exact exists_congr fun q => and_congr_right fun hq => by rw [(hsame q hq).ctx]

theorem sweptOver_foldl (hh : reason.halts = true) (hl : l.Nodup) (s : State) :
    SweptOver reason l s (l.foldl (fun s p => endSession reason p s) s) := by
  induction l generalizing s with
  | nil =>
    refine ⟨by simp, fun p _ => .refl p s, .refl s, fun i => by simp,
      fun hp => ⟨hp, fun _ _ _ h => ?_, fun _ _ he _ => he, fun _ he => he⟩⟩
    obtain ⟨p, hp, -⟩ := h
    cases hp
  | cons p l ih =>
    obtain ⟨hp, hl⟩ := List.nodup_cons.1 hl
    exact .cons (sweptAt_endSession hh p s) (fun h => regSwept_endSession h reason p) (ih hl _) hp

theorem allPorts_nodup : allPorts.Nodup := by decide

theorem sweptOver_endAllSessions (hh : reason.halts = true) (s : State) : SweptOver reason allPorts s (endAllSessions reason s) :=
  sweptOver_foldl hh allPorts_nodup s

/-- Every session ends (R166, R173). -/
theorem sessionsEnded_endAllSessions (hh : reason.halts = true) (s : State) : SessionsEnded reason s (endAllSessions reason s) := by
  obtain ⟨hown, -, -, hclaims, hregistry⟩ := sweptOver_endAllSessions hh s
  have hall (p : Port) := hown p (mem_allPorts p)
  refine ⟨fun p => (hall p).context, fun p => (hall p).offered, fun p => (hall p).waiting, fun p => (hall p).running,
    fun p => (hall p).halted, fun hplaced i => ⟨fun e p ss he hss hserial => ?_, fun hnone => ?_⟩, hclaims⟩
  · exact (hregistry hplaced).unbound i e he ⟨p, mem_allPorts p, ss, hss, hserial⟩
  · cases he : s.registry.get i with
    | none => exact (hregistry hplaced).free i he
    | some e => exact (hregistry hplaced).kept i e he fun ⟨p, _, ss, hss, hserial⟩ => hnone e p ss he hss hserial

end

end Sys2Proof.Machine
end

section
/-! LINE_CLOSE (R100, R173; O15). -/

namespace Sys2Proof.Machine
open Sys2Proof.Safety

section
variable {s t u v w : State} {p q : Port} {ss : Session} {reason : VoidReason} {tag : Byte} {f : Event} {ps : PendingStep} {body : RecordBody}
  {next : PortContext} {kcv : PendingStep → Option Kcv}

/-! ### What the ends of the sessions keep of the part -/

theorem flagged_setFlag_mono {g : Event} (h : flagged f s = true) : flagged f (s.setFlag g) = true := by
  rw [flagged, State.setFlag, BitVec.getLsbD_or, Bool.or_eq_true]
  exact .inl h

theorem flagged_setFlagIf_mono {g : Event} {b : Bool} (h : flagged f s = true) : flagged f (s.setFlagIf b g) = true := by
  cases b
  · exact h
  · exact flagged_setFlag_mono h

/-- From `s` to `t` a flag set stays set. -/
def FlagsGrow (s t : State) : Prop := ∀ f, flagged f s = true → flagged f t = true

theorem FlagsGrow.of_eq (h : t.flags = s.flags) : FlagsGrow s t := fun _ hf => (flagged_congr h).trans hf

theorem FlagsGrow.trans (h : FlagsGrow s t) (g : FlagsGrow t u) : FlagsGrow s u := fun f hf => g f (h f hf)

theorem FlagsGrow.setFlag (h : FlagsGrow s t) (g : Event) : FlagsGrow s (t.setFlag g) := fun f hf => flagged_setFlag_mono (h f hf)

theorem flagsGrow_finishCeremony (w : CeremonyWork) (result : CeremonyResult) (run : CeremonyRun) :
    FlagsGrow s (finishCeremony w result run s) := by
  rw [finishCeremony_eq]
  exact (FlagsGrow.of_eq rfl).setFlag .ceremonyEnd

theorem flagsGrow_completeErasure (i : SlotIx) : FlagsGrow s (completeErasure i s) := by
  unfold completeErasure
  dsimp only
  split
  · split
    · refine FlagsGrow.trans (.of_eq ?_) (flagsGrow_finishCeremony _ _ _)
      rfl
    · exact .of_eq rfl
  · exact .of_eq rfl

theorem flagsGrow_lowerInUse (i : SlotIx) : FlagsGrow s (lowerInUse i s) := by
  unfold lowerInUse
  dsimp only
  split
  · split
    · refine FlagsGrow.trans (.of_eq ?_) (flagsGrow_completeErasure i)
      rfl
    · exact .of_eq rfl
  · exact .of_eq rfl

theorem flagsGrow_endStep : FlagsGrow s (endStep p ps body s) :=
  (FlagsGrow.of_eq (t := (writeRecord (.bench p) body s).setStep p none) rfl).trans
    ((flagsGrow_lowerInUse _).trans (flagsGrow_lowerInUse _))

theorem flagsGrow_voidStep : FlagsGrow s (voidStep p kcv reason s) := by
  cases h : s.step p with
  | none => rw [voidStep_of_none h]; exact .of_eq rfl
  | some ps => rw [voidStep_of_some h]; exact flagsGrow_endStep

theorem flagsGrow_finishSession : FlagsGrow s (finishSession p ss reason next s) := by
  unfold finishSession
  dsimp only
  refine fun f hf => flagged_setFlagIf_mono ((flagged_congr ?_).trans hf)
  split <;> simp [unbindSerial]

theorem flagsGrow_withdrawJob (r : Fin 10) : FlagsGrow s (withdrawJob r s) := .of_eq (by simp)

theorem flagsGrow_endSession (reason : VoidReason) (p : Port) : FlagsGrow s (endSession reason p s) := by
  unfold endSession
  split
  · exact flagsGrow_finishSession
  · exact flagsGrow_voidStep.trans flagsGrow_finishSession
  · dsimp only
    split
    · exact (flagsGrow_withdrawJob _).trans flagsGrow_finishSession
    · exact ((flagsGrow_withdrawJob _).trans flagsGrow_voidStep).trans flagsGrow_finishSession
  · exact .of_eq rfl

/-- What the ends of the sessions leave of the part beside slots, registry, journal, steps, ceremony, engine and links. -/
structure PartKept (s t : State) : Prop where
  custodians : t.store.custodians = s.store.custodians
  profile : t.profile = s.profile
  line : t.line = s.line
  stream : t.stream = s.stream
  importWork : t.importWork = s.importWork
  mask : t.mask = s.mask
  tamperLine : t.tamperLine = s.tamperLine
  responses : t.responses = s.responses
  outstanding : t.outstanding = s.outstanding
  flags : FlagsGrow s t

theorem PartKept.trans (h : PartKept s t) (g : PartKept t u) : PartKept s u :=
  ⟨g.custodians.trans h.custodians, g.profile.trans h.profile, g.line.trans h.line, g.stream.trans h.stream,
    g.importWork.trans h.importWork, g.mask.trans h.mask, g.tamperLine.trans h.tamperLine, g.responses.trans h.responses,
    g.outstanding.trans h.outstanding, h.flags.trans g.flags⟩

theorem partKept_endSession (reason : VoidReason) (p : Port) : PartKept s (endSession reason p s) := by
  have hf := endSession_frame reason p s
  exact ⟨(congrArg (fun x : State => x.store.custodians) hf :), (congrArg State.profile hf :), (congrArg State.line hf :),
    (congrArg State.stream hf :), (congrArg State.importWork hf :), (congrArg State.mask hf :), (congrArg State.tamperLine hf :),
    (congrArg State.responses hf :), (congrArg State.outstanding hf :), flagsGrow_endSession reason p⟩

theorem partKept_endAllSessions (reason : VoidReason) (s : State) : PartKept s (endAllSessions reason s) := by
  unfold endAllSessions
  induction allPorts generalizing s with
  | nil => exact ⟨rfl, rfl, rfl, rfl, rfl, rfl, rfl, rfl, rfl, .of_eq rfl⟩
  | cons p l ih => exact (partKept_endSession reason p).trans (ih _)

/-- The sessions' ends are about the store, the engine and the bench links only. -/
theorem sessionsEnded_congr (h : SessionsEnded reason s t) (hstore : u.store = s.store) (hengine : u.engine = s.engine)
    (hbenches : u.benches = s.benches) (hstore' : v.store = t.store) (hengine' : v.engine = t.engine)
    (hbenches' : v.benches = t.benches) : SessionsEnded reason u v := by
  cases s
  cases t
  cases u
  cases v
  cases hstore
  cases hengine
  cases hbenches
  cases hstore'
  cases hengine'
  cases hbenches'
  exact ⟨h.contexts, h.offered, h.waiting, h.running, h.halted, h.unbound, h.released⟩

/-! ### The close itself (R100) -/

theorem closeFinish_setup (hl : s.line = .closing tag) (h : anyDraining s = false) : closeFinish s =
    respond tag 0x12 .ok false .nothing { s with line := .setup, flags := s.flags ||| 0x200#12 } := by
  have hne : s.line ≠ .setup := by rw [hl]; nofun
  rw [closeFinish_of_drained hl h, setLine_of_ne hne]

theorem flagsGrow_closeFinish : FlagsGrow s (closeFinish s) := by
  unfold closeFinish
  split
  · split
    · exact .of_eq rfl
    · unfold setLine respond
      split
      · exact (FlagsGrow.of_eq rfl).setFlag _
      · exact fun f hf => flagged_setFlag_mono (s := s.setFlag .lineState) (flagged_setFlag_mono hf)
  · exact .of_eq rfl

/-- A close of LIVE or PAUSED from `s`, before it is answered. -/
structure Closing (tag : Byte) (s t : State) : Prop where
  sessions : SessionsEnded .lineClosed s t
  flag : flagged .lineState t = true
  custodians : t.store.custodians = s.store.custodians
  profile : t.profile = s.profile
  importWork : t.importWork = s.importWork
  generation : ∀ i, (t.slot i).generation = (s.slot i).generation
  line : t.line = .closing tag
  responses : t.responses = s.responses
  outstanding : t.outstanding = s.outstanding ++ [{ tag := tag, kind := 0x12, queued := false }]

theorem closing_endAllSessions (hl : s.line ≠ .closing tag) :
    Closing tag s (endAllSessions .lineClosed (setLine (.closing tag) (s.withRequest tag 0x12 0))) := by
  generalize hv : setLine (.closing tag) (s.withRequest tag 0x12 0) = v
  rw [setLine_of_ne (s := s.withRequest tag 0x12 0) hl] at hv
  have hkept := partKept_endAllSessions .lineClosed v
  have hended := sessionsEnded_endAllSessions (reason := .lineClosed) rfl v
  have hfreed : SlotsFreed v (endAllSessions .lineClosed v) := slotsFreed_endAllSessions .lineClosed
  generalize endAllSessions .lineClosed v = w at hkept hended hfreed ⊢
  subst hv
  exact ⟨sessionsEnded_congr hended rfl rfl rfl rfl rfl rfl, hkept.flags .lineState (flagged_setFlag_self .lineState s),
    hkept.custodians, hkept.profile, hkept.importWork, hfreed.generation, hkept.line, hkept.responses, hkept.outstanding⟩

/-- The answer of the close, given now or withheld, leaves the store, the engine and the bench links. -/
theorem closeFinish_rest (s : State) : (closeFinish s).store = s.store ∧ (closeFinish s).engine = s.engine
    ∧ (closeFinish s).benches = s.benches ∧ (closeFinish s).importWork = s.importWork := by
  rw [closeFinish_frame]
  exact ⟨rfl, rfl, rfl, rfl⟩

theorem outstanding_closeFinish (ho : s.outstanding = u.outstanding ++ [{ tag := tag, kind := 0x12, queued := false }])
    (hfresh : ∀ o ∈ u.outstanding, o.tag ≠ tag) (hl : s.line = .closing tag) (hd : anyDraining s = false) :
    (closeFinish s).outstanding = u.outstanding ++ [{ tag := tag, kind := 0x12, queued := true }] := by
  rw [closeFinish_setup hl hd]
  dsimp only [respond, State.setFlag]
  rw [ho, List.map_append, map_queued_of_fresh hfresh]
  simp

theorem exec_lineClose (ha : Accepts tag s) : exec (.lineClose tag) s = .next (lineClose tag (s.withRequest tag 0x12 0)) := by
  rw [exec_request (c := .lineClose tag) rfl, acceptRequest_of_accepts ha (Nat.zero_le _)]
  rfl

theorem lineClose_of_open (h : s.line = .live ∨ s.line = .paused) :
    lineClose tag s = closeFinish (endAllSessions .lineClosed (setLine (.closing tag) s)) := by
  rcases h with h | h <;> simp only [lineClose, h, beginClose]

end

end Sys2Proof.Machine

open Sys2Proof Sys2Proof.Machine Sys2Proof.Safety

/-- Settles O15: a close ends every session, and then waits for the contexts that drain. -/
theorem lineCloseEndsEverySession : Obligations.LineCloseEndsEverySession := by
  intro tag s ha
  rw [exec_lineClose ha]
  refine ⟨fun hl => ?_, fun kept hl => ?_, fun hl => ?_, fun hl => ?_⟩
  · have hline : (s.withRequest tag 0x12 0).line = .setup := hl
    simp only [lineClose, hline, respond_accepted ha]
  · have hline : (s.withRequest tag 0x12 0).line = .closing kept := hl
    simp only [lineClose, hline, refuse_accepted ha]
  · have hline : (s.withRequest tag 0x12 0).line = .zeroised := hl
    simp only [lineClose, hline, refuse_accepted ha]
  · have hne : s.line ≠ .closing tag := by rcases hl with hl | hl <;> rw [hl] <;> nofun
    rw [lineClose_of_open (s := s.withRequest tag 0x12 0) hl]
    have hclosing := closing_endAllSessions hne
    generalize endAllSessions .lineClosed (setLine (.closing tag) (s.withRequest tag 0x12 0)) = w at hclosing ⊢
    have hanswered := closeAnswered_closeFinish w
    obtain ⟨hstore, hengine, hbenches, himport⟩ := closeFinish_rest w
    have hctx (p : Port) : (closeFinish w).ctx p = w.ctx p := congrArg (fun b : Tab Bench 8 => (b.get p).ctx) hbenches
    refine ⟨_, rfl, sessionsEnded_congr hclosing.sessions rfl rfl rfl hstore hengine hbenches,
      flagsGrow_closeFinish .lineState hclosing.flag, ?_, ?_, himport.trans hclosing.importWork, fun i => ?_, ?_, ?_⟩
    · rw [hstore, hclosing.custodians]
    · rw [State.profile, hstore]
      exact hclosing.profile
    · rw [State.slot, hstore]
      exact hclosing.generation i
    · simp only [hctx]
      intro hd
      have hdraining := anyDraining_iff.2 hd
      obtain ⟨hline, hresponses⟩ := hanswered.waits hdraining
      refine ⟨hline.trans hclosing.line, hresponses.trans hclosing.responses, ?_⟩
      rw [closeFinish_of_draining hdraining]
      exact hclosing.outstanding
    · simp only [hctx]
      intro hd
      have hdrained : anyDraining w = false := by
        rw [← Bool.not_eq_true, anyDraining_iff]
        exact fun ⟨q, reason, mark, h⟩ => hd q reason mark h
      obtain ⟨hline, hresponses⟩ := hanswered.answers tag hclosing.line hdrained
      exact ⟨hline, hclosing.responses ▸ hresponses,
        outstanding_closeFinish hclosing.outstanding ha.2.2 hclosing.line hdrained⟩

end

section
/-! What a zeroise does before the sessions end and the journal is reached (R18, R61, R74, R103, R145). -/

namespace Sys2Proof.Machine
open Sys2Proof.Safety

section
variable {s t u v d : State} {p q : Port} {r k : Fin 10} {w : CeremonyWork} {reason : VoidReason} {ps : PendingStep} {body : RecordBody}
  {kcv : PendingStep → Option Kcv} {i : SlotIx} {tag : Byte}

/-! ### Seats, books and entries are not touched -/

/-- From `s` to `d` the ports, the claims, the registry and the records stand as they were. -/
structure Reached (s d : State) : Prop where
  benches : d.benches = s.benches
  steps : d.store.steps = s.store.steps
  registry : d.registry = s.registry
  records : d.journal.records = s.journal.records
  custodians : d.store.custodians = s.store.custodians
  profile : d.profile = s.profile
  mask : d.mask = s.mask
  tamperLine : d.tamperLine = s.tamperLine
  counts : CountsKept s d
  place : ∀ p, jobPlace (benchRequester p) d = jobPlace (benchRequester p) s
  flags : FlagsGrow s d

theorem Reached.trans (h : Reached s t) (g : Reached t u) : Reached s u :=
  ⟨g.benches.trans h.benches, g.steps.trans h.steps, g.registry.trans h.registry, g.records.trans h.records,
    g.custodians.trans h.custodians, g.profile.trans h.profile, g.mask.trans h.mask, g.tamperLine.trans h.tamperLine,
    h.counts.trans g.counts, fun p => (g.place p).trans (h.place p), h.flags.trans g.flags⟩

theorem Reached.refl (s : State) : Reached s s :=
  ⟨rfl, rfl, rfl, rfl, rfl, rfl, rfl, rfl, .of_eq rfl, fun _ => rfl, .of_eq rfl⟩

theorem flagsGrow_setLine (l : LineState) : FlagsGrow s (setLine l s) := by
  unfold setLine
  split
  · exact .of_eq rfl
  · exact (FlagsGrow.of_eq rfl).setFlag _

theorem flagsGrow_respond {kind : Byte} {st : Status} {changed : Bool} {b : ResponseBody} : FlagsGrow s (respond tag kind st changed b s) :=
  (FlagsGrow.of_eq rfl).setFlag _

theorem reached_setLine (l : LineState) : Reached s (setLine l s) := by
  have h := setLine_frame l s
  exact ⟨(congrArg State.benches h :), (congrArg (fun x : State => x.store.steps) h :), (congrArg State.registry h :),
    (congrArg (fun x : State => x.journal.records) h :), (congrArg (fun x : State => x.store.custodians) h :),
    (congrArg State.profile h :), (congrArg State.mask h :), (congrArg State.tamperLine h :),
    .of_eq (congrArg (fun x : State => x.store.slots) h :), fun p => jobPlace_congr _ (congrArg State.engine h :), flagsGrow_setLine l⟩

theorem reached_zeroiseClose (old : LineState) : Reached s (zeroiseClose old s) := by
  unfold zeroiseClose
  split
  · exact ⟨rfl, rfl, rfl, rfl, rfl, rfl, rfl, rfl, .of_eq rfl, fun _ => rfl, flagsGrow_respond⟩
  · exact .refl s

theorem reached_zeroiseSlots : Reached s (zeroiseSlots s) where
  benches := rfl
  steps := rfl
  registry := rfl
  records := rfl
  custodians := rfl
  profile := rfl
  mask := rfl
  tamperLine := rfl
  counts := ⟨fun i => by rw [State.slot, zeroiseSlots, Tab.get_map]; rfl⟩
  place _ := rfl
  flags := .of_eq rfl

theorem jobPlace_zeroise (r : Fin 10) (s : State) : jobPlace r { s with engine := s.engine.zeroise } = jobPlace r s := by
  unfold jobPlace Engine.zeroise
  dsimp only
  rw [Tab.get_map, Option.isSome_map]
  cases s.engine.running <;> rfl

theorem reached_zeroiseEngine : Reached s { s with engine := s.engine.zeroise } :=
  ⟨rfl, rfl, rfl, rfl, rfl, rfl, rfl, rfl, .of_eq rfl, fun _ => jobPlace_zeroise _ s, .of_eq rfl⟩

theorem reached_zeroiseStart : Reached s (zeroiseStart s) :=
  (((reached_setLine .zeroised).trans (reached_zeroiseClose s.line)).trans reached_zeroiseSlots).trans reached_zeroiseEngine

theorem benchRequester_ne_ceremony (p : Port) : ceremonyRequester ≠ benchRequester p := fun h => by
  have hval : (8 : Nat) = p.val := congrArg Fin.val h
  omega

theorem engine_abortCeremony (reason : AbortReason) (leaver : Option Cust) (w : CeremonyWork) :
    (abortCeremony reason leaver w s).engine = (withdrawJob ceremonyRequester s).engine :=
  (congrArg State.engine (abortCeremony_abortedTo reason leaver w s) :)

theorem records_abortCeremony (reason : AbortReason) (leaver : Option Cust) (w : CeremonyWork) :
    (abortCeremony reason leaver w s).journal.records = s.journal.records :=
  (congrArg (fun x : State => x.journal.records) (abortCeremony_abortedTo reason leaver w s) :)

theorem flags_abortCeremony (reason : AbortReason) (leaver : Option Cust) (w : CeremonyWork) :
    (abortCeremony reason leaver w s).flags = (s.setFlag .ceremonyEnd).flags :=
  (congrArg State.flags (abortCeremony_abortedTo reason leaver w s) :)

theorem last_abortCeremony (reason : AbortReason) (leaver : Option Cust) (w : CeremonyWork) :
    (abortCeremony reason leaver w s).ceremony.last
      = some { kind := w.params.kind, aborted := some reason, named := w.params.named } :=
  (congrArg (fun x : State => x.ceremony.last) (abortCeremony_abortedTo reason leaver w s) :)

theorem reached_abortCeremony (reason : AbortReason) (leaver : Option Cust) (w : CeremonyWork) :
    Reached s (abortCeremony reason leaver w s) := by
  have h := abortCeremony_frame reason leaver w s
  refine ⟨(congrArg State.benches h :), (congrArg (fun x : State => x.store.steps) h :), (congrArg State.registry h :),
    records_abortCeremony reason leaver w, (congrArg (fun x : State => x.store.custodians) h :), (congrArg State.profile h :),
    (congrArg State.mask h :), (congrArg State.tamperLine h :), countsKept_abortCeremony .., fun p => ?_,
    (FlagsGrow.of_eq rfl).trans fun f hf => (flagged_congr (flags_abortCeremony reason leaver w)).trans (flagged_setFlag_mono hf)⟩
  rw [jobPlace_congr _ (engine_abortCeremony reason leaver w), jobPlace_withdrawJob_other (benchRequester_ne_ceremony p)]

theorem reached_zeroiseCeremony : Reached s (zeroiseCeremony s) := by
  unfold zeroiseCeremony
  split
  · exact reached_abortCeremony ..
  · exact .refl s

theorem reached_zeroiseWork : Reached s (zeroiseWork s) :=
  reached_zeroiseCeremony.trans ⟨rfl, rfl, rfl, rfl, rfl, rfl, rfl, rfl, .of_eq rfl, fun _ => rfl, .of_eq rfl⟩

/-! ### The jobs (R145) -/

/-- Every job of the engine is marked zeroised. -/
structure AllZeroised (e : Engine) : Prop where
  running : ∀ j, e.running = some j → j.zeroised = true
  waiting : ∀ r j, e.waiting.get r = some j → j.zeroised = true

theorem allZeroised_zeroise (e : Engine) : AllZeroised e.zeroise where
  running j hj := by
    obtain ⟨j', -, rfl⟩ := Option.map_eq_some_iff.1 hj
    rfl
  waiting r j hj := by
    rw [Engine.zeroise, Tab.get_map] at hj
    obtain ⟨j', -, rfl⟩ := Option.map_eq_some_iff.1 hj
    rfl

theorem allZeroised_withdrawJob (h : AllZeroised s.engine) (r : Fin 10) : AllZeroised (withdrawJob r s).engine := by
  unfold withdrawJob
  split
  · exact h
  · refine ⟨h.running, fun k j hj => ?_⟩
    dsimp only at hj
    rw [Tab.get_set] at hj
    split at hj
    · cases hj
    · exact h.waiting k j hj
  · refine ⟨fun j hj => ?_, h.waiting⟩
    obtain ⟨j', hj', rfl⟩ := Option.map_eq_some_iff.1 hj
    exact h.running j' hj'

theorem allZeroised_endSession (h : AllZeroised s.engine) (reason : VoidReason) (p : Port) :
    AllZeroised (endSession reason p s).engine := by
  unfold endSession
  split
  · simpa using h
  · simpa using h
  · dsimp only
    split
    · simpa using allZeroised_withdrawJob h _
    · simpa using allZeroised_withdrawJob h _
  · exact h

theorem allZeroised_endAllSessions (h : AllZeroised s.engine) (reason : VoidReason) :
    AllZeroised (endAllSessions reason s).engine := by
  unfold endAllSessions
  induction allPorts generalizing s with
  | nil => exact h
  | cons p l ih => exact ih (allZeroised_endSession h reason p)

/-! ### The ceremony and the consoles (R61) -/

/-- From `s` to `t` no ceremony ends and no console is told anything. -/
structure Untold (s t : State) : Prop where
  ceremony : t.ceremony = s.ceremony
  consoles : t.consoles = s.consoles

theorem Untold.trans (h : Untold s t) (g : Untold t u) : Untold s u :=
  ⟨g.ceremony.trans h.ceremony, g.consoles.trans h.consoles⟩

theorem Untold.closed (h : Untold s t) (hs : ceremonyOpen s = false) : ceremonyOpen t = false := by
  unfold ceremonyOpen at hs ⊢
  rwa [h.ceremony]

theorem untold_completeErasure (hs : ceremonyOpen s = false) (i : SlotIx) : Untold s (completeErasure i s) := by
  unfold completeErasure
  dsimp only
  split
  next w hw => exact absurd hw (run_of_closed hs w)
  next => exact ⟨rfl, rfl⟩

theorem untold_lowerInUse (hs : ceremonyOpen s = false) (i : SlotIx) : Untold s (lowerInUse i s) := by
  unfold lowerInUse
  dsimp only
  split
  · split
    · have hset : Untold s (s.setSlot i { s.slot i with inUse := (s.slot i).inUse - 1 }) := ⟨rfl, rfl⟩
      exact hset.trans (untold_completeErasure (hset.closed hs) i)
    · exact ⟨rfl, rfl⟩
  · exact ⟨rfl, rfl⟩

theorem untold_endStep (hs : ceremonyOpen s = false) (p : Port) (ps : PendingStep) (body : RecordBody) :
    Untold s (endStep p ps body s) := by
  have hstep : Untold s ((writeRecord (.bench p) body s).setStep p none) := ⟨rfl, rfl⟩
  have hsource := hstep.trans (untold_lowerInUse (hstep.closed hs) ps.facts.source)
  exact hsource.trans (untold_lowerInUse (hsource.closed hs) ps.facts.cover)

theorem untold_voidStep (hs : ceremonyOpen s = false) : Untold s (voidStep p kcv reason s) := by
  unfold voidStep
  split
  · exact ⟨rfl, rfl⟩
  · exact untold_endStep hs ..

theorem untold_withdrawJob (r : Fin 10) : Untold s (withdrawJob r s) := by
  rw [withdrawJob_frame]
  exact ⟨rfl, rfl⟩

theorem untold_finishSession (p : Port) (ss : Session) (reason : VoidReason) (next : PortContext) :
    Untold s (finishSession p ss reason next s) := by
  rw [finishSession_frame]
  exact ⟨rfl, rfl⟩

theorem untold_endSession (hs : ceremonyOpen s = false) (reason : VoidReason) (p : Port) : Untold s (endSession reason p s) := by
  unfold endSession
  split
  · exact untold_finishSession ..
  · exact (untold_voidStep hs).trans (untold_finishSession ..)
  · dsimp only
    have hjob : Untold s (withdrawJob (benchRequester p) s) := untold_withdrawJob _
    split
    · exact hjob.trans (untold_finishSession ..)
    · exact (hjob.trans (untold_voidStep (hjob.closed hs))).trans (untold_finishSession ..)
  · exact ⟨rfl, rfl⟩

theorem untold_endAllSessions (hs : ceremonyOpen s = false) (reason : VoidReason) : Untold s (endAllSessions reason s) := by
  unfold endAllSessions
  induction allPorts generalizing s with
  | nil => exact ⟨rfl, rfl⟩
  | cons p l ih => exact (untold_endSession hs reason p).trans (ih ((untold_endSession hs reason p).closed hs))

end

end Sys2Proof.Machine
end

section
/-! Zeroise reaches every block (R18, R37, R58, R61, R74, R102-R104, R145, R186; O16). -/

namespace Sys2Proof.Machine
open Sys2Proof.Safety

section
variable {s t u v d e : State} {p q : Port} {w : CeremonyWork} {x : UnderCheck} {reason : VoidReason} {ps : PendingStep} {body b : RecordBody}
  {kcv : PendingStep → Option Kcv} {i : SlotIx} {tag : Byte} {cause : TamperCause} {l k : ConsoleLink} {c : Cust}

/-! ### The TAMPER records (R186) -/

theorem tamperRecords_lowerInUse (i : SlotIx) : tamperRecords (lowerInUse i s) = tamperRecords s := by
  obtain ⟨-, -, -, -, hrecords, -⟩ := lowerInUse_spec i s
  unfold tamperRecords
  rcases hrecords with hr | ⟨-, -, n, g, pr, hr⟩ <;> rw [hr]
  rw [List.filter_append]
  exact List.append_nil _

theorem tamperRecords_endStep (hb : body.isTamper = false) : tamperRecords (endStep p ps body s) = tamperRecords s := by
  rw [endStep, tamperRecords_lowerInUse, tamperRecords_lowerInUse]
  simp [tamperRecords, writeRecord, Journal.append, Record.isTamper, hb]

theorem tamperRecords_voidStep : tamperRecords (voidStep p kcv reason s) = tamperRecords s := by
  unfold voidStep
  split
  · rfl
  · exact tamperRecords_endStep rfl

theorem tamperRecords_of_store (h : t.store.journal = s.store.journal) : tamperRecords t = tamperRecords s := by
  rw [tamperRecords, State.journal, h, tamperRecords, State.journal]

theorem tamperRecords_endSession (reason : VoidReason) (p : Port) : tamperRecords (endSession reason p s) = tamperRecords s := by
  have hfinish (ss : Session) (next : PortContext) (u : State) : tamperRecords (finishSession p ss reason next u) = tamperRecords u :=
    tamperRecords_of_store (by simp)
  unfold endSession
  split
  · exact hfinish ..
  · exact (hfinish ..).trans tamperRecords_voidStep
  · dsimp only
    have hjob : tamperRecords (withdrawJob (benchRequester p) s) = tamperRecords s := tamperRecords_of_store (by simp)
    split
    · exact (hfinish ..).trans hjob
    · exact (hfinish ..).trans (tamperRecords_voidStep.trans hjob)
  · rfl

theorem tamperRecords_endAllSessions (reason : VoidReason) : tamperRecords (endAllSessions reason s) = tamperRecords s := by
  unfold endAllSessions
  induction allPorts generalizing s with
  | nil => rfl
  | cons p l ih => exact ih.trans (tamperRecords_endSession reason p)

/-- Zeroise reaches the journal, where a TAMPER record is counted or written last. -/
theorem tamperJournal_spec (cause : TamperCause) (s : State) :
    (tamperRecords s = [] → (tamperJournal cause s).journal.records.getLast?.map Record.body = some (.tamper cause 1))
      ∧ (tamperRecords s ≠ [] → tamperRecords (tamperJournal cause s) = (tamperRecords s).map Record.countTamper) := by
  have hjournal : (tamperJournal cause s).journal = s.journal.tamper cause := rfl
  refine ⟨fun h => ?_, fun h => ?_⟩
  · rw [hjournal, tamper_of_none h]
    simp [Journal.append]
  · rw [tamperRecords, hjournal, tamper_of_some h, List.filter_map, tamperRecords]
    exact congrArg (List.map Record.countTamper) (List.filter_congr fun r _ => isTamper_countTamper r)

/-- A record that is no TAMPER record stays as it is. -/
theorem mem_recordBodies_tamperJournal (hb : b.isTamper = false) (h : b ∈ recordBodies s) :
    b ∈ recordBodies (tamperJournal cause s) := by
  have hjournal : (tamperJournal cause s).journal = s.journal.tamper cause := rfl
  by_cases htamper : tamperRecords s = []
  · rw [recordBodies, hjournal, tamper_of_none htamper, Journal.append, List.map_append]
    exact List.mem_append_left _ h
  · obtain ⟨r, hr, rfl⟩ := List.mem_map.1 h
    rw [recordBodies, hjournal, tamper_of_some htamper, List.map_map]
    exact List.mem_map.2 ⟨r, hr, (body_countTamper r).trans (countedBody_of_not_tamper hb)⟩

/-! ### The sessions, from the state before the zeroise -/

theorem Reached.portSame (h : Reached s d) (p : Port) : PortSame p s d where
  ctx := by rw [State.ctx, State.bench, h.benches]; rfl
  step := by rw [State.step, h.steps, State.step]
  place := h.place p

theorem Reached.endedClaims (h : Reached s d) (i : SlotIx) : endedClaims d i = endedClaims s i := by
  unfold Safety.endedClaims
  refine congrArg List.sum (List.map_congr_left fun p _ => ?_)
  rw [stepEnds_congr (h.portSame p), stepClaims_congr (h.portSame p)]

/-- The sessions that ended after the rest was reached ended from the state before. -/
theorem Reached.sessionsEnded (h : Reached s d) (he : SessionsEnded reason d e) : SessionsEnded reason s e := by
  have hctx (p : Port) : d.ctx p = s.ctx p := (h.portSame p).ctx
  have hstep (p : Port) : d.step p = s.step p := (h.portSame p).step
  have hbench (p : Port) : d.bench p = s.bench p := by rw [State.bench, h.benches, State.bench]
  obtain ⟨hcontexts, hoffered, hwaiting, hrunning, hhalted, hunbound, hreleased⟩ := he
  simp only [hctx, hstep, hbench, h.place, h.registry, RegistryPlaced] at hoffered hwaiting hrunning hhalted hunbound
  exact ⟨fun p => (hcontexts p).trans (endedBy_congr (h.portSame p)), hoffered, hwaiting, hrunning, hhalted, hunbound,
    fun i => (hreleased i).trans (by rw [h.counts.inUse, h.endedClaims])⟩

/-- The journal that a zeroise leaves still holds the records of the steps that ended. -/
theorem sessionsEnded_tamperJournal (h : SessionsEnded reason s e) : SessionsEnded reason s ((tamperJournal cause e).setFlag .tamper) where
  contexts := h.contexts
  offered p ss timer ps hx hs := by
    obtain ⟨hstep, hrecord⟩ := h.offered p ss timer ps hx hs
    exact ⟨hstep, mem_recordBodies_tamperJournal rfl hrecord⟩
  waiting p ss ps hx hj hs := by
    obtain ⟨hstep, hrecord, hnone⟩ := h.waiting p ss ps hx hj hs
    exact ⟨hstep, mem_recordBodies_tamperJournal rfl hrecord, hnone⟩
  running := h.running
  halted := h.halted
  unbound := h.unbound
  released := h.released

/-! ### The parts of a zeroise (R103) -/

theorem flagged_zeroiseStart (h : s.line ≠ .zeroised) : flagged .lineState (zeroiseStart s) = true := by
  have hline : flagged .lineState (setLine .zeroised s) = true := by
    rw [setLine, if_neg h]
    exact flagged_setFlag_self ..
  exact (((reached_zeroiseClose s.line).trans reached_zeroiseSlots).trans reached_zeroiseEngine).flags .lineState hline

theorem responses_zeroiseStart (h : s.line = .closing tag) :
    { tag := tag, kind := 0x12, status := .zeroised, changed := false, body := .nothing } ∈ (zeroiseStart s).responses := by
  have hresponses : (zeroiseStart s).responses = (zeroiseClose s.line (setLine .zeroised s)).responses := rfl
  rw [hresponses, h, zeroiseClose]
  exact List.mem_append_right _ (List.mem_singleton_self _)

theorem zeroiseStart_rest : (zeroiseStart s).ceremony = s.ceremony ∧ (zeroiseStart s).consoles = s.consoles
    ∧ (zeroiseStart s).importWork = s.importWork := by
  have h : (zeroiseClose s.line (setLine .zeroised s)).ceremony = s.ceremony
      ∧ (zeroiseClose s.line (setLine .zeroised s)).consoles = s.consoles
      ∧ (zeroiseClose s.line (setLine .zeroised s)).importWork = s.importWork := by
    unfold zeroiseClose
    split <;> simp
  exact h

theorem zeroiseCeremony_of_work (h : s.ceremony.run = .work w) : zeroiseCeremony s = abortCeremony .zeroised none w s := by
  simp only [zeroiseCeremony, h]

theorem zeroiseWork_rest : (zeroiseWork s).line = s.line ∧ (zeroiseWork s).responses = s.responses
    ∧ (zeroiseWork s).importWork = s.importWork.map fun w => { w with zeroised := true } := by
  have h : (zeroiseCeremony s).line = s.line ∧ (zeroiseCeremony s).responses = s.responses
      ∧ (zeroiseCeremony s).importWork = s.importWork := by
    unfold zeroiseCeremony
    split <;> simp
  obtain ⟨hline, hresponses, hwork⟩ := h
  refine ⟨hline, hresponses, ?_⟩
  rw [← hwork]
  rfl

theorem allZeroised_zeroiseWork (h : AllZeroised s.engine) : AllZeroised (zeroiseWork s).engine := by
  have hengine : (zeroiseWork s).engine = (zeroiseCeremony s).engine := rfl
  rw [hengine]
  unfold zeroiseCeremony
  split
  · rw [engine_abortCeremony]
    exact allZeroised_withdrawJob h _
  · exact h

/-- The ceremony that a zeroise aborts: its outcome, its end told, and its COMPONENT under check answered. -/
structure CeremonyZeroised (w : CeremonyWork) (s t : State) : Prop where
  last : t.ceremony.last = some { kind := w.params.kind, aborted := some .zeroised, named := w.params.named }
  flag : flagged .ceremonyEnd t = true
  component : ∀ x, w.underCheck = some x → ComponentAnswered .zeroised x s t

theorem ceremonyZeroised_zeroiseWork (h : s.ceremony.run = .work w) : CeremonyZeroised w s (zeroiseWork s) := by
  have habort : CeremonyZeroised w s (abortCeremony .zeroised none w s) :=
    ⟨last_abortCeremony .., (flagged_congr (flags_abortCeremony ..)).trans (flagged_setFlag_self ..),
      fun x hx => componentAnswered_abortCeremony hx⟩
  rw [← zeroiseCeremony_of_work h] at habort
  exact ⟨habort.last, habort.flag, habort.component⟩

theorem componentAnswered_congr {code : Status} (h : ComponentAnswered code x s t) (hu : u.consoles = s.consoles)
    (hv : v.consoles = t.consoles) : ComponentAnswered code x u v := by
  have hs : u.console x.link = s.console x.link := congrArg (fun c : Tab Console 2 => c.get x.link) hu
  have ht : v.console x.link = t.console x.link := congrArg (fun c : Tab Console 2 => c.get x.link) hv
  unfold ComponentAnswered
  rw [hs, ht]
  exact h

theorem told_zeroiseWork : ConsolesTold s (zeroiseWork s) := by
  have h : ConsolesTold s (zeroiseCeremony s) := by
    unfold zeroiseCeremony
    split
    · exact told_abortCeremony ..
    · exact .of_eq rfl
  exact h.trans (.of_eq rfl)

/-- The part after everything but the journal has been reached. -/
structure AlmostZeroised (s e : State) : Prop where
  line : e.line = .zeroised
  told : ConsolesTold s e
  importWork : e.importWork = s.importWork.map fun w => { w with zeroised := true }
  sessions : SessionsEnded .zeroised s e
  engine : AllZeroised e.engine
  custodians : e.store.custodians = s.store.custodians
  profile : e.profile = s.profile
  mask : e.mask = s.mask
  tamperLine : e.tamperLine = s.tamperLine
  close : ∀ tag, s.line = .closing tag →
    { tag := tag, kind := 0x12, status := .zeroised, changed := false, body := .nothing } ∈ e.responses
  flag : s.line ≠ .zeroised → flagged .lineState e = true
  ceremony : ∀ w, s.ceremony.run = .work w → CeremonyZeroised w s e
  tamper : tamperRecords e = tamperRecords s

theorem almostZeroised (s : State) : AlmostZeroised s (endAllSessions .zeroised (zeroiseWork (zeroiseStart s))) := by
  have hstart := reached_zeroiseStart (s := s)
  have hflag := flagged_zeroiseStart (s := s)
  have hclose := fun tag => responses_zeroiseStart (s := s) (tag := tag)
  have hstartline := line_zeroiseStart (s := s)
  have hengine : AllZeroised (zeroiseStart s).engine := allZeroised_zeroise _
  obtain ⟨hceremony, hconsoles, himport⟩ := zeroiseStart_rest (s := s)
  generalize zeroiseStart s = a at *
  have hwork := reached_zeroiseWork (s := a)
  have hcomponent := fun w => ceremonyZeroised_zeroiseWork (s := a) (w := w)
  have hclosed : ceremonyOpen (zeroiseWork a) = false := closed_zeroiseCeremony
  have htold := (ConsolesTold.of_eq hconsoles).trans (told_zeroiseWork (s := a))
  have hjobs := allZeroised_zeroiseWork hengine
  obtain ⟨hline, hresponses, hzeroised⟩ := zeroiseWork_rest (s := a)
  generalize zeroiseWork a = d at *
  have hreached := hstart.trans hwork
  have hkept := partKept_endAllSessions .zeroised d
  have huntold := untold_endAllSessions hclosed .zeroised
  have hended := hreached.sessionsEnded (sessionsEnded_endAllSessions (reason := .zeroised) rfl d)
  have htamper := tamperRecords_endAllSessions (s := d) .zeroised
  have hallJobs := allZeroised_endAllSessions hjobs .zeroised
  generalize endAllSessions .zeroised d = e at *
  refine ⟨?_, htold.trans (.of_eq huntold.consoles), ?_, hended, hallJobs, hkept.custodians.trans hreached.custodians,
    hkept.profile.trans hreached.profile, hkept.mask.trans hreached.mask, hkept.tamperLine.trans hreached.tamperLine, fun tag hl => ?_,
    fun hl => hkept.flags _ (hwork.flags _ (hflag hl)), fun w hw => ?_, ?_⟩
  · rw [hkept.line, hline, hstartline]
  · rw [hkept.importWork, hzeroised, himport]
  · rw [hkept.responses, hresponses]
    exact hclose tag hl
  · obtain ⟨hlast, hend, hcomponent⟩ := hcomponent w (by rw [hceremony]; exact hw)
    exact ⟨(congrArg Ceremony.last huntold.ceremony).trans hlast, hkept.flags _ hend,
      fun x hx => componentAnswered_congr (hcomponent x hx) hconsoles.symm huntold.consoles⟩
  · rw [htamper, tamperRecords, hreached.records, tamperRecords]

/-! ### The zeroise as a whole (R102-R104) -/

/-- A zeroise of the part. -/
theorem zeroisedTo_zeroisePart (cause : TamperCause) (s : State) : ZeroisedTo cause s (zeroisePart cause s) := by
  have halmost := almostZeroised s
  obtain ⟨-, hclosed, hstream, -⟩ := bare_zeroisePart (s := s) cause
  have hempty := zeroisePart_empty (s := s) cause
  have hfreed := slotsFreed_zeroisePart (s := s) cause
  rw [zeroisePart_eq] at hclosed hstream hempty hfreed ⊢
  generalize endAllSessions .zeroised (zeroiseWork (zeroiseStart s)) = e at *
  obtain ⟨hcounted, hwritten⟩ := tamperJournal_spec cause e
  rw [halmost.tamper] at hcounted hwritten
  refine ⟨halmost.line, fun i => ⟨hempty i, hfreed.generation i⟩, hclosed, fun w hw => ⟨(halmost.ceremony w hw).last, ?_⟩,
    fun w x hw hx => (halmost.ceremony w hw).component x hx, halmost.importWork, hstream, sessionsEnded_tamperJournal halmost.sessions,
    ⟨halmost.engine.running, halmost.engine.waiting⟩, ⟨halmost.custodians, halmost.profile, halmost.mask⟩, halmost.close,
    ⟨flagged_setFlag_self .tamper _, fun hl => ?_⟩, hcounted, hwritten⟩
  · exact flagged_setFlag_mono (f := .ceremonyEnd) (halmost.ceremony w hw).flag
  · exact flagged_setFlag_mono (f := .lineState) (halmost.flag hl)

theorem told_zeroisePart (cause : TamperCause) (s : State) : ConsolesTold s (zeroisePart cause s) := by
  have htold := (almostZeroised s).told
  rw [zeroisePart_eq]
  generalize endAllSessions .zeroised (zeroiseWork (zeroiseStart s)) = e at *
  exact htold.trans (.of_eq rfl)

theorem tamperLine_zeroisePart (cause : TamperCause) (s : State) : (zeroisePart cause s).tamperLine = s.tamperLine := by
  have hline := (almostZeroised s).tamperLine
  rw [zeroisePart_eq]
  generalize endAllSessions .zeroised (zeroiseWork (zeroiseStart s)) = e at *
  exact hline

/-- What the arrival of the cause writes, to the consoles or the tamper line, is no part of what a zeroise asks. -/
theorem zeroisedTo_before (h : ZeroisedTo cause u t) (hu : { u with consoles := s.consoles, tamperLine := s.tamperLine } = s)
    (hunanswered : ∀ k, (s.console k).unanswered = true → (u.console k).unanswered = true) : ZeroisedTo cause s t := by
  generalize s.consoles = c, s.tamperLine = b at hu
  subst hu
  exact ⟨h.line, h.slots, h.ceremony, h.aborted, fun w x hw hx hx' => h.component w x hw hx (hunanswered _ hx'), h.importWork, h.stream,
    sessionsEnded_congr h.sessions rfl rfl rfl rfl rfl rfl, h.engine, h.kept, h.close, h.flags, h.tamper⟩

theorem exec_tamperLineAsserted (hrun : s.running = true) (ht : s.tamperLine = false) :
    exec .tamperLineAsserted s = .next (zeroisePart .tamperLine { s with tamperLine := true }) := by
  refine congrArg Host.Outcome.next ?_
  have hrunning : ({ s with tamperLine := true } : State).running = true := hrun
  simp only [coverOpens, ht, hrunning, Bool.false_eq_true, if_false, if_true]

theorem exec_zeroise (hs : Listens l s) (hc : LoggedOn l c s) :
    exec (.zeroise l) s = .next (zeroisePart (.custodian c) (told l 0x0A .ok .nothing (heard l s))) := by
  refine congrArg Host.Outcome.next ?_
  have hcust : (personOf c s).cust = c := rfl
  rw [messageZeroise, consoleMessageFrom_of_loggedOn hs hc, consoleZeroise, hcust, answer_of_present (heard_present hs.1)]

end

end Sys2Proof.Machine

open Sys2Proof Sys2Proof.Machine Sys2Proof.Safety

/-- Settles O16: both arrivals run `zeroisePart`, whose parts reach the slots, the ceremony, the import, the engine, the sessions and
the journal in turn. -/
theorem zeroiseReachesEveryBlock : Obligations.ZeroiseReachesEveryBlock := by
  intro s
  refine ⟨fun hrun ht => ⟨_, exec_tamperLineAsserted hrun ht, tamperLine_zeroisePart .., ?_⟩, fun l c hs hc =>
    ⟨_, exec_zeroise hs hc, ?_, ?_, fun k => ?_⟩⟩
  · exact zeroisedTo_before (zeroisedTo_zeroisePart ..) rfl fun _ h => h
  · exact zeroisedTo_before (zeroisedTo_zeroisePart ..) rfl fun k h => unanswered_told.trans h
  · exact ((told_zeroisePart ..).console l).answers _ rfl mem_told
  · rw [((told_zeroisePart ..).console k).logon]
    exact who_told

end
